-- ==== Sys2Proof/Syntax.lean ====
section
/-! DEFINITION. The instructions of spec/opcode_table.json, one constructor per row: 191 instruction words
(spec/06 R139, fields named as the table names them, registers as their whole 6-bit field) and 121 steps of the
machine that no word encodes (spec/95), whose arguments are the outside inputs and the open choices of the step. -/

namespace Sys2Proof

/-- What SETOWNERS brings (R276): the module owner set, and the pod module number that the fabric manager assigns (R84, log
entry 66). -/
structure Membership where
  position : Nat
  owners : List Nat
  deriving DecidableEq, Repr

/-- A packet's source and destination module, and the hop count of its header (R277). -/
structure Flow where
  src : Nat
  dest : Nat
  hops : Nat
  deriving DecidableEq, Repr

/-- What a guest die answers a recall with (R260): a mask of the line's dirty sectors, and whether it keeps the line in S. -/
structure KeptSectors where
  dirty : Nat
  keep : Bool
  deriving DecidableEq, Repr

/-- What comes to a tap over the management network for a record under repair (R350): the record of that LSN, or a downstream
tap's request for it. -/
inductive RepairOf where
  | record (lsn : Nat)
  | request (lsn : Nat)
  deriving DecidableEq, Repr

/-- What comes to a tap for a snapshot (R354): a copy at an LSN, or a downstream tap's request for one, with the LSN of the
first record it holds and the owner whose partition it resynchronizes. -/
inductive CopyOf where
  | copy (at_ : Nat)
  | request (first : Nat) (owner : Option Nat)
  deriving DecidableEq, Repr

/-- One row of spec/opcode_table.json. `c` is the chain bit, `g` the guard field (R133). -/
inductive Instr where
  /-- NOP (R174). Does nothing and ignores its guard. -/
  | nop (c : Bool) (g : BitVec 4)
  /-- YIELD (R174). Resets the run's ageing counter and lowers its issue preference for 16 issue cycles. -/
  | yield (c : Bool) (g : BitVec 4)
  /-- ADD (R152). Per lane, D := trunc(A + B, 32). -/
  | add (c : Bool) (g : BitVec 4) (d : BitVec 6) (a : BitVec 6) (b : BitVec 6)
  /-- SUB (R152). Per lane, D := trunc(A - B, 32). -/
  | sub (c : Bool) (g : BitVec 4) (d : BitVec 6) (a : BitVec 6) (b : BitVec 6)
  /-- MUL (R152). Per lane, D := low 32 bits of A × B. -/
  | mul (c : Bool) (g : BitVec 4) (d : BitVec 6) (a : BitVec 6) (b : BitVec 6)
  /-- MULHS (R152). Per lane, D := high 32 bits of the signed product. -/
  | mulhs (c : Bool) (g : BitVec 4) (d : BitVec 6) (a : BitVec 6) (b : BitVec 6)
  /-- MULHU (R152). Per lane, D := high 32 bits of the unsigned product. -/
  | mulhu (c : Bool) (g : BitVec 4) (d : BitVec 6) (a : BitVec 6) (b : BitVec 6)
  /-- MINS (R152). Per lane, D := signed minimum of A and B. -/
  | mins (c : Bool) (g : BitVec 4) (d : BitVec 6) (a : BitVec 6) (b : BitVec 6)
  /-- MAXS (R152). Per lane, D := signed maximum of A and B. -/
  | maxs (c : Bool) (g : BitVec 4) (d : BitVec 6) (a : BitVec 6) (b : BitVec 6)
  /-- ADDS (R152). Per lane, D := saturating signed sum of A and B. -/
  | adds (c : Bool) (g : BitVec 4) (d : BitVec 6) (a : BitVec 6) (b : BitVec 6)
  /-- AND (R153). Per lane, D := A and B. -/
  | and (c : Bool) (g : BitVec 4) (d : BitVec 6) (a : BitVec 6) (b : BitVec 6)
  /-- OR (R153). Per lane, D := A or B. -/
  | or (c : Bool) (g : BitVec 4) (d : BitVec 6) (a : BitVec 6) (b : BitVec 6)
  /-- XOR (R153). Per lane, D := A xor B. -/
  | xor (c : Bool) (g : BitVec 4) (d : BitVec 6) (a : BitVec 6) (b : BitVec 6)
  /-- ANDN (R153). Per lane, D := A and not B. -/
  | andn (c : Bool) (g : BitVec 4) (d : BitVec 6) (a : BitVec 6) (b : BitVec 6)
  /-- ORN (R153). Per lane, D := A or not B. -/
  | orn (c : Bool) (g : BitVec 4) (d : BitVec 6) (a : BitVec 6) (b : BitVec 6)
  /-- XNOR (R153). Per lane, D := not (A xor B). -/
  | xnor (c : Bool) (g : BitVec 4) (d : BitVec 6) (a : BitVec 6) (b : BitVec 6)
  /-- MINU (R153). Per lane, D := unsigned minimum of A and B. -/
  | minu (c : Bool) (g : BitVec 4) (d : BitVec 6) (a : BitVec 6) (b : BitVec 6)
  /-- MAXU (R153). Per lane, D := unsigned maximum of A and B. -/
  | maxu (c : Bool) (g : BitVec 4) (d : BitVec 6) (a : BitVec 6) (b : BitVec 6)
  /-- SHL (R154). Per lane, shifts A left by uB, giving 0 for 32 or more. -/
  | shl (c : Bool) (g : BitVec 4) (d : BitVec 6) (a : BitVec 6) (b : BitVec 6)
  /-- SHR (R154). Per lane, shifts A right logically by uB. -/
  | shr (c : Bool) (g : BitVec 4) (d : BitVec 6) (a : BitVec 6) (b : BitVec 6)
  /-- SAR (R154). Per lane, shifts A right arithmetically by uB. -/
  | sar (c : Bool) (g : BitVec 4) (d : BitVec 6) (a : BitVec 6) (b : BitVec 6)
  /-- ROL (R154). Per lane, rotates A left by uB mod 32. -/
  | rol (c : Bool) (g : BitVec 4) (d : BitVec 6) (a : BitVec 6) (b : BitVec 6)
  /-- ROR (R154). Per lane, rotates A right by uB mod 32. -/
  | ror (c : Bool) (g : BitVec 4) (d : BitVec 6) (a : BitVec 6) (b : BitVec 6)
  /-- CLZ (R154). Per lane, counts the leading zero bits of A. -/
  | clz (c : Bool) (g : BitVec 4) (d : BitVec 6) (a : BitVec 6)
  /-- POPC (R154). Per lane, counts the set bits of A. -/
  | popc (c : Bool) (g : BitVec 4) (d : BitVec 6) (a : BitVec 6)
  /-- BREV (R154). Per lane, reverses the bit order of A. -/
  | brev (c : Bool) (g : BitVec 4) (d : BitVec 6) (a : BitVec 6)
  /-- CMP_EQ (R155). Per lane, sets predicate D to A = B. -/
  | cmpEq (c : Bool) (g : BitVec 4) (d : BitVec 3) (a : BitVec 6) (b : BitVec 6)
  /-- CMP_NE (R155). Per lane, sets predicate D to A ≠ B. -/
  | cmpNe (c : Bool) (g : BitVec 4) (d : BitVec 3) (a : BitVec 6) (b : BitVec 6)
  /-- CMP_LT (R155). Per lane, sets predicate D to sA < sB. -/
  | cmpLt (c : Bool) (g : BitVec 4) (d : BitVec 3) (a : BitVec 6) (b : BitVec 6)
  /-- CMP_LE (R155). Per lane, sets predicate D to sA ≤ sB. -/
  | cmpLe (c : Bool) (g : BitVec 4) (d : BitVec 3) (a : BitVec 6) (b : BitVec 6)
  /-- CMP_LTU (R155). Per lane, sets predicate D to uA < uB. -/
  | cmpLtu (c : Bool) (g : BitVec 4) (d : BitVec 3) (a : BitVec 6) (b : BitVec 6)
  /-- CMP_LEU (R155). Per lane, sets predicate D to uA ≤ uB. -/
  | cmpLeu (c : Bool) (g : BitVec 4) (d : BitVec 3) (a : BitVec 6) (b : BitVec 6)
  /-- CMP_TST (R155). Per lane, sets predicate D to (A and B) ≠ 0. -/
  | cmpTst (c : Bool) (g : BitVec 4) (d : BitVec 3) (a : BitVec 6) (b : BitVec 6)
  /-- ADDI (R156). Per lane, adds a sign-extended 9-bit immediate to A. -/
  | addi (c : Bool) (g : BitVec 4) (d : BitVec 6) (a : BitVec 6) (i : BitVec 9)
  /-- ANDI (R156). Per lane, ands A with a sign-extended immediate. -/
  | andi (c : Bool) (g : BitVec 4) (d : BitVec 6) (a : BitVec 6) (i : BitVec 9)
  /-- ORI (R156). Per lane, ors A with a sign-extended immediate. -/
  | ori (c : Bool) (g : BitVec 4) (d : BitVec 6) (a : BitVec 6) (i : BitVec 9)
  /-- XORI (R156). Per lane, xors A with a sign-extended immediate. -/
  | xori (c : Bool) (g : BitVec 4) (d : BitVec 6) (a : BitVec 6) (i : BitVec 9)
  /-- SHLI (R156). Per lane, shifts A left by a 5-bit immediate. -/
  | shli (c : Bool) (g : BitVec 4) (d : BitVec 6) (a : BitVec 6) (i : BitVec 5)
  /-- SHRI (R156). Per lane, shifts A right logically by a 5-bit immediate. -/
  | shri (c : Bool) (g : BitVec 4) (d : BitVec 6) (a : BitVec 6) (i : BitVec 5)
  /-- SARI (R156). Per lane, shifts A right arithmetically by a 5-bit immediate. -/
  | sari (c : Bool) (g : BitVec 4) (d : BitVec 6) (a : BitVec 6) (i : BitVec 5)
  /-- MOVI (R157). Per lane, D := sign-extended 15-bit immediate. -/
  | movi (c : Bool) (g : BitVec 4) (d : BitVec 6) (i : BitVec 15)
  /-- MOVSH (R157). Per lane, shifts D left 15 and adds a zero-extended 15-bit immediate. -/
  | movsh (c : Bool) (g : BitVec 4) (d : BitVec 6) (i : BitVec 15)
  /-- ADD64 (R158). Per lane, adds two 64-bit register pairs. -/
  | add64 (c : Bool) (g : BitVec 4) (d : BitVec 6) (a : BitVec 6) (b : BitVec 6)
  /-- SUB64 (R158). Per lane, subtracts two 64-bit register pairs. -/
  | sub64 (c : Bool) (g : BitVec 4) (d : BitVec 6) (a : BitVec 6) (b : BitVec 6)
  /-- ADDSX64 (R158). Per lane, adds a sign-extended 32-bit register to a pair. -/
  | addsx64 (c : Bool) (g : BitVec 4) (d : BitVec 6) (a : BitVec 6) (b : BitVec 6)
  /-- ADDZX64 (R158). Per lane, adds a zero-extended 32-bit register to a pair. -/
  | addzx64 (c : Bool) (g : BitVec 4) (d : BitVec 6) (a : BitVec 6) (b : BitVec 6)
  /-- SHL64 (R158). Per lane, shifts a pair left by B's low 6 bits. -/
  | shl64 (c : Bool) (g : BitVec 4) (d : BitVec 6) (a : BitVec 6) (b : BitVec 6)
  /-- SHR64 (R158). Per lane, shifts a pair right logically by B's low 6 bits. -/
  | shr64 (c : Bool) (g : BitVec 4) (d : BitVec 6) (a : BitVec 6) (b : BitVec 6)
  /-- SAR64 (R158). Per lane, shifts a pair right arithmetically by B's low 6 bits. -/
  | sar64 (c : Bool) (g : BitVec 4) (d : BitVec 6) (a : BitVec 6) (b : BitVec 6)
  /-- MUL64 (R158). Per lane, multiplies two pairs modulo 2^64. -/
  | mul64 (c : Bool) (g : BitVec 4) (d : BitVec 6) (a : BitVec 6) (b : BitVec 6)
  /-- ADR (R159). Per lane, writes a pair with a packet address relative to this word's packet. -/
  | adr (c : Bool) (g : BitVec 4) (d : BitVec 6) (i : BitVec 15)
  /-- FADD (R160). Per lane, rounds A + B to FP32 once under RM. -/
  | fadd (c : Bool) (g : BitVec 4) (d : BitVec 6) (a : BitVec 6) (b : BitVec 6) (r : BitVec 3)
  /-- FSUB (R160). Per lane, rounds A − B to FP32 once under RM. -/
  | fsub (c : Bool) (g : BitVec 4) (d : BitVec 6) (a : BitVec 6) (b : BitVec 6) (r : BitVec 3)
  /-- FMUL (R160). Per lane, rounds A × B to FP32 once under RM. -/
  | fmul (c : Bool) (g : BitVec 4) (d : BitVec 6) (a : BitVec 6) (b : BitVec 6) (r : BitVec 3)
  /-- FFMA (R160). Per lane, rounds A × B + D to FP32 once. -/
  | ffma (c : Bool) (g : BitVec 4) (d : BitVec 6) (a : BitVec 6) (b : BitVec 6) (r : BitVec 3)
  /-- FFMS (R160). Per lane, rounds A × B − D to FP32 once. -/
  | ffms (c : Bool) (g : BitVec 4) (d : BitVec 6) (a : BitVec 6) (b : BitVec 6) (r : BitVec 3)
  /-- FNMA (R160). Per lane, rounds −(A × B) + D to FP32 once. -/
  | fnma (c : Bool) (g : BitVec 4) (d : BitVec 6) (a : BitVec 6) (b : BitVec 6) (r : BitVec 3)
  /-- HADD_BF16X2 (R161). Per lane, adds two BF16 element pairs, each rounded once. -/
  | haddBf16x2 (c : Bool) (g : BitVec 4) (d : BitVec 6) (a : BitVec 6) (b : BitVec 6) (r : BitVec 3)
  /-- HMUL_BF16X2 (R161). Per lane, multiplies two BF16 element pairs. -/
  | hmulBf16x2 (c : Bool) (g : BitVec 4) (d : BitVec 6) (a : BitVec 6) (b : BitVec 6) (r : BitVec 3)
  /-- HFMA_BF16X2 (R161). Per lane, fused multiply-add on two BF16 element pairs. -/
  | hfmaBf16x2 (c : Bool) (g : BitVec 4) (d : BitVec 6) (a : BitVec 6) (b : BitVec 6) (r : BitVec 3)
  /-- FDOT2_BF16 (R161). Per lane, adds a two-element BF16 dot product to FP32 D, rounded once. -/
  | fdot2Bf16 (c : Bool) (g : BitVec 4) (d : BitVec 6) (a : BitVec 6) (b : BitVec 6) (r : BitVec 3)
  /-- FMIN (R162). Per lane, FP32 minimum with NaN and signed-zero rules. -/
  | fmin (c : Bool) (g : BitVec 4) (d : BitVec 6) (a : BitVec 6) (b : BitVec 6)
  /-- FMAX (R162). Per lane, FP32 maximum with NaN and signed-zero rules. -/
  | fmax (c : Bool) (g : BitVec 4) (d : BitVec 6) (a : BitVec 6) (b : BitVec 6)
  /-- FABS (R162). Per lane, clears the sign bit of A. -/
  | fabs (c : Bool) (g : BitVec 4) (d : BitVec 6) (a : BitVec 6)
  /-- FNEG (R162). Per lane, flips the sign bit of A. -/
  | fneg (c : Bool) (g : BitVec 4) (d : BitVec 6) (a : BitVec 6)
  /-- FCOPYSIGN (R162). Per lane, gives A's magnitude with B's sign. -/
  | fcopysign (c : Bool) (g : BitVec 4) (d : BitVec 6) (a : BitVec 6) (b : BitVec 6)
  /-- FCLASS (R162). Per lane, writes the one-hot class of A. -/
  | fclass (c : Bool) (g : BitVec 4) (d : BitVec 6) (a : BitVec 6)
  /-- FCMP_EQ (R163). Per lane, sets predicate D to ordered A = B. -/
  | fcmpEq (c : Bool) (g : BitVec 4) (d : BitVec 3) (a : BitVec 6) (b : BitVec 6)
  /-- FCMP_NE (R163). Per lane, sets predicate D to A ≠ B, true when unordered. -/
  | fcmpNe (c : Bool) (g : BitVec 4) (d : BitVec 3) (a : BitVec 6) (b : BitVec 6)
  /-- FCMP_LT (R163). Per lane, sets predicate D to ordered A < B. -/
  | fcmpLt (c : Bool) (g : BitVec 4) (d : BitVec 3) (a : BitVec 6) (b : BitVec 6)
  /-- FCMP_LE (R163). Per lane, sets predicate D to ordered A ≤ B. -/
  | fcmpLe (c : Bool) (g : BitVec 4) (d : BitVec 3) (a : BitVec 6) (b : BitVec 6)
  /-- FCMP_UN (R163). Per lane, sets predicate D when the pair is unordered. -/
  | fcmpUn (c : Bool) (g : BitVec 4) (d : BitVec 3) (a : BitVec 6) (b : BitVec 6)
  /-- FSCALE (R164). Per lane, rounds A × 2^sB to FP32. -/
  | fscale (c : Bool) (g : BitVec 4) (d : BitVec 6) (a : BitVec 6) (b : BitVec 6) (r : BitVec 3)
  /-- FRINT (R164). Per lane, rounds A to an integral FP32 value under RM. -/
  | frint (c : Bool) (g : BitVec 4) (d : BitVec 6) (a : BitVec 6) (r : BitVec 3)
  /-- CVT_BF16_F32 (R165). Per lane, rounds FP32 A to BF16 in D[15:0]. -/
  | cvtBf16F32 (c : Bool) (g : BitVec 4) (d : BitVec 6) (a : BitVec 6) (r : BitVec 3)
  /-- CVT_F32_BF16 (R165). Per lane, widens BF16 A[15:0] to FP32 exactly. -/
  | cvtF32Bf16 (c : Bool) (g : BitVec 4) (d : BitVec 6) (a : BitVec 6) (r : BitVec 3)
  /-- CVT_E4M3_F32 (R165). Per lane, rounds FP32 A to saturating E4M3 in D[7:0]. -/
  | cvtE4m3F32 (c : Bool) (g : BitVec 4) (d : BitVec 6) (a : BitVec 6) (r : BitVec 3)
  /-- CVT_F32_E4M3 (R165). Per lane, widens E4M3 A[7:0] to FP32 exactly. -/
  | cvtF32E4m3 (c : Bool) (g : BitVec 4) (d : BitVec 6) (a : BitVec 6) (r : BitVec 3)
  /-- CVT_I32_F32 (R165). Per lane, converts FP32 to saturating i32, NaN giving 0. -/
  | cvtI32F32 (c : Bool) (g : BitVec 4) (d : BitVec 6) (a : BitVec 6) (r : BitVec 3)
  /-- CVT_N32_F32 (R165). Per lane, converts FP32 to saturating u32, NaN giving 0. -/
  | cvtN32F32 (c : Bool) (g : BitVec 4) (d : BitVec 6) (a : BitVec 6) (r : BitVec 3)
  /-- CVT_F32_I32 (R165). Per lane, rounds signed A to FP32. -/
  | cvtF32I32 (c : Bool) (g : BitVec 4) (d : BitVec 6) (a : BitVec 6) (r : BitVec 3)
  /-- CVT_F32_N32 (R165). Per lane, rounds unsigned A to FP32. -/
  | cvtF32N32 (c : Bool) (g : BitVec 4) (d : BitVec 6) (a : BitVec 6) (r : BitVec 3)
  /-- CVT_I16_I32 (R165). Per lane, clamps signed A to i16 in D[15:0], not sign-extended. -/
  | cvtI16I32 (c : Bool) (g : BitVec 4) (d : BitVec 6) (a : BitVec 6) (r : BitVec 3)
  /-- CVT_I8_I32 (R165). Per lane, clamps signed A to i8 in D[7:0]. -/
  | cvtI8I32 (c : Bool) (g : BitVec 4) (d : BitVec 6) (a : BitVec 6) (r : BitVec 3)
  /-- CVT_N16_N32 (R165). Per lane, clamps unsigned A to u16. -/
  | cvtN16N32 (c : Bool) (g : BitVec 4) (d : BitVec 6) (a : BitVec 6) (r : BitVec 3)
  /-- CVT_N8_N32 (R165). Per lane, clamps unsigned A to u8. -/
  | cvtN8N32 (c : Bool) (g : BitVec 4) (d : BitVec 6) (a : BitVec 6) (r : BitVec 3)
  /-- SHFL (R166). Per lane, reads A from the participant with thread index uB, else its own. -/
  | shfl (c : Bool) (g : BitVec 4) (d : BitVec 6) (a : BitVec 6) (b : BitVec 6)
  /-- SHFL_UP (R166). Per lane, reads A from index idx − uB. -/
  | shflUp (c : Bool) (g : BitVec 4) (d : BitVec 6) (a : BitVec 6) (b : BitVec 6)
  /-- SHFL_DOWN (R166). Per lane, reads A from index idx + uB. -/
  | shflDown (c : Bool) (g : BitVec 4) (d : BitVec 6) (a : BitVec 6) (b : BitVec 6)
  /-- SHFL_XOR (R166). Per lane, reads A from index idx xor uB. -/
  | shflXor (c : Bool) (g : BitVec 4) (d : BitVec 6) (a : BitVec 6) (b : BitVec 6)
  /-- BALLOT (R166). Per lane, gathers a 32-bit mask of participants with nonzero A. -/
  | ballot (c : Bool) (g : BitVec 4) (d : BitVec 6) (a : BitVec 6)
  /-- RCP (R167). Per lane, correctly rounded reciprocal of A. -/
  | rcp (c : Bool) (g : BitVec 4) (d : BitVec 6) (a : BitVec 6)
  /-- RSQRT (R167). Per lane, reciprocal square root from its allowed set. -/
  | rsqrt (c : Bool) (g : BitVec 4) (d : BitVec 6) (a : BitVec 6)
  /-- SQRT (R167). Per lane, correctly rounded square root. -/
  | sqrt (c : Bool) (g : BitVec 4) (d : BitVec 6) (a : BitVec 6)
  /-- EXP2 (R167). Per lane, 2^A from its allowed set. -/
  | exp2 (c : Bool) (g : BitVec 4) (d : BitVec 6) (a : BitVec 6)
  /-- LOG2 (R167). Per lane, log2 A from its allowed set. -/
  | log2 (c : Bool) (g : BitVec 4) (d : BitVec 6) (a : BitVec 6)
  /-- SINPI (R167). Per lane, sin(πA) from its allowed set. -/
  | sinpi (c : Bool) (g : BitVec 4) (d : BitVec 6) (a : BitVec 6)
  /-- COSPI (R167). Per lane, cos(πA) from its allowed set. -/
  | cospi (c : Bool) (g : BitVec 4) (d : BitVec 6) (a : BitVec 6)
  /-- TANH (R167). Per lane, tanh A from its allowed set. -/
  | tanh (c : Bool) (g : BitVec 4) (d : BitVec 6) (a : BitVec 6)
  /-- DIV (R168). Per lane, signed division toward zero with fixed results for zero and overflow. -/
  | div (c : Bool) (g : BitVec 4) (d : BitVec 6) (a : BitVec 6) (b : BitVec 6)
  /-- DIVU (R168). Per lane, unsigned division, all ones on division by zero. -/
  | divu (c : Bool) (g : BitVec 4) (d : BitVec 6) (a : BitVec 6) (b : BitVec 6)
  /-- REM (R168). Per lane, signed remainder with fixed results for zero and overflow. -/
  | rem (c : Bool) (g : BitVec 4) (d : BitVec 6) (a : BitVec 6) (b : BitVec 6)
  /-- REMU (R168). Per lane, unsigned remainder, A on division by zero. -/
  | remu (c : Bool) (g : BitVec 4) (d : BitVec 6) (a : BitVec 6) (b : BitVec 6)
  /-- FDIV (R168). Per lane, FP32 division rounded to nearest even. -/
  | fdiv (c : Bool) (g : BitVec 4) (d : BitVec 6) (a : BitVec 6) (b : BitVec 6)
  /-- RAND (R168). Per lane, steps the thread's xorshift64* generator and returns its high 32 output bits. -/
  | rand (c : Bool) (g : BitVec 4) (d : BitVec 6)
  /-- LD (R177). Per lane, loads 1–8 bytes zero-extended from va at a read time chosen by R64. -/
  | ld (c : Bool) (g : BitVec 4) (d : BitVec 6) (a : BitVec 6) (z : BitVec 2) (t : BitVec 3) (l : BitVec 4)
  /-- LDS (R177). Per lane, loads 1–4 bytes sign-extended. -/
  | lds (c : Bool) (g : BitVec 4) (d : BitVec 6) (a : BitVec 6) (z : BitVec 2) (t : BitVec 3) (l : BitVec 4)
  /-- ST (R178). Per lane, stores 1–8 bytes, performed at the home with a write time by R63. -/
  | st (c : Bool) (g : BitVec 4) (d : BitVec 6) (a : BitVec 6) (z : BitVec 2) (t : BitVec 3) (l : BitVec 4)
  /-- LD_RO (R179). Per lane, reads-only load returning a value from the R75 set. -/
  | ldRo (c : Bool) (g : BitVec 4) (d : BitVec 6) (a : BitVec 6) (z : BitVec 2) (t : BitVec 3) (l : BitVec 4)
  /-- LD_ACQ (R180). Per lane, loads and, at slice scope or wider, raises the read floor to the write time read. -/
  | ldAcq (c : Bool) (g : BitVec 4) (d : BitVec 6) (a : BitVec 6) (s : BitVec 3) (z : BitVec 2) (t : BitVec 3)
  /-- ST_REL (R180). Per lane, store performed only after every earlier access completes, with floor W. -/
  | stRel (c : Bool) (g : BitVec 4) (d : BitVec 6) (a : BitVec 6) (s : BitVec 3) (z : BitVec 2) (t : BitVec 3)
  /-- PF (R181). Per lane, the L2 fetches and leases the line holding va. -/
  | pf (c : Bool) (g : BitVec 4) (a : BitVec 6) (t : BitVec 3) (l : BitVec 4)
  /-- ATOM_ADD (R182). Per lane, atomic integer add at the word's home, aggregated per address. -/
  | atomAdd (c : Bool) (g : BitVec 4) (d : BitVec 6) (a : BitVec 6) (w : BitVec 1) (t : BitVec 3)
  /-- ATOM_MINS (R182). Per lane, atomic signed minimum. -/
  | atomMins (c : Bool) (g : BitVec 4) (d : BitVec 6) (a : BitVec 6) (w : BitVec 1) (t : BitVec 3)
  /-- ATOM_MAXS (R182). Per lane, atomic signed maximum. -/
  | atomMaxs (c : Bool) (g : BitVec 4) (d : BitVec 6) (a : BitVec 6) (w : BitVec 1) (t : BitVec 3)
  /-- ATOM_MINU (R182). Per lane, atomic unsigned minimum. -/
  | atomMinu (c : Bool) (g : BitVec 4) (d : BitVec 6) (a : BitVec 6) (w : BitVec 1) (t : BitVec 3)
  /-- ATOM_MAXU (R182). Per lane, atomic unsigned maximum. -/
  | atomMaxu (c : Bool) (g : BitVec 4) (d : BitVec 6) (a : BitVec 6) (w : BitVec 1) (t : BitVec 3)
  /-- ATOM_AND (R182). Per lane, atomic bitwise and. -/
  | atomAnd (c : Bool) (g : BitVec 4) (d : BitVec 6) (a : BitVec 6) (w : BitVec 1) (t : BitVec 3)
  /-- ATOM_OR (R182). Per lane, atomic bitwise or. -/
  | atomOr (c : Bool) (g : BitVec 4) (d : BitVec 6) (a : BitVec 6) (w : BitVec 1) (t : BitVec 3)
  /-- ATOM_XOR (R182). Per lane, atomic bitwise xor. -/
  | atomXor (c : Bool) (g : BitVec 4) (d : BitVec 6) (a : BitVec 6) (w : BitVec 1) (t : BitVec 3)
  /-- ATOM_XCHG (R182). Per lane, atomic exchange. -/
  | atomXchg (c : Bool) (g : BitVec 4) (d : BitVec 6) (a : BitVec 6) (w : BitVec 1) (t : BitVec 3)
  /-- ATOM_CAS (R182). Per lane, atomic compare and swap with compare in D and swap in D+1. -/
  | atomCas (c : Bool) (g : BitVec 4) (d : BitVec 6) (a : BitVec 6) (w : BitVec 1) (t : BitVec 3)
  /-- ATOM_FADD (R183). Per lane, atomic FP32 add with prefix-sum aggregation in RNE. -/
  | atomFadd (c : Bool) (g : BitVec 4) (d : BitVec 6) (a : BitVec 6) (t : BitVec 3)
  /-- ATOM_FMIN (R182). Per lane, atomic FP32 minimum. -/
  | atomFmin (c : Bool) (g : BitVec 4) (d : BitVec 6) (a : BitVec 6) (t : BitVec 3)
  /-- ATOM_FMAX (R182). Per lane, atomic FP32 maximum. -/
  | atomFmax (c : Bool) (g : BitVec 4) (d : BitVec 6) (a : BitVec 6) (t : BitVec 3)
  /-- FENCE (R184). Waits for the thread's earlier token-setting instructions and at slice scope or wider raises F to W. -/
  | fence (c : Bool) (g : BitVec 4) (s : BitVec 3) (t : BitVec 3)
  /-- SEAL (R185). Marks a page range read-only, completing after the three steps of R74. -/
  | seal (c : Bool) (g : BitVec 4) (d : BitVec 6) (a : BitVec 6) (s : BitVec 3) (t : BitVec 3)
  /-- UNSEAL (R185). Clears a seal mark and drops every replica of the range. -/
  | unseal (c : Bool) (g : BitVec 4) (d : BitVec 6) (a : BitVec 6) (s : BitVec 3) (t : BitVec 3)
  /-- WATCH (R186). Per lane, registers a watch at the word's home, completing when the word differs from D. -/
  | watch (c : Bool) (g : BitVec 4) (d : BitVec 6) (a : BitVec 6) (s : BitVec 3) (t : BitVec 3)
  /-- WAIT (R187). Holds the thread until every named token is clear. -/
  | wait (g : BitVec 4) (m : BitVec 8)
  /-- SLEEP_UNTIL (R188). Per lane, parks the thread until the 32-bit clk value T is reached. -/
  | sleepUntil (g : BitVec 4) (a : BitVec 6)
  /-- BAR_ARRIVE (R190). Arrives at barrier (level, BAR) without waiting for the phase. -/
  | barArrive (g : BitVec 4) (l : BitVec 3) (b : BitVec 4)
  /-- BAR_WAIT (R190). Arrives at a barrier and waits until its phase completes. -/
  | barWait (g : BitVec 4) (l : BitVec 3) (b : BitVec 4)
  /-- BAR_ARRIVE_EXP (R190). Arrives at a barrier with the weight held in gD. -/
  | barArriveExp (g : BitVec 4) (d : BitVec 6) (l : BitVec 3) (b : BitVec 4)
  /-- CM_LD (R194). Per lane, reads control memory from the local replica at the applied LSN. -/
  | cmLd (c : Bool) (g : BitVec 4) (d : BitVec 6) (a : BitVec 6) (z : BitVec 1) (t : BitVec 3)
  /-- CM_ST (R195). Per lane, broadcasts a STORE record, completing when it is applied locally. -/
  | cmSt (c : Bool) (g : BitVec 4) (d : BitVec 6) (a : BitVec 6) (z : BitVec 1) (r : BitVec 1) (t : BitVec 3) (y : BitVec 1)
  /-- CM_ADD (R195). Per lane, broadcasts an ADD record and returns the fetch. -/
  | cmAdd (c : Bool) (g : BitVec 4) (d : BitVec 6) (a : BitVec 6) (z : BitVec 1) (r : BitVec 1) (t : BitVec 3) (y : BitVec 1)
  /-- CM_CLAIM (R195). Per lane, broadcasts a CLAIM record and returns the 8-byte fetch, 0 when won. -/
  | cmClaim (c : Bool) (g : BitVec 4) (d : BitVec 6) (a : BitVec 6) (r : BitVec 1) (t : BitVec 3) (y : BitVec 1)
  /-- CM_WAIT (R196). Per lane, parks the thread until the control-memory word differs from the compare value. -/
  | cmWait (c : Bool) (g : BitVec 4) (d : BitVec 6) (a : BitVec 6) (z : BitVec 1) (t : BitVec 3)
  /-- CM_LSN (R197). Per lane, returns the LSN of the lane's last broadcast once it has returned. -/
  | cmLsn (c : Bool) (g : BitVec 4) (d : BitVec 6) (t : BitVec 3)
  /-- CM_LAUNCH (R193). Per lane, broadcasts a LAUNCH record naming an image, MASK and AUX. -/
  | cmLaunch (c : Bool) (g : BitVec 4) (d : BitVec 6) (a : BitVec 6) (r : BitVec 1) (t : BitVec 3) (y : BitVec 1)
  /-- CM_PTE (R193). In system mode, broadcasts a PTE record, completing when applied with every acknowledgement. -/
  | cmPte (c : Bool) (g : BitVec 4) (d : BitVec 6) (a : BitVec 6) (r : BitVec 1) (t : BitVec 3) (y : BitVec 1)
  /-- FENCE_SEQ (R198). Per lane, completes when the module's applied LSN reaches n, then raises F. -/
  | fenceSeq (c : Bool) (g : BitVec 4) (a : BitVec 6) (t : BitVec 3)
  /-- FENCE_SEQ_ALL (R198). Per lane, completes when the module's applied horizon reaches n. -/
  | fenceSeqAll (c : Bool) (g : BitVec 4) (a : BitVec 6) (t : BitVec 3)
  /-- SHLD (R205). Reads and checks a 64-byte shape record into a handle and its shadow. -/
  | shld (c : Bool) (s : BitVec 4) (a : BitVec 6) (t : BitVec 3) (l : BitVec 4)
  /-- SHST (R205). Stores a handle's 64 bytes to memory. -/
  | shst (c : Bool) (s : BitVec 4) (a : BitVec 6) (t : BitVec 3) (l : BitVec 4)
  /-- SHMOD (R205). Replaces one 4-byte word of a handle's record, checking the result. -/
  | shmod (c : Bool) (s : BitVec 4) (d : BitVec 6) (n : BitVec 4) (t : BitVec 3) (l : BitVec 4)
  /-- TCP (R212). Publishes a COPY entry in the copy ring as a pad-scope release and returns its promise. -/
  | tcp (c : Bool) (s : BitVec 4) (d : BitVec 6) (a : BitVec 6) (t : BitVec 3) (l : BitVec 4)
  /-- TCP_RED (R218). Publishes a RED entry sending a collective contribution to posted windows. -/
  | tcpRed (c : Bool) (s : BitVec 4) (d : BitVec 6) (a : BitVec 6) (t : BitVec 3) (l : BitVec 4)
  /-- TCP_POST (R217). Publishes a POST entry registering a receive window at its home agent. -/
  | tcpPost (c : Bool) (s : BitVec 4) (d : BitVec 6) (a : BitVec 6) (t : BitVec 3) (l : BitVec 4)
  /-- CTR_ADD (R214). After earlier accesses are visible, adds to an event counter on the context's counter page. -/
  | ctrAdd (c : Bool) (d : BitVec 6) (a : BitVec 6) (t : BitVec 3) (l : BitVec 4)
  /-- CTR_LD (R214). Reads the low 32 bits of an event counter as a pod-scope acquire. -/
  | ctrLd (c : Bool) (d : BitVec 6) (a : BitVec 6) (t : BitVec 3) (l : BitVec 4)
  /-- RING_ARM (R216). Arms a composed ring entry with threshold uD and publishes it. -/
  | ringArm (c : Bool) (d : BitVec 6) (a : BitVec 6) (t : BitVec 3) (l : BitVec 4)
  /-- MMA (R222). Places a matrix command accumulating A × B into an accumulator bank over K. -/
  | mma (c : Bool) (s : BitVec 4) (z : BitVec 1) (b : BitVec 1) (n : BitVec 4) (t : BitVec 3) (l : BitVec 4)
  /-- MMA_GATHER (R222). Places a matrix command whose A rows are gathered by a scratchpad index vector. -/
  | mmaGather (c : Bool) (s : BitVec 4) (z : BitVec 1) (b : BitVec 1) (n : BitVec 4) (a : BitVec 6) (t : BitVec 3) (l : BitVec 4)
  /-- ACC_CLR (R225). Places a command setting every entry of a bank to +0. -/
  | accClr (c : Bool) (b : BitVec 1) (t : BitVec 3) (l : BitVec 4)
  /-- ACC_LD (R225). Places a command loading a 128 × 128 tile exactly into a bank. -/
  | accLd (c : Bool) (s : BitVec 4) (b : BitVec 1) (a : BitVec 6) (t : BitVec 3) (l : BitVec 4)
  /-- ACC_ST (R225). Places a command storing a bank out as a tile converted to the record's format. -/
  | accSt (c : Bool) (s : BitVec 4) (b : BitVec 1) (a : BitVec 6) (t : BitVec 3) (l : BitVec 4)
  /-- GSEND (R228). Sends a 64-byte queue packet from 16 registers to a guest queue as a module-scope release. -/
  | gsend (c : Bool) (k : BitVec 1) (d : BitVec 6) (q : BitVec 6) (t : BitVec 3) (l : BitVec 4)
  /-- QFENCE (R229). Places a join entry in a guest queue that holds later packets until the joined queues drain. -/
  | qfence (c : Bool) (k : BitVec 1) (q : BitVec 6) (m : BitVec 4) (t : BitVec 3) (l : BitVec 4)
  /-- BR (R170). Branches taken lanes to a packet-relative target. -/
  | br (g : BitVec 4) (i : BitVec 21)
  /-- CALL (R170). Branches taken lanes and writes the next packet address to g54:g55. -/
  | call (g : BitVec 4) (i : BitVec 21)
  /-- JMP (R171). Per lane, jumps to the packet address in a pair. -/
  | jmp (g : BitVec 4) (a : BitVec 6)
  /-- JMPL (R171). Per lane, jumps to a pair and writes the return address to g54:g55. -/
  | jmpl (g : BitVec 4) (a : BitVec 6)
  /-- RECONV (R172). Parks each executing lane until no same-handler thread of its file group lies below and its efts have rejoined. -/
  | reconv (g : BitVec 4)
  /-- KGET (R173). Per lane, D := k register A. -/
  | kget (c : Bool) (g : BitVec 4) (d : BitVec 6) (a : BitVec 6)
  /-- KSET (R173). Writes k register D from the lanes, highest thread last, at the end of the run's issue. -/
  | kset (c : Bool) (g : BitVec 4) (d : BitVec 6) (a : BitVec 6)
  /-- PAND (R169). Per lane, p[D] := p[A] and p[B]. -/
  | pand (c : Bool) (g : BitVec 4) (d : BitVec 3) (a : BitVec 3) (b : BitVec 3)
  /-- POR (R169). Per lane, p[D] := p[A] or p[B]. -/
  | por (c : Bool) (g : BitVec 4) (d : BitVec 3) (a : BitVec 3) (b : BitVec 3)
  /-- PXOR (R169). Per lane, p[D] := p[A] xor p[B]. -/
  | pxor (c : Bool) (g : BitVec 4) (d : BitVec 3) (a : BitVec 3) (b : BitVec 3)
  /-- PANDN (R169). Per lane, p[D] := p[A] and not p[B]. -/
  | pandn (c : Bool) (g : BitVec 4) (d : BitVec 3) (a : BitVec 3) (b : BitVec 3)
  /-- PNEZ (R169). Per lane, p[D] := (A ≠ 0). -/
  | pnez (c : Bool) (g : BitVec 4) (d : BitVec 3) (a : BitVec 6)
  /-- PGET (R169). Per lane, writes p0–p7 as bits [7:0] of D. -/
  | pget (c : Bool) (g : BitVec 4) (d : BitVec 6)
  /-- PSET (R169). Per lane, writes p0–p6 from A[6:0]. -/
  | pset (c : Bool) (g : BitVec 4) (a : BitVec 6)
  /-- EXIT (R237). Per lane, waits for the thread's tokens and exits; the last thread of file group 0 fixes the successor list. -/
  | exit (g : BitVec 4) (d : BitVec 6) (n : BitVec 3)
  /-- SAFEPT (R243). Passes, or with a pre-emption pending parks the thread at a safe point with its live mask. -/
  | safept
  /-- VINFO (R242). Per lane, writes the task's view description of tile t. -/
  | vinfo (c : Bool) (g : BitVec 4) (d : BitVec 6) (n : BitVec 2)
  /-- TRAP (R250). Raises a precise software trap with number n, returning to the next packet. -/
  | trap (g : BitVec 4) (n : BitVec 9)
  /-- SYSC (R250). Enters the system handler in system mode with n. -/
  | sysc (g : BitVec 4) (n : BitVec 9)
  /-- BRK (R250). Breaks to the debug agent, or traps with the break cause. -/
  | brk (g : BitVec 4) (n : BitVec 9)
  /-- RTI (R304). Leaves the handler, restoring PC and mode and lowering the handler level when NHT reaches 0. -/
  | rti (g : BitVec 4)
  /-- RDSR (R248). Per lane, reads special register n. -/
  | rdsr (c : Bool) (g : BitVec 4) (d : BitVec 6) (n : BitVec 9)
  /-- WRSR (R248). Per lane, writes special register n. -/
  | wrsr (c : Bool) (g : BitVec 4) (d : BitVec 6) (n : BitVec 9)
  /-- RDCLK (R249). Writes the die's clk into a pair. -/
  | rdclk (c : Bool) (g : BitVec 4) (d : BitVec 6)
  /-- DCWB (R246). Waits for the thread's stores to a line range to be visible, then drops the range from L1 and L2. -/
  | dcwb (c : Bool) (g : BitVec 4) (d : BitVec 6) (n : BitVec 9)
  /-- ICINV (R246). Drops overlapping instruction-cache lines in every core for the context. -/
  | icinv (c : Bool) (g : BitVec 4) (d : BitVec 6) (n : BitVec 9)
  /-- FBAR (R246). Discards the file group's fetched-ahead packets. -/
  | fbar (g : BitVec 4)
  /-- QBIND (R251). In system mode, binds a submission queue to a context, class and ticket count. -/
  | qbind (c : Bool) (g : BitVec 4) (d : BitVec 6) (q : BitVec 6)
  /-- QUNBIND (R251). In system mode, makes a submission queue ineligible. -/
  | qunbind (c : Bool) (g : BitVec 4) (q : BitVec 6)
  /-- GBIND (R252). In system mode, binds a guest queue to a context, completing at BINDACK. -/
  | gbind (c : Bool) (g : BitVec 4) (d : BitVec 6) (k : BitVec 1) (q : BitVec 6)
  /-- GUNBIND (R252). In system mode, unbinds a guest queue, completing at QSTATE with U = 1. -/
  | gunbind (c : Bool) (g : BitVec 4) (k : BitVec 1) (q : BitVec 6)
  /-- FETCH_FAULT (R317). Fetching a chain group finds its page absent or its address not executable. -/
  | fetchFault
  /-- PACKET_RESEND (R357). A packet unacknowledged within 50 µs is resent by the current route. -/
  | packetResend (packet : Nat)
  /-- ROUTE_STALL (R358). Packets without an up route for 1,000,000 ticks report 0x0702. -/
  | routeStall (dest : Nat)
  /-- WINDOW_REQUEST (R278). A fabric request is checked against an open window and performed or answered REVOKED. -/
  | windowRequest (req : Nat)
  /-- WINDOW_CLOSE (R278). A revoking window closes when no checked request remains. -/
  | windowClose (win : Nat)
  /-- ATS_TIMEOUT (R367). An ATS translation unanswered for 1 ms parks its access with cause 0x0803. -/
  | atsTimeout (op : Nat)
  /-- RECORD_VOID (R351). A record unrepaired after 100 µs is passed over and the owner's partition fenced. -/
  | recordVoid (lsn : Nat)
  /-- MERGE_WINDOW_HOLD_END (R67). At the end of a shape record's L2 merge window the held tile fetch leaves with every joined request. -/
  | mergeWindowHoldEnd (hold : Nat)
  /-- SQ_TAIL (R273). A write of a submission queue doorbell makes new launch commands available to the front end. -/
  | sqTail (q : Nat) (tail : Nat)
  /-- QUEUE_PICK (R41). The front end picks an eligible queue of the highest class by energy-weighted lottery. -/
  | queuePick (pref : List Nat)
  /-- COMMAND_COMPLETE (R30). When all units have finished and root merges landed, CWINC is added to the completion word. -/
  | commandComplete (launch : Nat)
  /-- DISPATCH (R44). A free core takes the top spawn-stack entry or the next ticket of an eligible launch. -/
  | dispatch (core : Nat)
  /-- STEAL (R45). A die with an empty counter takes work from a victim in slalom order. -/
  | steal (die : Nat) (launch : Nat)
  /-- SLOT_RELEASE (R46). A pad-group slot returns to the free pool once its ring and matrix queue have drained. -/
  | slotRelease (core : Nat)
  /-- ISSUE_SELECT (R47). Each issue cycle the file group chooses an aged or the first ready run. -/
  | issueSelect (core : Nat) (fg : Nat)
  /-- EFT_RESUME (R51). A resolved eft rejoins the PC table and re-executes its faulting word. -/
  | eftResume (core : Nat) (fg : Nat) (eft : Nat)
  /-- RECONV_RELEASE (R172). Threads held at a reconv are released together as one run. -/
  | reconvRelease (core : Nat) (fg : Nat)
  /-- SLEEP_WAKE (R188). A sleeping thread re-enters the PC table once its time is reached. -/
  | sleepWake (core : Nat) (fg : Nat) (thread : Nat)
  /-- BARRIER_ARRIVAL (R190). A member's arrival counts once its threads' earlier token-setting instructions complete. -/
  | barrierArrival (core : Nat) (fg : Nat) (thread : Nat)
  /-- BARRIER_SPILL_ARRIVAL (R342). The home agent's spill walker counts an arrival for a spilled barrier and releases members. -/
  | barrierSpillArrival (core : Nat) (fg : Nat) (thread : Nat)
  /-- TOKEN_CLEAR (R69). A token clears when every instruction that set it has completed. -/
  | tokenClear (core : Nat) (fg : Nat) (inst : Nat)
  /-- STORE_ARRIVAL (R63). A store reaches its home agent, which assigns a write time, holds a pending version and acknowledges. -/
  | storeArrival (op : Nat)
  /-- LEASE_LAPSE (R63). A store held for an expiring lease takes its write time once the lease has lapsed. -/
  | leaseLapse (op : Nat)
  /-- VERSION_CURRENT (R63). A pending version becomes the line's current version when clk reaches its write time. -/
  | versionCurrent (line : Nat)
  /-- LINE_FETCH (R64). A fetch at the home agent returns the version current at rt and grants a lease. -/
  | lineFetch (op : Nat) (l2 : Nat) (l1 : Nat)
  /-- ATOMIC_REQUEST (R183). An aggregated atomic request is performed at its home with no access in between. -/
  | atomicRequest (op : Nat)
  /-- WATCH_TIMEOUT (R186). A watch completes 1,000,000 ticks after registration. -/
  | watchTimeout (op : Nat)
  /-- TASK_FINISH (R239). A task holding views chooses its merge target and sends its combined dirty sectors. -/
  | taskFinish (ctx : Nat) (rec : Nat)
  /-- CONTRIBUTION_ARRIVE (R240). A merge contribution sector combines into the target's HMAP as one read-modify-write. -/
  | contributionArrive (msg : Nat)
  /-- ROOT_MERGE (R240). A root merge combines each dirty sector into the tile's home bytes. -/
  | rootMerge (msg : Nat)
  /-- PREEMPTION_REQUEST (R52). A pre-emption request stops dispatch for the context and sends threads to their safe points. -/
  | preemptionRequest (ctx : Nat)
  /-- COPY_ISSUE_STOP (R52). When every thread is done, copy issue and gsend stop and PREEMPT is sent. -/
  | copyIssueStop (ctx : Nat)
  /-- CONTEXT_SAVE (R52). After step 3 drains, pad groups are saved and the header written last, releasing cores. -/
  | contextSave (ctx : Nat)
  /-- FORCED_SAVE (R311). On PTIMEOUT expiry the save is forced with threads saved at their next words. -/
  | forcedSave (ctx : Nat)
  /-- BALANCE_REFILL (R42). At each clk multiple of 1,000,000, every context record's balance is refilled up to ECAP. -/
  | balanceRefill
  /-- ENERGY_CHARGE (R42). Each 1,000-tick meter interval is charged to contexts by active core-cycles. -/
  | energyCharge (readings : List Nat) (active : List Nat)
  /-- GOVERNOR_STEP (R281). Every 1,000 ticks the governor lowers or raises one die's core clock against MODCAP. -/
  | governorStep
  /-- ENTRY_TAKE (R210). The copy engine takes a published ring entry, writing its promise or moving it to the trigger table. -/
  | entryTake (core : Nat) (promise : Nat)
  /-- ENTRY_RETIRE (R210). A running entry retires in count order, placing any follow-on and advancing DONE. -/
  | entryRetire (core : Nat)
  /-- ENTRY_STALL (R335). An entry meeting a not-present page stalls and later resumes from its first unwritten byte. -/
  | entryStall (entry : Nat) (rows : Nat)
  /-- CNT_INCREMENT (R214). After an entry's destination is visible at pod scope, its CNT counter is incremented. -/
  | cntIncrement (entry : Nat)
  /-- TRIGGER_SLOT_FREE (R215). A fired entry's operation completes and frees its trigger-table slot. -/
  | triggerSlotFree (die : Nat) (slot : Nat)
  /-- PROMISE_REVISION (R337). An entry unretired at its promise gets a revised promise and a 0x0311 record. -/
  | promiseRevision (entry : Nat) (promise : Nat)
  /-- WINDOW_POST (R217). A POST reaches its home agent, which registers the window and reserves partials. -/
  | windowPost (entry : Nat)
  /-- CONTRIBUTION_COMBINE (R219). A collective contribution combines into the window's partials in arrival order. -/
  | contributionCombine (entry : Nat) (elements : Nat)
  /-- CONTRIBUTION_RETRY (R339). A contribution answered NOTREADY retries at doubling intervals and reports after 1,000,000 ticks. -/
  | contributionRetry (entry : Nat)
  /-- MATRIX_STEP (R222). The sequencer applies one 64-wide K step to a 128 × 128 bank. -/
  | matrixStep (core : Nat)
  /-- MATRIX_QUEUE_STALL (R340). The matrix queue halts on a not-present page and resumes by R330. -/
  | matrixQueueStall (core : Nat)
  /-- STORE_RECORD (R97). A STORE record applies to control memory at its LSN. -/
  | storeRecord
  /-- ADD_RECORD (R97). An ADD record adds modulo the width and delivers the fetch on the sender's module. -/
  | addRecord
  /-- CLAIM_RECORD (R97). A CLAIM record writes the claim word when it is 0 and delivers the fetch. -/
  | claimRecord
  /-- LAUNCH_RECORD (R99). A LAUNCH record enters a launch command in the context's queue on each masked module. -/
  | launchRecord
  /-- PTE_RECORD (R98). A PTE record writes the pod page-table slot and invalidates matching translations. -/
  | pteRecord
  /-- PART (R275). A management record writes a partition-table entry. -/
  | part
  /-- SYSST (R275). A management record stores 8 bytes into granule 0 at or above offset 512. -/
  | sysst
  /-- KEYROLL (R275). A management record switches an owner to its pending loop key above its LSN. -/
  | keyroll
  /-- RECORD_ARRIVAL (R87). A tap receives a record, stamps its LSN and checks its tag. -/
  | recordArrival (hdr : BitVec 64) (p0 : BitVec 64) (p1 : BitVec 64) (tag : BitVec 64)
  /-- RECORD_RETURN (R90). A record comes back to its sender, which removes it. -/
  | recordReturn (lsn : Nat)
  /-- TOKEN_ARRIVAL (R86). A tap checks the token, sends up to 16 queued records, updates the horizon and forwards it. -/
  | tokenArrival (nextLsn : BitVec 64) (hz : BitVec 64) (hacc : BitVec 64) (rot : Nat) (origin : Nat) (chk : Nat) (send : Nat)
  /-- TOKEN_LOSS_TIMEOUT (R349). The origin's 20 µs loss timer expires and a PROBE is sent. -/
  | tokenLossTimeout
  /-- PROBE (R349). A PROBE collects MAXL, and on its return the origin regenerates the token. -/
  | probe (maxl : BitVec 64)
  /-- RECORD_REPAIR (R350). A tap requests a failed or missed record upstream and applies held records once repaired. -/
  | recordRepair (what : RepairOf) (hdr : BitVec 64) (p0 : BitVec 64) (p1 : BitVec 64) (tag : BitVec 64)
  /-- APPLY_STALL (R355). A tap whose applied LSN trails for 1 ms writes a 0x0605 record. -/
  | applyStall
  /-- BYPASS (R353). A BYPASS symbol removes a tap from the loop's presence map. -/
  | bypass (tap : Nat)
  /-- JOIN (R354). A JOIN symbol starts a tap's snapshot procedure to join the loop. -/
  | join (tap : Nat)
  /-- SNAPSHOT_COPY (R354). An upstream tap's partition copy is installed and held records applied above it. -/
  | snapshotCopy (what : CopyOf) (data : List Nat)
  /-- LOOPSTART (R88). A tap resets its LSNs, replica and replay ring and reports ready. -/
  | loopstart (taps : Nat)
  /-- LOOPGO (R88). The lowest tap becomes origin and sends the first token. -/
  | loopgo
  /-- SETOWNERS (R276). Sets the module owner set and per-port owner sets. -/
  | setowners (members : Membership) (port : Nat) (portOwners : List Nat)
  /-- SETROUTE (R276). Sets output ports, weights and hop count per destination module. -/
  | setroute (dest : Nat) (ports : List Nat) (weights : List Nat) (hops : Nat)
  /-- PORTDRAIN (R276). Drains an optical port. -/
  | portdrain (port : Nat)
  /-- PORTUP (R276). Returns an optical port to service. -/
  | portup (port : Nat)
  /-- SETPPT (R276). Sets an owner's pod page-table pool base. -/
  | setppt (owner : Nat) (base : Nat) (size : Nat)
  /-- KEYLOAD (R276). Loads an owner's pending loop key into the tap key store. -/
  | keyload (owner : Nat) (key : Nat)
  /-- RESYNC (R352). Resynchronizes a fenced owner partition by snapshot. -/
  | resync (owner : Nat)
  /-- FABRIC_PACKET (R357). A fabric packet arrives and is delivered in flow order, acknowledged or held. -/
  | fabricPacket (flow : Flow) (seqNo : Nat) (owner : Nat) (port : Nat) (kind : Nat) (ref : Nat) (addr : Nat) (data : List Nat)
  /-- PORT_DOWN (R357). A port losing lock or over its error threshold goes down. -/
  | portDown (port : Nat)
  /-- OWNERREJECT (R359). A packet refused at ingress ends its access with cause 0x0710. -/
  | ownerreject (packet : Nat) (port : Nat)
  /-- REMOTE_ACCESS_FAILED (R360). A REVOKED, OWNERREJECT or failed host answer ends the access by its kind. -/
  | remoteAccessFailed (op : Nat) (cause : Nat)
  /-- OPEN (R279). WCMD 1 opens window WSEL with the staged fields. -/
  | winOpen (tdi : Nat)
  /-- REVOKE (R278). WCMD 2 starts revoking a window. -/
  | winRevoke (tdi : Nat)
  /-- HBQ_TAIL (R274). A host broadcast queue doorbell makes the fabric die read and queue new ring records. -/
  | hbqTail (hbq : Nat) (tail : Nat)
  /-- FRESUME (R330). Makes the context's parked work covering an address retry. -/
  | fresume (ctx : Nat) (addr : Nat)
  /-- VPGROW (R330). Raises the view-pool size and retries all parked work of the context. -/
  | vpgrow (ctx : Nat) (size : Nat)
  /-- LTINVAL (R271). Starts a local-translation invalidation for a page or context. -/
  | ltinval (ctx : Nat) (word : BitVec 64)
  /-- LTINVAL_COMPLETE (R271). An invalidation completes once covered accesses finish, raising COUNT. -/
  | ltinvalComplete
  /-- SOCKRESET (R364). Resets an isolated or drained socket's link and guest die. -/
  | sockreset (value : Nat)
  /-- LOTSEED (R273). Writes the lottery generator state, a 0 storing 1. -/
  | lotseed (value : BitVec 64)
  /-- SERVICE_REGISTER_WRITE (R273). A write to a service or TDI register without its own row stores its value. -/
  | serviceRegisterWrite (tdi : Nat) (offset : Nat) (size : Nat) (value : Nat)
  /-- CAPABILITY_RECORD (R254). A trained guest die's capability record is stored in its ready-map entry. -/
  | capabilityRecord (sock : Nat) (vendor : Nat) (nq : Nat) (ver : Nat) (tcent : Nat) (clines : Nat)
  /-- PACKET_PULL (R256). The guest die pulls a packet from the head of a queue FIFO; it has finished `done` packets
  pulled before. -/
  | packetPull (sock : Nat) (q : Nat) (done : Nat) (pull : Bool)
  /-- BINDACK (R261). The guest die acknowledges a binding, completing gbind. -/
  | bindack (sock : Nat) (q : Nat)
  /-- QSTATE (R264). The guest die reports a queue at a packet boundary after PREEMPT or UNBIND. -/
  | qstate (sock : Nat) (q : Nat) (unbound : Bool) (stalled : Bool) (returned : Nat) (completed : Nat)
  /-- INVACK (R262). The guest die acknowledges an invalidation, releasing the operation that waited. -/
  | invack (sock : Nat) (id : Nat)
  /-- FAULT (R263). The guest die sends a fault record, which the module delivers to the context queue. -/
  | guestFault (sock : Nat) (w0 : BitVec 64) (addr : BitVec 64) (info : BitVec 64) (detail : Nat)
  /-- GUEST_READ (R260). A guest read returns the line's current version and records S. -/
  | guestRead (sock : Nat) (ctx : Nat) (pa : Nat)
  /-- OWNERSHIP_REQUEST (R260). A guest ownership request recalls the other socket and records E. -/
  | ownershipRequest (sock : Nat) (ctx : Nat) (pa : Nat)
  /-- WRITE_BACK (R260). Guest dirty sectors are stored under R63 with floor 0. -/
  | writeBack (sock : Nat) (ctx : Nat) (pa : Nat) (sectors : Nat) (data : List Nat) (keep : Bool)
  /-- RECALL_ANSWER (R260). A guest answers a recall, letting the waiting store take its write time. -/
  | recallAnswer (sock : Nat) (line : Nat) (sectors : KeptSectors) (data : List Nat)
  /-- GUEST_ATOMIC (R260). A guest atomic is performed at the home as R182 states. -/
  | guestAtomic (sock : Nat) (ctx : Nat) (pa : Nat) (aop : Nat) (wide : Bool) (x : Nat) (y : Nat)
  /-- TRANSLATION_REQUEST (R262). The translation service walks the context's tables for a guest request. -/
  | translationRequest (sock : Nat) (ctx : Nat) (va : Nat) (write : Bool)
  /-- GUEST_DUTY_TIMEOUT (R361). A guest duty bound expires and the socket is isolated. -/
  | guestDutyTimeout (sock : Nat) (cause : Nat)
  /-- LINK_RETRAIN (R363). A guest link retrains at successively lower rates, or goes down. -/
  | linkRetrain (sock : Nat) (ok : Bool)
  /-- HOST_SNOOP (R267). A host snoop invalidates a line and is treated as a host store. -/
  | hostSnoop (line : Nat) (data : List Nat)
  /-- CXL_MEM_ACCESS (R267). A host CXL.mem access is performed at a home agent. -/
  | cxlMemAccess (pa : Nat) (size : Nat) (write : Bool) (data : List Nat)
  /-- ATS_INVALIDATION (R268). An ATS invalidation drops matching translations and completes within 20 µs. -/
  | atsInvalidation (page : Nat) (psize : Nat)
  /-- HOST_LINK_ERROR (R365). An uncorrectable error or link-down ends outstanding host accesses. -/
  | hostLinkError (down : Bool) (back : Bool)
  /-- TDI_LEAVE_RUN (R366). A TDI leaving RUN cuts its owner's host access and pre-empts its contexts. -/
  | tdiLeaveRun (tdi : Nat)
  /-- ATTESTATION_REQUEST (R280). An SPDM measurement request is answered with a signed report. -/
  | attestationRequest (nonce : Nat)
  /-- SOFT_ERROR (R347). A storage error is corrected or poisons, traps or fails by storage kind. -/
  | softError (storage : Nat) (unit : Nat) (index : Nat) (correctable : Bool)
  /-- HBM_FAILURE (R368). An HBM, boundary or die failure is handled per its table row. -/
  | hbmFailure (what : Nat) (unit : Nat) (pa : Nat)
  /-- READY_BIT_RISE (R284). A unit's ready bit rises and the unit becomes usable. -/
  | readyBitRise (bit : Nat)
  /-- LIVE_UPDATE (R282). The standby complex checks, boots and takes over at a quiescent boundary. -/
  | liveUpdate (version : Nat) (lo : Nat) (hi : Nat) (signed : Bool)
  /-- WATCHDOG_FAILOVER (R369). After 2 ms without heartbeat the standby complex takes over. -/
  | watchdogFailover
  /-- MODULE_RESET (R118). Module reset seeds the lottery generator and starts the units. -/
  | moduleReset
  /-- DRAIN (R283). System software drains a die's cores, an HBM stack or a guest socket, clearing its ready bit and starting its drain sequence. -/
  | drain (what : Nat) (unit : Nat)
  /-- DISCARD (R313). System software discards a saved context, which then holds no slot, and its remaining engine entries are cancelled with cause 0x0B05. -/
  | discard (ctx : Nat)
  /-- TDISP_REQUEST (R266). A host TDISP message locks a TDI, binds it to its owner and brings it into RUN, which binds its host broadcast queues and lets its contexts be restored. -/
  | tdispRequest (tdi : Nat) (owner : Nat) (message : Nat) (hbqs : List Nat)
  /-- HOST_SYNC (R268). A host sync message is performed only after every ATS invalidation received before it has completed. -/
  | hostSync
  /-- MANAGEMENT_RECORD (R275). The fabric manager hands a management record to a tap's management interface, which places it in the broadcast queue. -/
  | managementRecord (rtype : Nat) (p0 : BitVec 64) (p1 : BitVec 64)
  /-- MIRROR_PERIOD_END (R370). One second after a live update takes over, the new active complex stops mirroring its state to the old complex, and rollback to the old firmware is no longer possible. -/
  | mirrorPeriodEnd
  deriving DecidableEq, Repr

end Sys2Proof
end

