-- ==== Sys2Proof/WellFormed.lean ====
section
/-! DEFINITION. Well-formed instructions. A word is an instruction unless it meets a condition of the
non-instruction tables R151, R176, R200 and R231, or names a register outside its file (R134, R135).
`Instr.illegal` names the lowest such condition, as R314 orders them. A machine step without a word is
well-formed when its arguments name units the module has. -/

namespace Sys2Proof

/-- The kinds of decode condition of R314 that a word shows by itself. -/
inductive DecodeFault where
  | reservedEncoding   -- 0x0100
  | reservedGuard      -- 0x0101
  | badPairing         -- 0x0102
  | portMisuse         -- 0x0103
  | chainViolation     -- 0x0104
  deriving DecidableEq, Repr

/-- The cause code of R297 for a decode condition. -/
def DecodeFault.cause : DecodeFault → Nat
  | .reservedEncoding => 0x0100
  | .reservedGuard => 0x0101
  | .badPairing => 0x0102
  | .portMisuse => 0x0103
  | .chainViolation => 0x0104

/-- A g-pair field that is odd or lies in 56-62 (R134). -/
def badPair (x : BitVec 6) : Bool := decide (x.toNat % 2 = 1 ∨ 54 < x.toNat)

/-- A g field that names a queue port qp0-qp7 (R135). -/
def isPort (x : BitVec 6) : Bool := decide (56 ≤ x.toNat)

/-- Barriers per group at each level (R27). -/
def barCount : Nat → Nat
  | 0 => 8
  | 1 => 16
  | 2 => 8
  | 3 => 4
  | 4 => 4
  | _ => 0

/-- The first condition of a list that holds. -/
def firstFault : List (DecodeFault × Bool) → Option DecodeFault
  | [] => none
  | (f, b) :: rest => if b then some f else firstFault rest

/-- The lowest non-instruction condition of R151, R176, R200 or R231 that the fields meet (R314). -/
def Instr.illegal : Instr → Option DecodeFault
  | .nop _ _ => none
  | .yield _ _ => none
  | .add _ g _ _ _ =>
    firstFault [(.reservedGuard, decide (g.toNat = 15))]
  | .sub _ g _ _ _ =>
    firstFault [(.reservedGuard, decide (g.toNat = 15))]
  | .mul _ g _ _ _ =>
    firstFault [(.reservedGuard, decide (g.toNat = 15))]
  | .mulhs _ g _ _ _ =>
    firstFault [(.reservedGuard, decide (g.toNat = 15))]
  | .mulhu _ g _ _ _ =>
    firstFault [(.reservedGuard, decide (g.toNat = 15))]
  | .mins _ g _ _ _ =>
    firstFault [(.reservedGuard, decide (g.toNat = 15))]
  | .maxs _ g _ _ _ =>
    firstFault [(.reservedGuard, decide (g.toNat = 15))]
  | .adds _ g _ _ _ =>
    firstFault [(.reservedGuard, decide (g.toNat = 15))]
  | .and _ g _ _ _ =>
    firstFault [(.reservedGuard, decide (g.toNat = 15))]
  | .or _ g _ _ _ =>
    firstFault [(.reservedGuard, decide (g.toNat = 15))]
  | .xor _ g _ _ _ =>
    firstFault [(.reservedGuard, decide (g.toNat = 15))]
  | .andn _ g _ _ _ =>
    firstFault [(.reservedGuard, decide (g.toNat = 15))]
  | .orn _ g _ _ _ =>
    firstFault [(.reservedGuard, decide (g.toNat = 15))]
  | .xnor _ g _ _ _ =>
    firstFault [(.reservedGuard, decide (g.toNat = 15))]
  | .minu _ g _ _ _ =>
    firstFault [(.reservedGuard, decide (g.toNat = 15))]
  | .maxu _ g _ _ _ =>
    firstFault [(.reservedGuard, decide (g.toNat = 15))]
  | .shl _ g _ _ _ =>
    firstFault [(.reservedGuard, decide (g.toNat = 15))]
  | .shr _ g _ _ _ =>
    firstFault [(.reservedGuard, decide (g.toNat = 15))]
  | .sar _ g _ _ _ =>
    firstFault [(.reservedGuard, decide (g.toNat = 15))]
  | .rol _ g _ _ _ =>
    firstFault [(.reservedGuard, decide (g.toNat = 15))]
  | .ror _ g _ _ _ =>
    firstFault [(.reservedGuard, decide (g.toNat = 15))]
  | .clz _ g _ _ =>
    firstFault [(.reservedGuard, decide (g.toNat = 15))]
  | .popc _ g _ _ =>
    firstFault [(.reservedGuard, decide (g.toNat = 15))]
  | .brev _ g _ _ =>
    firstFault [(.reservedGuard, decide (g.toNat = 15))]
  | .cmpEq _ g _ _ _ =>
    firstFault [(.reservedGuard, decide (g.toNat = 15))]
  | .cmpNe _ g _ _ _ =>
    firstFault [(.reservedGuard, decide (g.toNat = 15))]
  | .cmpLt _ g _ _ _ =>
    firstFault [(.reservedGuard, decide (g.toNat = 15))]
  | .cmpLe _ g _ _ _ =>
    firstFault [(.reservedGuard, decide (g.toNat = 15))]
  | .cmpLtu _ g _ _ _ =>
    firstFault [(.reservedGuard, decide (g.toNat = 15))]
  | .cmpLeu _ g _ _ _ =>
    firstFault [(.reservedGuard, decide (g.toNat = 15))]
  | .cmpTst _ g _ _ _ =>
    firstFault [(.reservedGuard, decide (g.toNat = 15))]
  | .addi _ g _ _ _ =>
    firstFault [(.reservedGuard, decide (g.toNat = 15))]
  | .andi _ g _ _ _ =>
    firstFault [(.reservedGuard, decide (g.toNat = 15))]
  | .ori _ g _ _ _ =>
    firstFault [(.reservedGuard, decide (g.toNat = 15))]
  | .xori _ g _ _ _ =>
    firstFault [(.reservedGuard, decide (g.toNat = 15))]
  | .shli _ g _ _ _ =>
    firstFault [(.reservedGuard, decide (g.toNat = 15))]
  | .shri _ g _ _ _ =>
    firstFault [(.reservedGuard, decide (g.toNat = 15))]
  | .sari _ g _ _ _ =>
    firstFault [(.reservedGuard, decide (g.toNat = 15))]
  | .movi _ g _ _ =>
    firstFault [(.reservedGuard, decide (g.toNat = 15))]
  | .movsh _ g _ _ =>
    firstFault [(.reservedGuard, decide (g.toNat = 15))]
  | .add64 _ g d a b =>
    firstFault [(.reservedGuard, decide (g.toNat = 15)), (.badPairing, badPair d), (.badPairing, badPair a), (.badPairing, badPair b)]
  | .sub64 _ g d a b =>
    firstFault [(.reservedGuard, decide (g.toNat = 15)), (.badPairing, badPair d), (.badPairing, badPair a), (.badPairing, badPair b)]
  | .addsx64 _ g d a _ =>
    firstFault [(.reservedGuard, decide (g.toNat = 15)), (.badPairing, badPair d), (.badPairing, badPair a)]
  | .addzx64 _ g d a _ =>
    firstFault [(.reservedGuard, decide (g.toNat = 15)), (.badPairing, badPair d), (.badPairing, badPair a)]
  | .shl64 _ g d a _ =>
    firstFault [(.reservedGuard, decide (g.toNat = 15)), (.badPairing, badPair d), (.badPairing, badPair a)]
  | .shr64 _ g d a _ =>
    firstFault [(.reservedGuard, decide (g.toNat = 15)), (.badPairing, badPair d), (.badPairing, badPair a)]
  | .sar64 _ g d a _ =>
    firstFault [(.reservedGuard, decide (g.toNat = 15)), (.badPairing, badPair d), (.badPairing, badPair a)]
  | .mul64 _ g d a b =>
    firstFault [(.reservedGuard, decide (g.toNat = 15)), (.badPairing, badPair d), (.badPairing, badPair a), (.badPairing, badPair b)]
  | .adr _ g d _ =>
    firstFault [(.reservedGuard, decide (g.toNat = 15)), (.badPairing, badPair d)]
  | .fadd _ g _ _ _ r =>
    firstFault [(.reservedEncoding, decide (4 < r.toNat)), (.reservedGuard, decide (g.toNat = 15))]
  | .fsub _ g _ _ _ r =>
    firstFault [(.reservedEncoding, decide (4 < r.toNat)), (.reservedGuard, decide (g.toNat = 15))]
  | .fmul _ g _ _ _ r =>
    firstFault [(.reservedEncoding, decide (4 < r.toNat)), (.reservedGuard, decide (g.toNat = 15))]
  | .ffma _ g _ _ _ r =>
    firstFault [(.reservedEncoding, decide (4 < r.toNat)), (.reservedGuard, decide (g.toNat = 15))]
  | .ffms _ g _ _ _ r =>
    firstFault [(.reservedEncoding, decide (4 < r.toNat)), (.reservedGuard, decide (g.toNat = 15))]
  | .fnma _ g _ _ _ r =>
    firstFault [(.reservedEncoding, decide (4 < r.toNat)), (.reservedGuard, decide (g.toNat = 15))]
  | .haddBf16x2 _ g _ _ _ r =>
    firstFault [(.reservedEncoding, decide (4 < r.toNat)), (.reservedGuard, decide (g.toNat = 15))]
  | .hmulBf16x2 _ g _ _ _ r =>
    firstFault [(.reservedEncoding, decide (4 < r.toNat)), (.reservedGuard, decide (g.toNat = 15))]
  | .hfmaBf16x2 _ g _ _ _ r =>
    firstFault [(.reservedEncoding, decide (4 < r.toNat)), (.reservedGuard, decide (g.toNat = 15))]
  | .fdot2Bf16 _ g _ _ _ r =>
    firstFault [(.reservedEncoding, decide (4 < r.toNat)), (.reservedGuard, decide (g.toNat = 15))]
  | .fmin _ g _ _ _ =>
    firstFault [(.reservedGuard, decide (g.toNat = 15))]
  | .fmax _ g _ _ _ =>
    firstFault [(.reservedGuard, decide (g.toNat = 15))]
  | .fabs _ g _ _ =>
    firstFault [(.reservedGuard, decide (g.toNat = 15))]
  | .fneg _ g _ _ =>
    firstFault [(.reservedGuard, decide (g.toNat = 15))]
  | .fcopysign _ g _ _ _ =>
    firstFault [(.reservedGuard, decide (g.toNat = 15))]
  | .fclass _ g _ _ =>
    firstFault [(.reservedGuard, decide (g.toNat = 15))]
  | .fcmpEq _ g _ _ _ =>
    firstFault [(.reservedGuard, decide (g.toNat = 15))]
  | .fcmpNe _ g _ _ _ =>
    firstFault [(.reservedGuard, decide (g.toNat = 15))]
  | .fcmpLt _ g _ _ _ =>
    firstFault [(.reservedGuard, decide (g.toNat = 15))]
  | .fcmpLe _ g _ _ _ =>
    firstFault [(.reservedGuard, decide (g.toNat = 15))]
  | .fcmpUn _ g _ _ _ =>
    firstFault [(.reservedGuard, decide (g.toNat = 15))]
  | .fscale _ g _ _ _ r =>
    firstFault [(.reservedEncoding, decide (4 < r.toNat)), (.reservedGuard, decide (g.toNat = 15))]
  | .frint _ g _ _ r =>
    firstFault [(.reservedEncoding, decide (4 < r.toNat)), (.reservedGuard, decide (g.toNat = 15))]
  | .cvtBf16F32 _ g _ _ r =>
    firstFault [(.reservedEncoding, decide (4 < r.toNat)), (.reservedGuard, decide (g.toNat = 15))]
  | .cvtF32Bf16 _ g _ _ r =>
    firstFault [(.reservedEncoding, decide (4 < r.toNat)), (.reservedGuard, decide (g.toNat = 15))]
  | .cvtE4m3F32 _ g _ _ r =>
    firstFault [(.reservedEncoding, decide (4 < r.toNat)), (.reservedGuard, decide (g.toNat = 15))]
  | .cvtF32E4m3 _ g _ _ r =>
    firstFault [(.reservedEncoding, decide (4 < r.toNat)), (.reservedGuard, decide (g.toNat = 15))]
  | .cvtI32F32 _ g _ _ r =>
    firstFault [(.reservedEncoding, decide (4 < r.toNat)), (.reservedGuard, decide (g.toNat = 15))]
  | .cvtN32F32 _ g _ _ r =>
    firstFault [(.reservedEncoding, decide (4 < r.toNat)), (.reservedGuard, decide (g.toNat = 15))]
  | .cvtF32I32 _ g _ _ r =>
    firstFault [(.reservedEncoding, decide (4 < r.toNat)), (.reservedGuard, decide (g.toNat = 15))]
  | .cvtF32N32 _ g _ _ r =>
    firstFault [(.reservedEncoding, decide (4 < r.toNat)), (.reservedGuard, decide (g.toNat = 15))]
  | .cvtI16I32 _ g _ _ r =>
    firstFault [(.reservedEncoding, decide (4 < r.toNat)), (.reservedGuard, decide (g.toNat = 15))]
  | .cvtI8I32 _ g _ _ r =>
    firstFault [(.reservedEncoding, decide (4 < r.toNat)), (.reservedGuard, decide (g.toNat = 15))]
  | .cvtN16N32 _ g _ _ r =>
    firstFault [(.reservedEncoding, decide (4 < r.toNat)), (.reservedGuard, decide (g.toNat = 15))]
  | .cvtN8N32 _ g _ _ r =>
    firstFault [(.reservedEncoding, decide (4 < r.toNat)), (.reservedGuard, decide (g.toNat = 15))]
  | .shfl _ g _ _ _ =>
    firstFault [(.reservedGuard, decide (g.toNat = 15))]
  | .shflUp _ g _ _ _ =>
    firstFault [(.reservedGuard, decide (g.toNat = 15))]
  | .shflDown _ g _ _ _ =>
    firstFault [(.reservedGuard, decide (g.toNat = 15))]
  | .shflXor _ g _ _ _ =>
    firstFault [(.reservedGuard, decide (g.toNat = 15))]
  | .ballot _ g _ _ =>
    firstFault [(.reservedGuard, decide (g.toNat = 15))]
  | .rcp _ g _ _ =>
    firstFault [(.reservedGuard, decide (g.toNat = 15))]
  | .rsqrt _ g _ _ =>
    firstFault [(.reservedGuard, decide (g.toNat = 15))]
  | .sqrt _ g _ _ =>
    firstFault [(.reservedGuard, decide (g.toNat = 15))]
  | .exp2 _ g _ _ =>
    firstFault [(.reservedGuard, decide (g.toNat = 15))]
  | .log2 _ g _ _ =>
    firstFault [(.reservedGuard, decide (g.toNat = 15))]
  | .sinpi _ g _ _ =>
    firstFault [(.reservedGuard, decide (g.toNat = 15))]
  | .cospi _ g _ _ =>
    firstFault [(.reservedGuard, decide (g.toNat = 15))]
  | .tanh _ g _ _ =>
    firstFault [(.reservedGuard, decide (g.toNat = 15))]
  | .div _ g _ _ _ =>
    firstFault [(.reservedGuard, decide (g.toNat = 15))]
  | .divu _ g _ _ _ =>
    firstFault [(.reservedGuard, decide (g.toNat = 15))]
  | .rem _ g _ _ _ =>
    firstFault [(.reservedGuard, decide (g.toNat = 15))]
  | .remu _ g _ _ _ =>
    firstFault [(.reservedGuard, decide (g.toNat = 15))]
  | .fdiv _ g _ _ _ =>
    firstFault [(.reservedGuard, decide (g.toNat = 15))]
  | .rand _ g _ =>
    firstFault [(.reservedGuard, decide (g.toNat = 15))]
  | .ld _ g d a z _ _ =>
    firstFault [(.reservedGuard, decide (g.toNat = 15)), (.badPairing, badPair a), (.badPairing, decide (z.toNat = 3) && badPair d), (.portMisuse, isPort d)]
  | .lds _ g d a z _ _ =>
    firstFault [(.reservedEncoding, decide (z.toNat = 3)), (.reservedGuard, decide (g.toNat = 15)), (.badPairing, badPair a), (.badPairing, decide (z.toNat = 2) && badPair d), (.portMisuse, isPort d)]
  | .st _ g d a z _ _ =>
    firstFault [(.reservedGuard, decide (g.toNat = 15)), (.badPairing, badPair a), (.badPairing, decide (z.toNat = 3) && badPair d)]
  | .ldRo _ g d a z _ _ =>
    firstFault [(.reservedGuard, decide (g.toNat = 15)), (.badPairing, badPair a), (.badPairing, decide (z.toNat = 3) && badPair d), (.portMisuse, isPort d)]
  | .ldAcq _ g d a _ z _ =>
    firstFault [(.reservedGuard, decide (g.toNat = 15)), (.badPairing, badPair a), (.badPairing, decide (z.toNat = 3) && badPair d), (.portMisuse, isPort d)]
  | .stRel _ g d a _ z _ =>
    firstFault [(.reservedGuard, decide (g.toNat = 15)), (.badPairing, badPair a), (.badPairing, decide (z.toNat = 3) && badPair d)]
  | .pf _ g a _ _ =>
    firstFault [(.reservedGuard, decide (g.toNat = 15)), (.badPairing, badPair a)]
  | .atomAdd _ g d a w _ =>
    firstFault [(.reservedGuard, decide (g.toNat = 15)), (.badPairing, badPair a), (.badPairing, decide (w.toNat = 1) && badPair d), (.portMisuse, isPort d)]
  | .atomMins _ g d a w _ =>
    firstFault [(.reservedGuard, decide (g.toNat = 15)), (.badPairing, badPair a), (.badPairing, decide (w.toNat = 1) && badPair d), (.portMisuse, isPort d)]
  | .atomMaxs _ g d a w _ =>
    firstFault [(.reservedGuard, decide (g.toNat = 15)), (.badPairing, badPair a), (.badPairing, decide (w.toNat = 1) && badPair d), (.portMisuse, isPort d)]
  | .atomMinu _ g d a w _ =>
    firstFault [(.reservedGuard, decide (g.toNat = 15)), (.badPairing, badPair a), (.badPairing, decide (w.toNat = 1) && badPair d), (.portMisuse, isPort d)]
  | .atomMaxu _ g d a w _ =>
    firstFault [(.reservedGuard, decide (g.toNat = 15)), (.badPairing, badPair a), (.badPairing, decide (w.toNat = 1) && badPair d), (.portMisuse, isPort d)]
  | .atomAnd _ g d a w _ =>
    firstFault [(.reservedGuard, decide (g.toNat = 15)), (.badPairing, badPair a), (.badPairing, decide (w.toNat = 1) && badPair d), (.portMisuse, isPort d)]
  | .atomOr _ g d a w _ =>
    firstFault [(.reservedGuard, decide (g.toNat = 15)), (.badPairing, badPair a), (.badPairing, decide (w.toNat = 1) && badPair d), (.portMisuse, isPort d)]
  | .atomXor _ g d a w _ =>
    firstFault [(.reservedGuard, decide (g.toNat = 15)), (.badPairing, badPair a), (.badPairing, decide (w.toNat = 1) && badPair d), (.portMisuse, isPort d)]
  | .atomXchg _ g d a w _ =>
    firstFault [(.reservedGuard, decide (g.toNat = 15)), (.badPairing, badPair a), (.badPairing, decide (w.toNat = 1) && badPair d), (.portMisuse, isPort d)]
  | .atomCas _ g d a w _ =>
    firstFault [(.reservedGuard, decide (g.toNat = 15)), (.badPairing, badPair a), (.badPairing, decide (d.toNat = 0 ∨ (w.toNat = 0 ∧ d.toNat = 55) ∨ (w.toNat = 1 ∧ (d.toNat % 2 = 1 ∨ 52 < d.toNat)))), (.portMisuse, isPort d)]
  | .atomFadd _ g d a _ =>
    firstFault [(.reservedGuard, decide (g.toNat = 15)), (.badPairing, badPair a), (.portMisuse, isPort d)]
  | .atomFmin _ g d a _ =>
    firstFault [(.reservedGuard, decide (g.toNat = 15)), (.badPairing, badPair a), (.portMisuse, isPort d)]
  | .atomFmax _ g d a _ =>
    firstFault [(.reservedGuard, decide (g.toNat = 15)), (.badPairing, badPair a), (.portMisuse, isPort d)]
  | .fence _ g _ _ =>
    firstFault [(.reservedGuard, decide (g.toNat = 15))]
  | .seal _ g _ a s _ =>
    firstFault [(.reservedEncoding, decide (s.toNat ≠ 5 ∧ s.toNat ≠ 6)), (.reservedGuard, decide (g.toNat = 15)), (.badPairing, badPair a)]
  | .unseal _ g _ a s _ =>
    firstFault [(.reservedEncoding, decide (s.toNat ≠ 5 ∧ s.toNat ≠ 6)), (.reservedGuard, decide (g.toNat = 15)), (.badPairing, badPair a)]
  | .watch _ g d a _ _ =>
    firstFault [(.reservedGuard, decide (g.toNat = 15)), (.badPairing, badPair a), (.portMisuse, isPort d)]
  | .wait g _ =>
    firstFault [(.reservedGuard, decide (g.toNat = 15))]
  | .sleepUntil g _ =>
    firstFault [(.reservedGuard, decide (g.toNat = 15))]
  | .barArrive g l b =>
    firstFault [(.reservedEncoding, decide (4 < l.toNat ∨ barCount l.toNat ≤ b.toNat)), (.reservedGuard, decide (g.toNat = 15))]
  | .barWait g l b =>
    firstFault [(.reservedEncoding, decide (4 < l.toNat ∨ barCount l.toNat ≤ b.toNat)), (.reservedGuard, decide (g.toNat = 15))]
  | .barArriveExp g _ l b =>
    firstFault [(.reservedEncoding, decide (4 < l.toNat ∨ barCount l.toNat ≤ b.toNat)), (.reservedGuard, decide (g.toNat = 15))]
  | .cmLd _ g d _ z _ =>
    firstFault [(.reservedGuard, decide (g.toNat = 15)), (.badPairing, decide (z.toNat = 1) && badPair d), (.portMisuse, isPort d)]
  | .cmSt _ g d _ z r _ y =>
    firstFault [(.reservedEncoding, decide (y.toNat = 1 ∧ r.toNat = 0)), (.reservedGuard, decide (g.toNat = 15)), (.badPairing, decide (z.toNat = 1) && badPair d)]
  | .cmAdd _ g d _ z r _ y =>
    firstFault [(.reservedEncoding, decide (y.toNat = 1 ∧ r.toNat = 0)), (.reservedGuard, decide (g.toNat = 15)), (.badPairing, decide (z.toNat = 1) && badPair d), (.portMisuse, isPort d)]
  | .cmClaim _ g d _ r _ y =>
    firstFault [(.reservedEncoding, decide (y.toNat = 1 ∧ r.toNat = 0)), (.reservedGuard, decide (g.toNat = 15)), (.badPairing, badPair d), (.portMisuse, isPort d)]
  | .cmWait _ g d _ z _ =>
    firstFault [(.reservedGuard, decide (g.toNat = 15)), (.badPairing, decide (z.toNat = 1) && badPair d), (.portMisuse, isPort d)]
  | .cmLsn _ g d _ =>
    firstFault [(.reservedGuard, decide (g.toNat = 15)), (.badPairing, badPair d)]
  | .cmLaunch _ g d a r _ y =>
    firstFault [(.reservedEncoding, decide (y.toNat = 1 ∧ r.toNat = 0)), (.reservedGuard, decide (g.toNat = 15)), (.badPairing, badPair a), (.badPairing, decide (d.toNat % 2 = 1 ∨ 52 < d.toNat))]
  | .cmPte _ g d a r _ y =>
    firstFault [(.reservedEncoding, decide (y.toNat = 1 ∧ r.toNat = 0)), (.reservedGuard, decide (g.toNat = 15)), (.badPairing, badPair d), (.badPairing, badPair a)]
  | .fenceSeq _ g a _ =>
    firstFault [(.reservedGuard, decide (g.toNat = 15)), (.badPairing, badPair a)]
  | .fenceSeqAll _ g a _ =>
    firstFault [(.reservedGuard, decide (g.toNat = 15)), (.badPairing, badPair a)]
  | .shld _ _ a _ _ =>
    firstFault [(.badPairing, badPair a)]
  | .shst _ _ a _ _ =>
    firstFault [(.badPairing, badPair a)]
  | .shmod _ _ _ _ _ _ => none
  | .tcp _ _ d a _ _ =>
    firstFault [(.badPairing, badPair a), (.portMisuse, isPort d)]
  | .tcpRed _ _ d a _ _ =>
    firstFault [(.badPairing, badPair a), (.portMisuse, isPort d)]
  | .tcpPost _ _ d a _ _ =>
    firstFault [(.badPairing, badPair a), (.portMisuse, isPort d)]
  | .ctrAdd _ _ _ _ _ => none
  | .ctrLd _ d _ _ _ =>
    firstFault [(.portMisuse, isPort d)]
  | .ringArm _ _ _ _ _ => none
  | .mma _ _ _ _ _ _ _ => none
  | .mmaGather _ _ _ _ _ _ _ _ => none
  | .accClr _ _ _ _ => none
  | .accLd _ _ _ a _ _ =>
    firstFault [(.badPairing, badPair a)]
  | .accSt _ _ _ a _ _ =>
    firstFault [(.badPairing, badPair a)]
  | .gsend _ _ d _ _ _ =>
    firstFault [(.badPairing, decide (d.toNat ≠ 16 ∧ d.toNat ≠ 32 ∧ d.toNat ≠ 48))]
  | .qfence _ _ _ _ _ _ => none
  | .br g _ =>
    firstFault [(.reservedGuard, decide (g.toNat = 15))]
  | .call g _ =>
    firstFault [(.reservedGuard, decide (g.toNat = 15))]
  | .jmp g a =>
    firstFault [(.reservedGuard, decide (g.toNat = 15)), (.badPairing, badPair a)]
  | .jmpl g a =>
    firstFault [(.reservedGuard, decide (g.toNat = 15)), (.badPairing, badPair a)]
  | .reconv g =>
    firstFault [(.reservedGuard, decide (g.toNat = 15))]
  | .kget _ g _ a =>
    firstFault [(.reservedGuard, decide (g.toNat = 15)), (.badPairing, decide (31 < a.toNat))]
  | .kset _ g d _ =>
    firstFault [(.reservedGuard, decide (g.toNat = 15)), (.badPairing, decide (31 < d.toNat))]
  | .pand _ g _ _ _ =>
    firstFault [(.reservedGuard, decide (g.toNat = 15))]
  | .por _ g _ _ _ =>
    firstFault [(.reservedGuard, decide (g.toNat = 15))]
  | .pxor _ g _ _ _ =>
    firstFault [(.reservedGuard, decide (g.toNat = 15))]
  | .pandn _ g _ _ _ =>
    firstFault [(.reservedGuard, decide (g.toNat = 15))]
  | .pnez _ g _ _ =>
    firstFault [(.reservedGuard, decide (g.toNat = 15))]
  | .pget _ g _ =>
    firstFault [(.reservedGuard, decide (g.toNat = 15))]
  | .pset _ g _ =>
    firstFault [(.reservedGuard, decide (g.toNat = 15))]
  | .exit g d n =>
    firstFault [(.reservedEncoding, decide (4 < n.toNat ∨ (n.toNat = 0 ∧ d.toNat ≠ 0))), (.reservedGuard, decide (g.toNat = 15)), (.badPairing, decide (n.toNat ≠ 0 ∧ (d.toNat % 2 = 1 ∨ 31 < d.toNat ∨ 30 < d.toNat + 2 * n.toNat - 2)))]
  | .safept => none
  | .vinfo _ g d _ =>
    firstFault [(.reservedGuard, decide (g.toNat = 15)), (.portMisuse, isPort d)]
  | .trap g _ =>
    firstFault [(.reservedGuard, decide (g.toNat = 15))]
  | .sysc g _ =>
    firstFault [(.reservedGuard, decide (g.toNat = 15))]
  | .brk g _ =>
    firstFault [(.reservedGuard, decide (g.toNat = 15))]
  | .rti g =>
    firstFault [(.reservedGuard, decide (g.toNat = 15))]
  | .rdsr _ g d _ =>
    firstFault [(.reservedGuard, decide (g.toNat = 15)), (.portMisuse, isPort d)]
  | .wrsr _ g d _ =>
    firstFault [(.reservedGuard, decide (g.toNat = 15)), (.portMisuse, isPort d)]
  | .rdclk _ g d =>
    firstFault [(.reservedGuard, decide (g.toNat = 15)), (.badPairing, badPair d)]
  | .dcwb _ g d _ =>
    firstFault [(.reservedGuard, decide (g.toNat = 15)), (.badPairing, badPair d)]
  | .icinv _ g d _ =>
    firstFault [(.reservedGuard, decide (g.toNat = 15)), (.badPairing, badPair d)]
  | .fbar g =>
    firstFault [(.reservedGuard, decide (g.toNat = 15))]
  | .qbind _ g d _ =>
    firstFault [(.reservedGuard, decide (g.toNat = 15)), (.badPairing, badPair d)]
  | .qunbind _ g _ =>
    firstFault [(.reservedGuard, decide (g.toNat = 15))]
  | .gbind _ g d _ _ =>
    firstFault [(.reservedGuard, decide (g.toNat = 15)), (.portMisuse, isPort d)]
  | .gunbind _ g _ _ =>
    firstFault [(.reservedGuard, decide (g.toNat = 15))]
  | .fetchFault => none
  | .sqTail q tail => firstFault [(.reservedEncoding, !decide (q < 64 ∧ tail < 2 ^ 32))]
  | .queuePick _ => none
  | .commandComplete _ => none
  | .dispatch core => firstFault [(.reservedEncoding, !decide (core < 1152))]
  | .steal die _ => firstFault [(.reservedEncoding, !decide (die < 24))]
  | .slotRelease core => firstFault [(.reservedEncoding, !decide (core < 1152))]
  | .issueSelect core fg => firstFault [(.reservedEncoding, !decide (core < 1152 ∧ fg < 4))]
  | .eftResume core fg eft => firstFault [(.reservedEncoding, !decide (core < 1152 ∧ fg < 4 ∧ eft < 16))]
  | .reconvRelease core fg => firstFault [(.reservedEncoding, !decide (core < 1152 ∧ fg < 4))]
  | .sleepWake core fg thread => firstFault [(.reservedEncoding, !decide (core < 1152 ∧ fg < 4 ∧ thread < 256))]
  | .barrierArrival core fg thread => firstFault [(.reservedEncoding, !decide (core < 1152 ∧ fg < 4 ∧ thread < 256))]
  | .barrierSpillArrival core fg thread => firstFault [(.reservedEncoding, !decide (core < 1152 ∧ fg < 4 ∧ thread < 256))]
  | .tokenClear core fg _ => firstFault [(.reservedEncoding, !decide (core < 1152 ∧ fg < 4))]
  | .storeArrival _ => none
  | .leaseLapse _ => none
  | .versionCurrent _ => none
  | .lineFetch _ l2 l1 => firstFault [(.reservedEncoding, !decide (l2 ≤ 4096 ∧ l1 ≤ 1024))]
  | .atomicRequest _ => none
  | .watchTimeout _ => none
  | .taskFinish ctx _ => firstFault [(.reservedEncoding, !decide (ctx < 65536))]
  | .contributionArrive _ => none
  | .rootMerge _ => none
  | .preemptionRequest ctx => firstFault [(.reservedEncoding, !decide (ctx < 65536))]
  | .copyIssueStop ctx => firstFault [(.reservedEncoding, !decide (ctx < 65536))]
  | .contextSave ctx => firstFault [(.reservedEncoding, !decide (ctx < 65536))]
  | .forcedSave ctx => firstFault [(.reservedEncoding, !decide (ctx < 65536))]
  | .balanceRefill => none
  | .energyCharge _ _ => none
  | .governorStep => none
  | .entryTake core _ => firstFault [(.reservedEncoding, !decide (core < 1152))]
  | .entryRetire core => firstFault [(.reservedEncoding, !decide (core < 1152))]
  | .entryStall _ _ => none
  | .cntIncrement _ => none
  | .triggerSlotFree die slot => firstFault [(.reservedEncoding, !decide (die < 24 ∧ slot < 512))]
  | .promiseRevision _ _ => none
  | .windowPost _ => none
  | .contributionCombine _ _ => none
  | .contributionRetry _ => none
  | .matrixStep core => firstFault [(.reservedEncoding, !decide (core < 1152))]
  | .matrixQueueStall core => firstFault [(.reservedEncoding, !decide (core < 1152))]
  | .storeRecord => none
  | .addRecord => none
  | .claimRecord => none
  | .launchRecord => none
  | .pteRecord => none
  | .part => none
  | .sysst => none
  | .keyroll => none
  | .recordArrival _ _ _ _ => none
  | .recordReturn _ => none
  | .tokenArrival _ _ _ _ origin chk _ => firstFault [(.reservedEncoding, !decide (origin < 64 ∧ chk < 65536))]
  | .tokenLossTimeout => none
  | .probe _ => none
  | .recordRepair _ _ _ _ _ => none
  | .recordVoid _ => none
  | .applyStall => none
  | .bypass tap => firstFault [(.reservedEncoding, !decide (tap < 64))]
  | .join tap => firstFault [(.reservedEncoding, !decide (tap < 64))]
  | .snapshotCopy _ _ => none
  | .loopstart taps => firstFault [(.reservedEncoding, !decide (taps < 2 ^ 64))]
  | .loopgo => none
  | .setowners m port _ => firstFault [(.reservedEncoding, !decide (m.position < 64 ∧ port ≤ 32))]
  | .setroute dest ports _ _ => firstFault [(.reservedEncoding, !decide (dest < 64 ∧ ports.length ≤ 4))]
  | .portdrain port => firstFault [(.reservedEncoding, !decide (port < 32))]
  | .portup port => firstFault [(.reservedEncoding, !decide (port < 32))]
  | .setppt owner _ _ => firstFault [(.reservedEncoding, !decide (owner < 4096))]
  | .keyload owner _ => firstFault [(.reservedEncoding, !decide (owner < 4096))]
  | .resync owner => firstFault [(.reservedEncoding, !decide (owner < 4096))]
  | .fabricPacket flow _ _ port _ _ _ _ =>
    firstFault [(.reservedEncoding, !decide (flow.src < 64 ∧ flow.dest < 64 ∧ flow.hops < 8 ∧ port < 32))]
  | .packetResend _ => none
  | .portDown port => firstFault [(.reservedEncoding, !decide (port < 32))]
  | .routeStall dest => firstFault [(.reservedEncoding, !decide (dest < 64))]
  | .ownerreject _ port => firstFault [(.reservedEncoding, !decide (port < 32))]
  | .remoteAccessFailed _ _ => none
  | .windowRequest _ => none
  | .winOpen tdi => firstFault [(.reservedEncoding, !decide (tdi < 63))]
  | .winRevoke tdi => firstFault [(.reservedEncoding, !decide (tdi < 63))]
  | .windowClose win => firstFault [(.reservedEncoding, !decide (win < 256))]
  | .hbqTail hbq tail => firstFault [(.reservedEncoding, !decide (hbq < 8 ∧ tail < 2 ^ 32))]
  | .fresume ctx _ => firstFault [(.reservedEncoding, !decide (ctx < 65536))]
  | .vpgrow ctx _ => firstFault [(.reservedEncoding, !decide (ctx < 65536))]
  | .ltinval ctx _ => firstFault [(.reservedEncoding, !decide (ctx < 65536))]
  | .ltinvalComplete => none
  | .sockreset _ => none
  | .lotseed _ => none
  | .serviceRegisterWrite _ _ _ _ => none
  | .capabilityRecord sock _ _ _ _ _ => firstFault [(.reservedEncoding, !decide (sock < 2))]
  | .packetPull sock q _ _ => firstFault [(.reservedEncoding, !decide (sock < 2 ∧ q < 64))]
  | .bindack sock q => firstFault [(.reservedEncoding, !decide (sock < 2 ∧ q < 64))]
  | .qstate sock q _ _ _ _ => firstFault [(.reservedEncoding, !decide (sock < 2 ∧ q < 64))]
  | .invack sock _ => firstFault [(.reservedEncoding, !decide (sock < 2))]
  | .guestFault sock _ _ _ _ => firstFault [(.reservedEncoding, !decide (sock < 2))]
  | .guestRead sock _ _ => firstFault [(.reservedEncoding, !decide (sock < 2))]
  | .ownershipRequest sock _ _ => firstFault [(.reservedEncoding, !decide (sock < 2))]
  | .writeBack sock _ _ _ _ _ => firstFault [(.reservedEncoding, !decide (sock < 2))]
  | .recallAnswer sock _ _ _ => firstFault [(.reservedEncoding, !decide (sock < 2))]
  | .guestAtomic sock _ _ _ _ _ _ => firstFault [(.reservedEncoding, !decide (sock < 2))]
  | .translationRequest sock _ _ _ => firstFault [(.reservedEncoding, !decide (sock < 2))]
  | .guestDutyTimeout sock _ => firstFault [(.reservedEncoding, !decide (sock < 2))]
  | .linkRetrain sock _ => firstFault [(.reservedEncoding, !decide (sock < 2))]
  | .hostSnoop _ _ => none
  | .cxlMemAccess _ _ _ _ => none
  | .atsInvalidation _ _ => none
  | .atsTimeout _ => none
  | .hostLinkError _ _ => none
  | .tdiLeaveRun tdi => firstFault [(.reservedEncoding, !decide (tdi < 63))]
  | .attestationRequest _ => none
  | .softError _ _ _ _ => none
  | .hbmFailure _ _ _ => none
  | .readyBitRise bit => firstFault [(.reservedEncoding, !decide (bit < 88))]
  | .liveUpdate _ _ _ _ => none
  | .watchdogFailover => none
  | .moduleReset => none
  | .mergeWindowHoldEnd _ => none
  | .drain _ _ => none
  | .discard ctx => firstFault [(.reservedEncoding, !decide (ctx < 65536))]
  | .tdispRequest tdi _ _ _ => firstFault [(.reservedEncoding, !decide (tdi < 63))]
  | .hostSync => none
  | .managementRecord rtype _ _ => firstFault [(.reservedEncoding, !decide (rtype < 256))]
  | .mirrorPeriodEnd => none

/-- No non-instruction condition holds. -/
def Instr.wellFormed (i : Instr) : Bool := i.illegal.isNone

/-- An instruction that a 32-bit word encodes; the other constructors are machine steps without a word. -/
def Instr.isWord : Instr → Bool
  | .nop _ _ => true
  | .yield _ _ => true
  | .add _ _ _ _ _ => true
  | .sub _ _ _ _ _ => true
  | .mul _ _ _ _ _ => true
  | .mulhs _ _ _ _ _ => true
  | .mulhu _ _ _ _ _ => true
  | .mins _ _ _ _ _ => true
  | .maxs _ _ _ _ _ => true
  | .adds _ _ _ _ _ => true
  | .and _ _ _ _ _ => true
  | .or _ _ _ _ _ => true
  | .xor _ _ _ _ _ => true
  | .andn _ _ _ _ _ => true
  | .orn _ _ _ _ _ => true
  | .xnor _ _ _ _ _ => true
  | .minu _ _ _ _ _ => true
  | .maxu _ _ _ _ _ => true
  | .shl _ _ _ _ _ => true
  | .shr _ _ _ _ _ => true
  | .sar _ _ _ _ _ => true
  | .rol _ _ _ _ _ => true
  | .ror _ _ _ _ _ => true
  | .clz _ _ _ _ => true
  | .popc _ _ _ _ => true
  | .brev _ _ _ _ => true
  | .cmpEq _ _ _ _ _ => true
  | .cmpNe _ _ _ _ _ => true
  | .cmpLt _ _ _ _ _ => true
  | .cmpLe _ _ _ _ _ => true
  | .cmpLtu _ _ _ _ _ => true
  | .cmpLeu _ _ _ _ _ => true
  | .cmpTst _ _ _ _ _ => true
  | .addi _ _ _ _ _ => true
  | .andi _ _ _ _ _ => true
  | .ori _ _ _ _ _ => true
  | .xori _ _ _ _ _ => true
  | .shli _ _ _ _ _ => true
  | .shri _ _ _ _ _ => true
  | .sari _ _ _ _ _ => true
  | .movi _ _ _ _ => true
  | .movsh _ _ _ _ => true
  | .add64 _ _ _ _ _ => true
  | .sub64 _ _ _ _ _ => true
  | .addsx64 _ _ _ _ _ => true
  | .addzx64 _ _ _ _ _ => true
  | .shl64 _ _ _ _ _ => true
  | .shr64 _ _ _ _ _ => true
  | .sar64 _ _ _ _ _ => true
  | .mul64 _ _ _ _ _ => true
  | .adr _ _ _ _ => true
  | .fadd _ _ _ _ _ _ => true
  | .fsub _ _ _ _ _ _ => true
  | .fmul _ _ _ _ _ _ => true
  | .ffma _ _ _ _ _ _ => true
  | .ffms _ _ _ _ _ _ => true
  | .fnma _ _ _ _ _ _ => true
  | .haddBf16x2 _ _ _ _ _ _ => true
  | .hmulBf16x2 _ _ _ _ _ _ => true
  | .hfmaBf16x2 _ _ _ _ _ _ => true
  | .fdot2Bf16 _ _ _ _ _ _ => true
  | .fmin _ _ _ _ _ => true
  | .fmax _ _ _ _ _ => true
  | .fabs _ _ _ _ => true
  | .fneg _ _ _ _ => true
  | .fcopysign _ _ _ _ _ => true
  | .fclass _ _ _ _ => true
  | .fcmpEq _ _ _ _ _ => true
  | .fcmpNe _ _ _ _ _ => true
  | .fcmpLt _ _ _ _ _ => true
  | .fcmpLe _ _ _ _ _ => true
  | .fcmpUn _ _ _ _ _ => true
  | .fscale _ _ _ _ _ _ => true
  | .frint _ _ _ _ _ => true
  | .cvtBf16F32 _ _ _ _ _ => true
  | .cvtF32Bf16 _ _ _ _ _ => true
  | .cvtE4m3F32 _ _ _ _ _ => true
  | .cvtF32E4m3 _ _ _ _ _ => true
  | .cvtI32F32 _ _ _ _ _ => true
  | .cvtN32F32 _ _ _ _ _ => true
  | .cvtF32I32 _ _ _ _ _ => true
  | .cvtF32N32 _ _ _ _ _ => true
  | .cvtI16I32 _ _ _ _ _ => true
  | .cvtI8I32 _ _ _ _ _ => true
  | .cvtN16N32 _ _ _ _ _ => true
  | .cvtN8N32 _ _ _ _ _ => true
  | .shfl _ _ _ _ _ => true
  | .shflUp _ _ _ _ _ => true
  | .shflDown _ _ _ _ _ => true
  | .shflXor _ _ _ _ _ => true
  | .ballot _ _ _ _ => true
  | .rcp _ _ _ _ => true
  | .rsqrt _ _ _ _ => true
  | .sqrt _ _ _ _ => true
  | .exp2 _ _ _ _ => true
  | .log2 _ _ _ _ => true
  | .sinpi _ _ _ _ => true
  | .cospi _ _ _ _ => true
  | .tanh _ _ _ _ => true
  | .div _ _ _ _ _ => true
  | .divu _ _ _ _ _ => true
  | .rem _ _ _ _ _ => true
  | .remu _ _ _ _ _ => true
  | .fdiv _ _ _ _ _ => true
  | .rand _ _ _ => true
  | .ld _ _ _ _ _ _ _ => true
  | .lds _ _ _ _ _ _ _ => true
  | .st _ _ _ _ _ _ _ => true
  | .ldRo _ _ _ _ _ _ _ => true
  | .ldAcq _ _ _ _ _ _ _ => true
  | .stRel _ _ _ _ _ _ _ => true
  | .pf _ _ _ _ _ => true
  | .atomAdd _ _ _ _ _ _ => true
  | .atomMins _ _ _ _ _ _ => true
  | .atomMaxs _ _ _ _ _ _ => true
  | .atomMinu _ _ _ _ _ _ => true
  | .atomMaxu _ _ _ _ _ _ => true
  | .atomAnd _ _ _ _ _ _ => true
  | .atomOr _ _ _ _ _ _ => true
  | .atomXor _ _ _ _ _ _ => true
  | .atomXchg _ _ _ _ _ _ => true
  | .atomCas _ _ _ _ _ _ => true
  | .atomFadd _ _ _ _ _ => true
  | .atomFmin _ _ _ _ _ => true
  | .atomFmax _ _ _ _ _ => true
  | .fence _ _ _ _ => true
  | .seal _ _ _ _ _ _ => true
  | .unseal _ _ _ _ _ _ => true
  | .watch _ _ _ _ _ _ => true
  | .wait _ _ => true
  | .sleepUntil _ _ => true
  | .barArrive _ _ _ => true
  | .barWait _ _ _ => true
  | .barArriveExp _ _ _ _ => true
  | .cmLd _ _ _ _ _ _ => true
  | .cmSt _ _ _ _ _ _ _ _ => true
  | .cmAdd _ _ _ _ _ _ _ _ => true
  | .cmClaim _ _ _ _ _ _ _ => true
  | .cmWait _ _ _ _ _ _ => true
  | .cmLsn _ _ _ _ => true
  | .cmLaunch _ _ _ _ _ _ _ => true
  | .cmPte _ _ _ _ _ _ _ => true
  | .fenceSeq _ _ _ _ => true
  | .fenceSeqAll _ _ _ _ => true
  | .shld _ _ _ _ _ => true
  | .shst _ _ _ _ _ => true
  | .shmod _ _ _ _ _ _ => true
  | .tcp _ _ _ _ _ _ => true
  | .tcpRed _ _ _ _ _ _ => true
  | .tcpPost _ _ _ _ _ _ => true
  | .ctrAdd _ _ _ _ _ => true
  | .ctrLd _ _ _ _ _ => true
  | .ringArm _ _ _ _ _ => true
  | .mma _ _ _ _ _ _ _ => true
  | .mmaGather _ _ _ _ _ _ _ _ => true
  | .accClr _ _ _ _ => true
  | .accLd _ _ _ _ _ _ => true
  | .accSt _ _ _ _ _ _ => true
  | .gsend _ _ _ _ _ _ => true
  | .qfence _ _ _ _ _ _ => true
  | .br _ _ => true
  | .call _ _ => true
  | .jmp _ _ => true
  | .jmpl _ _ => true
  | .reconv _ => true
  | .kget _ _ _ _ => true
  | .kset _ _ _ _ => true
  | .pand _ _ _ _ _ => true
  | .por _ _ _ _ _ => true
  | .pxor _ _ _ _ _ => true
  | .pandn _ _ _ _ _ => true
  | .pnez _ _ _ _ => true
  | .pget _ _ _ => true
  | .pset _ _ _ => true
  | .exit _ _ _ => true
  | .safept => true
  | .vinfo _ _ _ _ => true
  | .trap _ _ => true
  | .sysc _ _ => true
  | .brk _ _ => true
  | .rti _ => true
  | .rdsr _ _ _ _ => true
  | .wrsr _ _ _ _ => true
  | .rdclk _ _ _ => true
  | .dcwb _ _ _ _ => true
  | .icinv _ _ _ _ => true
  | .fbar _ => true
  | .qbind _ _ _ _ => true
  | .qunbind _ _ _ => true
  | .gbind _ _ _ _ _ => true
  | .gunbind _ _ _ _ => true
  | .fetchFault => false
  | .sqTail _ _ => false
  | .queuePick _ => false
  | .commandComplete _ => false
  | .dispatch _ => false
  | .steal _ _ => false
  | .slotRelease _ => false
  | .issueSelect _ _ => false
  | .eftResume _ _ _ => false
  | .reconvRelease _ _ => false
  | .sleepWake _ _ _ => false
  | .barrierArrival _ _ _ => false
  | .barrierSpillArrival _ _ _ => false
  | .tokenClear _ _ _ => false
  | .storeArrival _ => false
  | .leaseLapse _ => false
  | .versionCurrent _ => false
  | .lineFetch _ _ _ => false
  | .atomicRequest _ => false
  | .watchTimeout _ => false
  | .taskFinish _ _ => false
  | .contributionArrive _ => false
  | .rootMerge _ => false
  | .preemptionRequest _ => false
  | .copyIssueStop _ => false
  | .contextSave _ => false
  | .forcedSave _ => false
  | .balanceRefill => false
  | .energyCharge _ _ => false
  | .governorStep => false
  | .entryTake _ _ => false
  | .entryRetire _ => false
  | .entryStall _ _ => false
  | .cntIncrement _ => false
  | .triggerSlotFree _ _ => false
  | .promiseRevision _ _ => false
  | .windowPost _ => false
  | .contributionCombine _ _ => false
  | .contributionRetry _ => false
  | .matrixStep _ => false
  | .matrixQueueStall _ => false
  | .storeRecord => false
  | .addRecord => false
  | .claimRecord => false
  | .launchRecord => false
  | .pteRecord => false
  | .part => false
  | .sysst => false
  | .keyroll => false
  | .recordArrival _ _ _ _ => false
  | .recordReturn _ => false
  | .tokenArrival _ _ _ _ _ _ _ => false
  | .tokenLossTimeout => false
  | .probe _ => false
  | .recordRepair _ _ _ _ _ => false
  | .recordVoid _ => false
  | .applyStall => false
  | .bypass _ => false
  | .join _ => false
  | .snapshotCopy _ _ => false
  | .loopstart _ => false
  | .loopgo => false
  | .setowners _ _ _ => false
  | .setroute _ _ _ _ => false
  | .portdrain _ => false
  | .portup _ => false
  | .setppt _ _ _ => false
  | .keyload _ _ => false
  | .resync _ => false
  | .fabricPacket _ _ _ _ _ _ _ _ => false
  | .packetResend _ => false
  | .portDown _ => false
  | .routeStall _ => false
  | .ownerreject _ _ => false
  | .remoteAccessFailed _ _ => false
  | .windowRequest _ => false
  | .winOpen _ => false
  | .winRevoke _ => false
  | .windowClose _ => false
  | .hbqTail _ _ => false
  | .fresume _ _ => false
  | .vpgrow _ _ => false
  | .ltinval _ _ => false
  | .ltinvalComplete => false
  | .sockreset _ => false
  | .lotseed _ => false
  | .serviceRegisterWrite _ _ _ _ => false
  | .capabilityRecord _ _ _ _ _ _ => false
  | .packetPull _ _ _ _ => false
  | .bindack _ _ => false
  | .qstate _ _ _ _ _ _ => false
  | .invack _ _ => false
  | .guestFault _ _ _ _ _ => false
  | .guestRead _ _ _ => false
  | .ownershipRequest _ _ _ => false
  | .writeBack _ _ _ _ _ _ => false
  | .recallAnswer _ _ _ _ => false
  | .guestAtomic _ _ _ _ _ _ _ => false
  | .translationRequest _ _ _ _ => false
  | .guestDutyTimeout _ _ => false
  | .linkRetrain _ _ => false
  | .hostSnoop _ _ => false
  | .cxlMemAccess _ _ _ _ => false
  | .atsInvalidation _ _ => false
  | .atsTimeout _ => false
  | .hostLinkError _ _ => false
  | .tdiLeaveRun _ => false
  | .attestationRequest _ => false
  | .softError _ _ _ _ => false
  | .hbmFailure _ _ _ => false
  | .readyBitRise _ => false
  | .liveUpdate _ _ _ _ => false
  | .watchdogFailover => false
  | .moduleReset => false
  | .mergeWindowHoldEnd _ => false
  | .drain _ _ => false
  | .discard _ => false
  | .tdispRequest _ _ _ _ => false
  | .hostSync => false
  | .managementRecord _ _ _ => false
  | .mirrorPeriodEnd => false

end Sys2Proof
end

