-- ==== Sys2Proof/Decode.lean ====
section
/-! DEFINITION. The decoder of instruction words, from the forms of R132, the opcode map R139, the FUNC15
layouts R140 and the tables R151, R176, R200, R231, and the encoder written from the same tables.
A word that is no instruction is rejected with the condition of R314 it meets. -/

namespace Sys2Proof

/-- Bits lo to lo + n - 1 of a word, as a number. -/
def seg (w lo n : Nat) : Nat := w / 2 ^ lo % 2 ^ n

/-- Bits lo to lo + n - 1 of a word, as a bit vector. -/
def fld (w lo n : Nat) : BitVec n := BitVec.ofNat n (w / 2 ^ lo)

/-- One bit of a word. -/
def flag (w lo : Nat) : Bool := decide (w / 2 ^ lo % 2 = 1)

/-- The words of major opcode 0x00 (R139). -/
def decMaj00 (w : Nat) : Option Instr :=
  if seg w 0 21 = 0 then
    some (.nop (flag w 31) (fld w 21 4))
  else if seg w 0 21 = 1 then
    some (.yield (flag w 31) (fld w 21 4))
  else none

/-- The words of major opcode 0x01 (R139). -/
def decMaj01 (w : Nat) : Option Instr :=
  if seg w 0 3 = 0 then
    some (.add (flag w 31) (fld w 21 4) (fld w 15 6) (fld w 9 6) (fld w 3 6))
  else if seg w 0 3 = 1 then
    some (.sub (flag w 31) (fld w 21 4) (fld w 15 6) (fld w 9 6) (fld w 3 6))
  else if seg w 0 3 = 2 then
    some (.mul (flag w 31) (fld w 21 4) (fld w 15 6) (fld w 9 6) (fld w 3 6))
  else if seg w 0 3 = 3 then
    some (.mulhs (flag w 31) (fld w 21 4) (fld w 15 6) (fld w 9 6) (fld w 3 6))
  else if seg w 0 3 = 4 then
    some (.mulhu (flag w 31) (fld w 21 4) (fld w 15 6) (fld w 9 6) (fld w 3 6))
  else if seg w 0 3 = 5 then
    some (.mins (flag w 31) (fld w 21 4) (fld w 15 6) (fld w 9 6) (fld w 3 6))
  else if seg w 0 3 = 6 then
    some (.maxs (flag w 31) (fld w 21 4) (fld w 15 6) (fld w 9 6) (fld w 3 6))
  else if seg w 0 3 = 7 then
    some (.adds (flag w 31) (fld w 21 4) (fld w 15 6) (fld w 9 6) (fld w 3 6))
  else none

/-- The words of major opcode 0x02 (R139). -/
def decMaj02 (w : Nat) : Option Instr :=
  if seg w 0 3 = 0 then
    some (.and (flag w 31) (fld w 21 4) (fld w 15 6) (fld w 9 6) (fld w 3 6))
  else if seg w 0 3 = 1 then
    some (.or (flag w 31) (fld w 21 4) (fld w 15 6) (fld w 9 6) (fld w 3 6))
  else if seg w 0 3 = 2 then
    some (.xor (flag w 31) (fld w 21 4) (fld w 15 6) (fld w 9 6) (fld w 3 6))
  else if seg w 0 3 = 3 then
    some (.andn (flag w 31) (fld w 21 4) (fld w 15 6) (fld w 9 6) (fld w 3 6))
  else if seg w 0 3 = 4 then
    some (.orn (flag w 31) (fld w 21 4) (fld w 15 6) (fld w 9 6) (fld w 3 6))
  else if seg w 0 3 = 5 then
    some (.xnor (flag w 31) (fld w 21 4) (fld w 15 6) (fld w 9 6) (fld w 3 6))
  else if seg w 0 3 = 6 then
    some (.minu (flag w 31) (fld w 21 4) (fld w 15 6) (fld w 9 6) (fld w 3 6))
  else if seg w 0 3 = 7 then
    some (.maxu (flag w 31) (fld w 21 4) (fld w 15 6) (fld w 9 6) (fld w 3 6))
  else none

/-- The words of major opcode 0x03 (R139). -/
def decMaj03 (w : Nat) : Option Instr :=
  if seg w 0 3 = 0 then
    some (.shl (flag w 31) (fld w 21 4) (fld w 15 6) (fld w 9 6) (fld w 3 6))
  else if seg w 0 3 = 1 then
    some (.shr (flag w 31) (fld w 21 4) (fld w 15 6) (fld w 9 6) (fld w 3 6))
  else if seg w 0 3 = 2 then
    some (.sar (flag w 31) (fld w 21 4) (fld w 15 6) (fld w 9 6) (fld w 3 6))
  else if seg w 0 3 = 3 then
    some (.rol (flag w 31) (fld w 21 4) (fld w 15 6) (fld w 9 6) (fld w 3 6))
  else if seg w 0 3 = 4 then
    some (.ror (flag w 31) (fld w 21 4) (fld w 15 6) (fld w 9 6) (fld w 3 6))
  else if seg w 0 9 = 5 then
    some (.clz (flag w 31) (fld w 21 4) (fld w 15 6) (fld w 9 6))
  else if seg w 0 9 = 6 then
    some (.popc (flag w 31) (fld w 21 4) (fld w 15 6) (fld w 9 6))
  else if seg w 0 9 = 7 then
    some (.brev (flag w 31) (fld w 21 4) (fld w 15 6) (fld w 9 6))
  else none

/-- The words of major opcode 0x04 (R139). -/
def decMaj04 (w : Nat) : Option Instr :=
  if seg w 0 3 = 0 ∧ seg w 18 3 = 0 then
    some (.cmpEq (flag w 31) (fld w 21 4) (fld w 15 3) (fld w 9 6) (fld w 3 6))
  else if seg w 0 3 = 1 ∧ seg w 18 3 = 0 then
    some (.cmpNe (flag w 31) (fld w 21 4) (fld w 15 3) (fld w 9 6) (fld w 3 6))
  else if seg w 0 3 = 2 ∧ seg w 18 3 = 0 then
    some (.cmpLt (flag w 31) (fld w 21 4) (fld w 15 3) (fld w 9 6) (fld w 3 6))
  else if seg w 0 3 = 3 ∧ seg w 18 3 = 0 then
    some (.cmpLe (flag w 31) (fld w 21 4) (fld w 15 3) (fld w 9 6) (fld w 3 6))
  else if seg w 0 3 = 4 ∧ seg w 18 3 = 0 then
    some (.cmpLtu (flag w 31) (fld w 21 4) (fld w 15 3) (fld w 9 6) (fld w 3 6))
  else if seg w 0 3 = 5 ∧ seg w 18 3 = 0 then
    some (.cmpLeu (flag w 31) (fld w 21 4) (fld w 15 3) (fld w 9 6) (fld w 3 6))
  else if seg w 0 3 = 6 ∧ seg w 18 3 = 0 then
    some (.cmpTst (flag w 31) (fld w 21 4) (fld w 15 3) (fld w 9 6) (fld w 3 6))
  else none

/-- The words of major opcode 0x05 (R139). -/
def decMaj05 (w : Nat) : Option Instr :=
  some (.addi (flag w 31) (fld w 21 4) (fld w 15 6) (fld w 9 6) (fld w 0 9))

/-- The words of major opcode 0x06 (R139). -/
def decMaj06 (w : Nat) : Option Instr :=
  some (.andi (flag w 31) (fld w 21 4) (fld w 15 6) (fld w 9 6) (fld w 0 9))

/-- The words of major opcode 0x07 (R139). -/
def decMaj07 (w : Nat) : Option Instr :=
  some (.ori (flag w 31) (fld w 21 4) (fld w 15 6) (fld w 9 6) (fld w 0 9))

/-- The words of major opcode 0x08 (R139). -/
def decMaj08 (w : Nat) : Option Instr :=
  some (.xori (flag w 31) (fld w 21 4) (fld w 15 6) (fld w 9 6) (fld w 0 9))

/-- The words of major opcode 0x09 (R139). -/
def decMaj09 (w : Nat) : Option Instr :=
  if seg w 5 4 = 0 then
    some (.shli (flag w 31) (fld w 21 4) (fld w 15 6) (fld w 9 6) (fld w 0 5))
  else none

/-- The words of major opcode 0x0A (R139). -/
def decMaj0A (w : Nat) : Option Instr :=
  if seg w 5 4 = 0 then
    some (.shri (flag w 31) (fld w 21 4) (fld w 15 6) (fld w 9 6) (fld w 0 5))
  else none

/-- The words of major opcode 0x0B (R139). -/
def decMaj0B (w : Nat) : Option Instr :=
  if seg w 5 4 = 0 then
    some (.sari (flag w 31) (fld w 21 4) (fld w 15 6) (fld w 9 6) (fld w 0 5))
  else none

/-- The words of major opcode 0x0C (R139). -/
def decMaj0C (w : Nat) : Option Instr :=
  some (.movi (flag w 31) (fld w 21 4) (fld w 15 6) (fld w 0 15))

/-- The words of major opcode 0x0D (R139). -/
def decMaj0D (w : Nat) : Option Instr :=
  some (.movsh (flag w 31) (fld w 21 4) (fld w 15 6) (fld w 0 15))

/-- The words of major opcode 0x0E (R139). -/
def decMaj0E (w : Nat) : Option Instr :=
  if seg w 0 3 = 0 then
    some (.add64 (flag w 31) (fld w 21 4) (fld w 15 6) (fld w 9 6) (fld w 3 6))
  else if seg w 0 3 = 1 then
    some (.sub64 (flag w 31) (fld w 21 4) (fld w 15 6) (fld w 9 6) (fld w 3 6))
  else if seg w 0 3 = 2 then
    some (.addsx64 (flag w 31) (fld w 21 4) (fld w 15 6) (fld w 9 6) (fld w 3 6))
  else if seg w 0 3 = 3 then
    some (.addzx64 (flag w 31) (fld w 21 4) (fld w 15 6) (fld w 9 6) (fld w 3 6))
  else if seg w 0 3 = 4 then
    some (.shl64 (flag w 31) (fld w 21 4) (fld w 15 6) (fld w 9 6) (fld w 3 6))
  else if seg w 0 3 = 5 then
    some (.shr64 (flag w 31) (fld w 21 4) (fld w 15 6) (fld w 9 6) (fld w 3 6))
  else if seg w 0 3 = 6 then
    some (.sar64 (flag w 31) (fld w 21 4) (fld w 15 6) (fld w 9 6) (fld w 3 6))
  else if seg w 0 3 = 7 then
    some (.mul64 (flag w 31) (fld w 21 4) (fld w 15 6) (fld w 9 6) (fld w 3 6))
  else none

/-- The words of major opcode 0x0F (R139). -/
def decMaj0F (w : Nat) : Option Instr :=
  some (.adr (flag w 31) (fld w 21 4) (fld w 15 6) (fld w 0 15))

/-- The words of major opcode 0x10 (R139). -/
def decMaj10 (w : Nat) : Option Instr :=
  some (.fadd (flag w 31) (fld w 21 4) (fld w 15 6) (fld w 9 6) (fld w 3 6) (fld w 0 3))

/-- The words of major opcode 0x11 (R139). -/
def decMaj11 (w : Nat) : Option Instr :=
  some (.fsub (flag w 31) (fld w 21 4) (fld w 15 6) (fld w 9 6) (fld w 3 6) (fld w 0 3))

/-- The words of major opcode 0x12 (R139). -/
def decMaj12 (w : Nat) : Option Instr :=
  some (.fmul (flag w 31) (fld w 21 4) (fld w 15 6) (fld w 9 6) (fld w 3 6) (fld w 0 3))

/-- The words of major opcode 0x13 (R139). -/
def decMaj13 (w : Nat) : Option Instr :=
  some (.ffma (flag w 31) (fld w 21 4) (fld w 15 6) (fld w 9 6) (fld w 3 6) (fld w 0 3))

/-- The words of major opcode 0x14 (R139). -/
def decMaj14 (w : Nat) : Option Instr :=
  some (.ffms (flag w 31) (fld w 21 4) (fld w 15 6) (fld w 9 6) (fld w 3 6) (fld w 0 3))

/-- The words of major opcode 0x15 (R139). -/
def decMaj15 (w : Nat) : Option Instr :=
  some (.fnma (flag w 31) (fld w 21 4) (fld w 15 6) (fld w 9 6) (fld w 3 6) (fld w 0 3))

/-- The words of major opcode 0x16 (R139). -/
def decMaj16 (w : Nat) : Option Instr :=
  some (.haddBf16x2 (flag w 31) (fld w 21 4) (fld w 15 6) (fld w 9 6) (fld w 3 6) (fld w 0 3))

/-- The words of major opcode 0x17 (R139). -/
def decMaj17 (w : Nat) : Option Instr :=
  some (.hmulBf16x2 (flag w 31) (fld w 21 4) (fld w 15 6) (fld w 9 6) (fld w 3 6) (fld w 0 3))

/-- The words of major opcode 0x18 (R139). -/
def decMaj18 (w : Nat) : Option Instr :=
  some (.hfmaBf16x2 (flag w 31) (fld w 21 4) (fld w 15 6) (fld w 9 6) (fld w 3 6) (fld w 0 3))

/-- The words of major opcode 0x19 (R139). -/
def decMaj19 (w : Nat) : Option Instr :=
  if seg w 0 3 = 0 then
    some (.fmin (flag w 31) (fld w 21 4) (fld w 15 6) (fld w 9 6) (fld w 3 6))
  else if seg w 0 3 = 1 then
    some (.fmax (flag w 31) (fld w 21 4) (fld w 15 6) (fld w 9 6) (fld w 3 6))
  else if seg w 0 9 = 2 then
    some (.fabs (flag w 31) (fld w 21 4) (fld w 15 6) (fld w 9 6))
  else if seg w 0 9 = 3 then
    some (.fneg (flag w 31) (fld w 21 4) (fld w 15 6) (fld w 9 6))
  else if seg w 0 3 = 4 then
    some (.fcopysign (flag w 31) (fld w 21 4) (fld w 15 6) (fld w 9 6) (fld w 3 6))
  else if seg w 0 9 = 5 then
    some (.fclass (flag w 31) (fld w 21 4) (fld w 15 6) (fld w 9 6))
  else none

/-- The words of major opcode 0x1A (R139). -/
def decMaj1A (w : Nat) : Option Instr :=
  if seg w 0 3 = 0 ∧ seg w 18 3 = 0 then
    some (.fcmpEq (flag w 31) (fld w 21 4) (fld w 15 3) (fld w 9 6) (fld w 3 6))
  else if seg w 0 3 = 1 ∧ seg w 18 3 = 0 then
    some (.fcmpNe (flag w 31) (fld w 21 4) (fld w 15 3) (fld w 9 6) (fld w 3 6))
  else if seg w 0 3 = 2 ∧ seg w 18 3 = 0 then
    some (.fcmpLt (flag w 31) (fld w 21 4) (fld w 15 3) (fld w 9 6) (fld w 3 6))
  else if seg w 0 3 = 3 ∧ seg w 18 3 = 0 then
    some (.fcmpLe (flag w 31) (fld w 21 4) (fld w 15 3) (fld w 9 6) (fld w 3 6))
  else if seg w 0 3 = 4 ∧ seg w 18 3 = 0 then
    some (.fcmpUn (flag w 31) (fld w 21 4) (fld w 15 3) (fld w 9 6) (fld w 3 6))
  else none

/-- The words of major opcode 0x1B (R139). -/
def decMaj1B (w : Nat) : Option Instr :=
  some (.fscale (flag w 31) (fld w 21 4) (fld w 15 6) (fld w 9 6) (fld w 3 6) (fld w 0 3))

/-- The words of major opcode 0x1C (R139). -/
def decMaj1C (w : Nat) : Option Instr :=
  if seg w 3 6 = 0 then
    some (.frint (flag w 31) (fld w 21 4) (fld w 15 6) (fld w 9 6) (fld w 0 3))
  else none

/-- The words of major opcode 0x1D (R139). -/
def decMaj1D (w : Nat) : Option Instr :=
  some (.fdot2Bf16 (flag w 31) (fld w 21 4) (fld w 15 6) (fld w 9 6) (fld w 3 6) (fld w 0 3))

/-- The words of major opcode 0x1E (R139). -/
def decMaj1E (w : Nat) : Option Instr :=
  if seg w 3 6 = 0 then
    some (.cvtBf16F32 (flag w 31) (fld w 21 4) (fld w 15 6) (fld w 9 6) (fld w 0 3))
  else if seg w 3 6 = 1 then
    some (.cvtF32Bf16 (flag w 31) (fld w 21 4) (fld w 15 6) (fld w 9 6) (fld w 0 3))
  else if seg w 3 6 = 2 then
    some (.cvtE4m3F32 (flag w 31) (fld w 21 4) (fld w 15 6) (fld w 9 6) (fld w 0 3))
  else if seg w 3 6 = 3 then
    some (.cvtF32E4m3 (flag w 31) (fld w 21 4) (fld w 15 6) (fld w 9 6) (fld w 0 3))
  else if seg w 3 6 = 4 then
    some (.cvtI32F32 (flag w 31) (fld w 21 4) (fld w 15 6) (fld w 9 6) (fld w 0 3))
  else if seg w 3 6 = 5 then
    some (.cvtN32F32 (flag w 31) (fld w 21 4) (fld w 15 6) (fld w 9 6) (fld w 0 3))
  else if seg w 3 6 = 6 then
    some (.cvtF32I32 (flag w 31) (fld w 21 4) (fld w 15 6) (fld w 9 6) (fld w 0 3))
  else if seg w 3 6 = 7 then
    some (.cvtF32N32 (flag w 31) (fld w 21 4) (fld w 15 6) (fld w 9 6) (fld w 0 3))
  else if seg w 3 6 = 8 then
    some (.cvtI16I32 (flag w 31) (fld w 21 4) (fld w 15 6) (fld w 9 6) (fld w 0 3))
  else if seg w 3 6 = 9 then
    some (.cvtI8I32 (flag w 31) (fld w 21 4) (fld w 15 6) (fld w 9 6) (fld w 0 3))
  else if seg w 3 6 = 10 then
    some (.cvtN16N32 (flag w 31) (fld w 21 4) (fld w 15 6) (fld w 9 6) (fld w 0 3))
  else if seg w 3 6 = 11 then
    some (.cvtN8N32 (flag w 31) (fld w 21 4) (fld w 15 6) (fld w 9 6) (fld w 0 3))
  else none

/-- The words of major opcode 0x1F (R139). -/
def decMaj1F (w : Nat) : Option Instr :=
  if seg w 0 3 = 0 then
    some (.shfl (flag w 31) (fld w 21 4) (fld w 15 6) (fld w 9 6) (fld w 3 6))
  else if seg w 0 3 = 1 then
    some (.shflUp (flag w 31) (fld w 21 4) (fld w 15 6) (fld w 9 6) (fld w 3 6))
  else if seg w 0 3 = 2 then
    some (.shflDown (flag w 31) (fld w 21 4) (fld w 15 6) (fld w 9 6) (fld w 3 6))
  else if seg w 0 3 = 3 then
    some (.shflXor (flag w 31) (fld w 21 4) (fld w 15 6) (fld w 9 6) (fld w 3 6))
  else if seg w 0 9 = 4 then
    some (.ballot (flag w 31) (fld w 21 4) (fld w 15 6) (fld w 9 6))
  else none

/-- The words of major opcode 0x20 (R139). -/
def decMaj20 (w : Nat) : Option Instr :=
  if seg w 0 9 = 0 then
    some (.rcp (flag w 31) (fld w 21 4) (fld w 15 6) (fld w 9 6))
  else if seg w 0 9 = 1 then
    some (.rsqrt (flag w 31) (fld w 21 4) (fld w 15 6) (fld w 9 6))
  else if seg w 0 9 = 2 then
    some (.sqrt (flag w 31) (fld w 21 4) (fld w 15 6) (fld w 9 6))
  else if seg w 0 9 = 3 then
    some (.exp2 (flag w 31) (fld w 21 4) (fld w 15 6) (fld w 9 6))
  else if seg w 0 9 = 4 then
    some (.log2 (flag w 31) (fld w 21 4) (fld w 15 6) (fld w 9 6))
  else if seg w 0 9 = 5 then
    some (.sinpi (flag w 31) (fld w 21 4) (fld w 15 6) (fld w 9 6))
  else if seg w 0 9 = 6 then
    some (.cospi (flag w 31) (fld w 21 4) (fld w 15 6) (fld w 9 6))
  else if seg w 0 9 = 7 then
    some (.tanh (flag w 31) (fld w 21 4) (fld w 15 6) (fld w 9 6))
  else none

/-- The words of major opcode 0x21 (R139). -/
def decMaj21 (w : Nat) : Option Instr :=
  if seg w 0 3 = 0 then
    some (.div (flag w 31) (fld w 21 4) (fld w 15 6) (fld w 9 6) (fld w 3 6))
  else if seg w 0 3 = 1 then
    some (.divu (flag w 31) (fld w 21 4) (fld w 15 6) (fld w 9 6) (fld w 3 6))
  else if seg w 0 3 = 2 then
    some (.rem (flag w 31) (fld w 21 4) (fld w 15 6) (fld w 9 6) (fld w 3 6))
  else if seg w 0 3 = 3 then
    some (.remu (flag w 31) (fld w 21 4) (fld w 15 6) (fld w 9 6) (fld w 3 6))
  else if seg w 0 3 = 4 then
    some (.fdiv (flag w 31) (fld w 21 4) (fld w 15 6) (fld w 9 6) (fld w 3 6))
  else if seg w 0 15 = 5 then
    some (.rand (flag w 31) (fld w 21 4) (fld w 15 6))
  else none

/-- The words of major opcode 0x24 (R139). -/
def decMaj24 (w : Nat) : Option Instr :=
  some (.ld (flag w 31) (fld w 21 4) (fld w 15 6) (fld w 9 6) (fld w 7 2) (fld w 4 3) (fld w 0 4))

/-- The words of major opcode 0x25 (R139). -/
def decMaj25 (w : Nat) : Option Instr :=
  some (.lds (flag w 31) (fld w 21 4) (fld w 15 6) (fld w 9 6) (fld w 7 2) (fld w 4 3) (fld w 0 4))

/-- The words of major opcode 0x26 (R139). -/
def decMaj26 (w : Nat) : Option Instr :=
  some (.st (flag w 31) (fld w 21 4) (fld w 15 6) (fld w 9 6) (fld w 7 2) (fld w 4 3) (fld w 0 4))

/-- The words of major opcode 0x27 (R139). -/
def decMaj27 (w : Nat) : Option Instr :=
  some (.ldRo (flag w 31) (fld w 21 4) (fld w 15 6) (fld w 9 6) (fld w 7 2) (fld w 4 3) (fld w 0 4))

/-- The words of major opcode 0x28 (R139). -/
def decMaj28 (w : Nat) : Option Instr :=
  if seg w 0 1 = 0 then
    some (.ldAcq (flag w 31) (fld w 21 4) (fld w 15 6) (fld w 9 6) (fld w 6 3) (fld w 4 2) (fld w 1 3))
  else if seg w 0 1 = 1 then
    some (.stRel (flag w 31) (fld w 21 4) (fld w 15 6) (fld w 9 6) (fld w 6 3) (fld w 4 2) (fld w 1 3))
  else none

/-- The words of major opcode 0x29 (R139). -/
def decMaj29 (w : Nat) : Option Instr :=
  if seg w 0 1 = 0 ∧ seg w 5 4 = 0 then
    some (.atomAdd (flag w 31) (fld w 21 4) (fld w 15 6) (fld w 9 6) (fld w 4 1) (fld w 1 3))
  else if seg w 0 1 = 0 ∧ seg w 5 4 = 1 then
    some (.atomMins (flag w 31) (fld w 21 4) (fld w 15 6) (fld w 9 6) (fld w 4 1) (fld w 1 3))
  else if seg w 0 1 = 0 ∧ seg w 5 4 = 2 then
    some (.atomMaxs (flag w 31) (fld w 21 4) (fld w 15 6) (fld w 9 6) (fld w 4 1) (fld w 1 3))
  else if seg w 0 1 = 0 ∧ seg w 5 4 = 3 then
    some (.atomMinu (flag w 31) (fld w 21 4) (fld w 15 6) (fld w 9 6) (fld w 4 1) (fld w 1 3))
  else if seg w 0 1 = 0 ∧ seg w 5 4 = 4 then
    some (.atomMaxu (flag w 31) (fld w 21 4) (fld w 15 6) (fld w 9 6) (fld w 4 1) (fld w 1 3))
  else if seg w 0 1 = 0 ∧ seg w 5 4 = 5 then
    some (.atomAnd (flag w 31) (fld w 21 4) (fld w 15 6) (fld w 9 6) (fld w 4 1) (fld w 1 3))
  else if seg w 0 1 = 0 ∧ seg w 5 4 = 6 then
    some (.atomOr (flag w 31) (fld w 21 4) (fld w 15 6) (fld w 9 6) (fld w 4 1) (fld w 1 3))
  else if seg w 0 1 = 0 ∧ seg w 5 4 = 7 then
    some (.atomXor (flag w 31) (fld w 21 4) (fld w 15 6) (fld w 9 6) (fld w 4 1) (fld w 1 3))
  else if seg w 0 1 = 0 ∧ seg w 5 4 = 8 then
    some (.atomXchg (flag w 31) (fld w 21 4) (fld w 15 6) (fld w 9 6) (fld w 4 1) (fld w 1 3))
  else if seg w 0 1 = 0 ∧ seg w 5 4 = 9 then
    some (.atomCas (flag w 31) (fld w 21 4) (fld w 15 6) (fld w 9 6) (fld w 4 1) (fld w 1 3))
  else if seg w 0 1 = 0 ∧ seg w 4 5 = 20 then
    some (.atomFadd (flag w 31) (fld w 21 4) (fld w 15 6) (fld w 9 6) (fld w 1 3))
  else if seg w 0 1 = 0 ∧ seg w 4 5 = 22 then
    some (.atomFmin (flag w 31) (fld w 21 4) (fld w 15 6) (fld w 9 6) (fld w 1 3))
  else if seg w 0 1 = 0 ∧ seg w 4 5 = 24 then
    some (.atomFmax (flag w 31) (fld w 21 4) (fld w 15 6) (fld w 9 6) (fld w 1 3))
  else none

/-- The words of major opcode 0x2A (R139). -/
def decMaj2A (w : Nat) : Option Instr :=
  if seg w 6 15 = 0 then
    some (.fence (flag w 31) (fld w 21 4) (fld w 3 3) (fld w 0 3))
  else if seg w 12 3 = 1 then
    some (.seal (flag w 31) (fld w 21 4) (fld w 15 6) (fld w 6 6) (fld w 3 3) (fld w 0 3))
  else if seg w 12 3 = 2 then
    some (.unseal (flag w 31) (fld w 21 4) (fld w 15 6) (fld w 6 6) (fld w 3 3) (fld w 0 3))
  else if seg w 12 3 = 3 then
    some (.watch (flag w 31) (fld w 21 4) (fld w 15 6) (fld w 6 6) (fld w 3 3) (fld w 0 3))
  else none

/-- The words of major opcode 0x2B (R139). -/
def decMaj2B (w : Nat) : Option Instr :=
  if seg w 7 2 = 0 ∧ seg w 15 6 = 0 then
    some (.pf (flag w 31) (fld w 21 4) (fld w 9 6) (fld w 4 3) (fld w 0 4))
  else none

/-- The words of major opcode 0x2E (R139). -/
def decMaj2E (w : Nat) : Option Instr :=
  if seg w 7 2 = 0 ∧ seg w 15 6 = 0 then
    some (.shld (flag w 31) (fld w 21 4) (fld w 9 6) (fld w 4 3) (fld w 0 4))
  else if seg w 7 2 = 1 ∧ seg w 15 6 = 0 then
    some (.shst (flag w 31) (fld w 21 4) (fld w 9 6) (fld w 4 3) (fld w 0 4))
  else if seg w 7 2 = 2 ∧ seg w 13 2 = 0 then
    some (.shmod (flag w 31) (fld w 21 4) (fld w 15 6) (fld w 9 4) (fld w 4 3) (fld w 0 4))
  else none

/-- The words of major opcode 0x2F (R139). -/
def decMaj2F (w : Nat) : Option Instr :=
  if seg w 7 2 = 0 then
    some (.tcp (flag w 31) (fld w 21 4) (fld w 15 6) (fld w 9 6) (fld w 4 3) (fld w 0 4))
  else if seg w 7 2 = 1 then
    some (.tcpRed (flag w 31) (fld w 21 4) (fld w 15 6) (fld w 9 6) (fld w 4 3) (fld w 0 4))
  else if seg w 7 2 = 2 then
    some (.tcpPost (flag w 31) (fld w 21 4) (fld w 15 6) (fld w 9 6) (fld w 4 3) (fld w 0 4))
  else none

/-- The words of major opcode 0x30 (R139). -/
def decMaj30 (w : Nat) : Option Instr :=
  if seg w 7 2 = 0 ∧ seg w 21 4 = 0 then
    some (.ctrAdd (flag w 31) (fld w 15 6) (fld w 9 6) (fld w 4 3) (fld w 0 4))
  else if seg w 7 2 = 1 ∧ seg w 21 4 = 0 then
    some (.ctrLd (flag w 31) (fld w 15 6) (fld w 9 6) (fld w 4 3) (fld w 0 4))
  else if seg w 7 2 = 2 ∧ seg w 21 4 = 0 then
    some (.ringArm (flag w 31) (fld w 15 6) (fld w 9 6) (fld w 4 3) (fld w 0 4))
  else none

/-- The words of major opcode 0x31 (R139). -/
def decMaj31 (w : Nat) : Option Instr :=
  if seg w 7 8 = 0 then
    some (.mma (flag w 31) (fld w 21 4) (fld w 20 1) (fld w 19 1) (fld w 15 4) (fld w 4 3) (fld w 0 4))
  else if seg w 7 2 = 1 then
    some (.mmaGather (flag w 31) (fld w 21 4) (fld w 20 1) (fld w 19 1) (fld w 15 4) (fld w 9 6) (fld w 4 3) (fld w 0 4))
  else none

/-- The words of major opcode 0x32 (R139). -/
def decMaj32 (w : Nat) : Option Instr :=
  if seg w 7 8 = 0 ∧ seg w 16 9 = 0 then
    some (.accClr (flag w 31) (fld w 15 1) (fld w 4 3) (fld w 0 4))
  else if seg w 7 2 = 1 ∧ seg w 16 5 = 0 then
    some (.accLd (flag w 31) (fld w 21 4) (fld w 15 1) (fld w 9 6) (fld w 4 3) (fld w 0 4))
  else if seg w 7 2 = 2 ∧ seg w 16 5 = 0 then
    some (.accSt (flag w 31) (fld w 21 4) (fld w 15 1) (fld w 9 6) (fld w 4 3) (fld w 0 4))
  else none

/-- The words of major opcode 0x33 (R139). -/
def decMaj33 (w : Nat) : Option Instr :=
  if seg w 7 2 = 0 ∧ seg w 22 3 = 0 then
    some (.gsend (flag w 31) (fld w 21 1) (fld w 15 6) (fld w 9 6) (fld w 4 3) (fld w 0 4))
  else none

/-- The words of major opcode 0x34 (R139). -/
def decMaj34 (w : Nat) : Option Instr :=
  if seg w 7 2 = 0 ∧ seg w 13 2 = 0 ∧ seg w 22 3 = 0 then
    some (.qfence (flag w 31) (fld w 21 1) (fld w 15 6) (fld w 9 4) (fld w 4 3) (fld w 0 4))
  else none

/-- The words of major opcode 0x36 (R139). -/
def decMaj36 (w : Nat) : Option Instr :=
  some (.br (fld w 21 4) (fld w 0 21))

/-- The words of major opcode 0x37 (R139). -/
def decMaj37 (w : Nat) : Option Instr :=
  some (.call (fld w 21 4) (fld w 0 21))

/-- The words of major opcode 0x38 (R139). -/
def decMaj38 (w : Nat) : Option Instr :=
  if seg w 0 9 = 0 ∧ seg w 15 6 = 0 then
    some (.jmp (fld w 21 4) (fld w 9 6))
  else if seg w 0 9 = 1 ∧ seg w 15 6 = 0 then
    some (.jmpl (fld w 21 4) (fld w 9 6))
  else if seg w 0 21 = 2 then
    some (.reconv (fld w 21 4))
  else if seg w 0 9 = 3 then
    some (.kget (flag w 31) (fld w 21 4) (fld w 15 6) (fld w 9 6))
  else if seg w 0 9 = 4 then
    some (.kset (flag w 31) (fld w 21 4) (fld w 15 6) (fld w 9 6))
  else none

/-- The words of major opcode 0x39 (R139). -/
def decMaj39 (w : Nat) : Option Instr :=
  if seg w 0 3 = 0 ∧ seg w 6 3 = 0 ∧ seg w 12 3 = 0 ∧ seg w 18 3 = 0 then
    some (.pand (flag w 31) (fld w 21 4) (fld w 15 3) (fld w 9 3) (fld w 3 3))
  else if seg w 0 3 = 1 ∧ seg w 6 3 = 0 ∧ seg w 12 3 = 0 ∧ seg w 18 3 = 0 then
    some (.por (flag w 31) (fld w 21 4) (fld w 15 3) (fld w 9 3) (fld w 3 3))
  else if seg w 0 3 = 2 ∧ seg w 6 3 = 0 ∧ seg w 12 3 = 0 ∧ seg w 18 3 = 0 then
    some (.pxor (flag w 31) (fld w 21 4) (fld w 15 3) (fld w 9 3) (fld w 3 3))
  else if seg w 0 3 = 3 ∧ seg w 6 3 = 0 ∧ seg w 12 3 = 0 ∧ seg w 18 3 = 0 then
    some (.pandn (flag w 31) (fld w 21 4) (fld w 15 3) (fld w 9 3) (fld w 3 3))
  else if seg w 0 9 = 4 ∧ seg w 18 3 = 0 then
    some (.pnez (flag w 31) (fld w 21 4) (fld w 15 3) (fld w 9 6))
  else if seg w 0 15 = 5 then
    some (.pget (flag w 31) (fld w 21 4) (fld w 15 6))
  else if seg w 0 9 = 6 ∧ seg w 15 6 = 0 then
    some (.pset (flag w 31) (fld w 21 4) (fld w 9 6))
  else none

/-- The words of major opcode 0x3A (R139). -/
def decMaj3A (w : Nat) : Option Instr :=
  if seg w 0 1 = 0 ∧ seg w 4 1 = 0 ∧ seg w 12 3 = 0 then
    some (.cmLd (flag w 31) (fld w 21 4) (fld w 15 6) (fld w 6 6) (fld w 5 1) (fld w 1 3))
  else if seg w 12 3 = 1 then
    some (.cmSt (flag w 31) (fld w 21 4) (fld w 15 6) (fld w 6 6) (fld w 5 1) (fld w 4 1) (fld w 1 3) (fld w 0 1))
  else if seg w 12 3 = 2 then
    some (.cmAdd (flag w 31) (fld w 21 4) (fld w 15 6) (fld w 6 6) (fld w 5 1) (fld w 4 1) (fld w 1 3) (fld w 0 1))
  else if seg w 5 1 = 1 ∧ seg w 12 3 = 3 then
    some (.cmClaim (flag w 31) (fld w 21 4) (fld w 15 6) (fld w 6 6) (fld w 4 1) (fld w 1 3) (fld w 0 1))
  else if seg w 0 1 = 0 ∧ seg w 4 1 = 0 ∧ seg w 12 3 = 4 then
    some (.cmWait (flag w 31) (fld w 21 4) (fld w 15 6) (fld w 6 6) (fld w 5 1) (fld w 1 3))
  else if seg w 0 1 = 0 ∧ seg w 4 11 = 1282 then
    some (.cmLsn (flag w 31) (fld w 21 4) (fld w 15 6) (fld w 1 3))
  else if seg w 5 1 = 1 ∧ seg w 12 3 = 6 then
    some (.cmLaunch (flag w 31) (fld w 21 4) (fld w 15 6) (fld w 6 6) (fld w 4 1) (fld w 1 3) (fld w 0 1))
  else if seg w 5 1 = 1 ∧ seg w 12 3 = 7 then
    some (.cmPte (flag w 31) (fld w 21 4) (fld w 15 6) (fld w 6 6) (fld w 4 1) (fld w 1 3) (fld w 0 1))
  else none

/-- The words of major opcode 0x3B (R139). -/
def decMaj3B (w : Nat) : Option Instr :=
  if seg w 0 1 = 0 ∧ seg w 4 4 = 0 ∧ seg w 14 7 = 0 then
    some (.fenceSeq (flag w 31) (fld w 21 4) (fld w 8 6) (fld w 1 3))
  else if seg w 0 1 = 0 ∧ seg w 4 4 = 0 ∧ seg w 14 7 = 1 then
    some (.fenceSeqAll (flag w 31) (fld w 21 4) (fld w 8 6) (fld w 1 3))
  else none

/-- The words of major opcode 0x3C (R139). -/
def decMaj3C (w : Nat) : Option Instr :=
  if seg w 0 9 = 0 ∧ seg w 12 3 = 0 then
    some (.exit (fld w 21 4) (fld w 15 6) (fld w 9 3))
  else if seg w 0 25 = 14684160 then
    some .safept
  else if seg w 0 10 = 0 ∧ seg w 12 3 = 2 then
    some (.vinfo (flag w 31) (fld w 21 4) (fld w 15 6) (fld w 10 2))
  else none

/-- The words of major opcode 0x3D (R139). -/
def decMaj3D (w : Nat) : Option Instr :=
  if seg w 8 13 = 48 then
    some (.wait (fld w 21 4) (fld w 0 8))
  else if seg w 0 6 = 0 ∧ seg w 12 9 = 4 then
    some (.sleepUntil (fld w 21 4) (fld w 6 6))
  else if seg w 0 5 = 0 ∧ seg w 12 9 = 0 then
    some (.barArrive (fld w 21 4) (fld w 9 3) (fld w 5 4))
  else if seg w 0 5 = 0 ∧ seg w 12 9 = 1 then
    some (.barWait (fld w 21 4) (fld w 9 3) (fld w 5 4))
  else if seg w 0 5 = 0 ∧ seg w 12 3 = 2 then
    some (.barArriveExp (fld w 21 4) (fld w 15 6) (fld w 9 3) (fld w 5 4))
  else none

/-- The words of major opcode 0x3E (R139). -/
def decMaj3E (w : Nat) : Option Instr :=
  if seg w 9 12 = 0 then
    some (.trap (fld w 21 4) (fld w 0 9))
  else if seg w 9 12 = 1 then
    some (.sysc (fld w 21 4) (fld w 0 9))
  else if seg w 9 12 = 2 then
    some (.brk (fld w 21 4) (fld w 0 9))
  else if seg w 0 21 = 1536 then
    some (.rti (fld w 21 4))
  else if seg w 9 6 = 4 then
    some (.rdsr (flag w 31) (fld w 21 4) (fld w 15 6) (fld w 0 9))
  else if seg w 9 6 = 5 then
    some (.wrsr (flag w 31) (fld w 21 4) (fld w 15 6) (fld w 0 9))
  else if seg w 0 15 = 3072 then
    some (.rdclk (flag w 31) (fld w 21 4) (fld w 15 6))
  else if seg w 9 6 = 7 then
    some (.dcwb (flag w 31) (fld w 21 4) (fld w 15 6) (fld w 0 9))
  else if seg w 9 6 = 8 then
    some (.icinv (flag w 31) (fld w 21 4) (fld w 15 6) (fld w 0 9))
  else if seg w 0 21 = 4608 then
    some (.fbar (fld w 21 4))
  else if seg w 6 9 = 80 then
    some (.qbind (flag w 31) (fld w 21 4) (fld w 15 6) (fld w 0 6))
  else if seg w 6 15 = 88 then
    some (.qunbind (flag w 31) (fld w 21 4) (fld w 0 6))
  else if seg w 7 8 = 48 then
    some (.gbind (flag w 31) (fld w 21 4) (fld w 15 6) (fld w 6 1) (fld w 0 6))
  else if seg w 7 14 = 52 then
    some (.gunbind (flag w 31) (fld w 21 4) (fld w 6 1) (fld w 0 6))
  else none

/-- The instruction a word names by its opcode bits, before the register checks (R139); none is a reserved encoding. -/
def selectWord (w : Nat) : Option Instr :=
  match seg w 25 6 with
  | 0 => decMaj00 w
  | 1 => decMaj01 w
  | 2 => decMaj02 w
  | 3 => decMaj03 w
  | 4 => decMaj04 w
  | 5 => decMaj05 w
  | 6 => decMaj06 w
  | 7 => decMaj07 w
  | 8 => decMaj08 w
  | 9 => decMaj09 w
  | 10 => decMaj0A w
  | 11 => decMaj0B w
  | 12 => decMaj0C w
  | 13 => decMaj0D w
  | 14 => decMaj0E w
  | 15 => decMaj0F w
  | 16 => decMaj10 w
  | 17 => decMaj11 w
  | 18 => decMaj12 w
  | 19 => decMaj13 w
  | 20 => decMaj14 w
  | 21 => decMaj15 w
  | 22 => decMaj16 w
  | 23 => decMaj17 w
  | 24 => decMaj18 w
  | 25 => decMaj19 w
  | 26 => decMaj1A w
  | 27 => decMaj1B w
  | 28 => decMaj1C w
  | 29 => decMaj1D w
  | 30 => decMaj1E w
  | 31 => decMaj1F w
  | 32 => decMaj20 w
  | 33 => decMaj21 w
  | 36 => decMaj24 w
  | 37 => decMaj25 w
  | 38 => decMaj26 w
  | 39 => decMaj27 w
  | 40 => decMaj28 w
  | 41 => decMaj29 w
  | 42 => decMaj2A w
  | 43 => decMaj2B w
  | 46 => decMaj2E w
  | 47 => decMaj2F w
  | 48 => decMaj30 w
  | 49 => decMaj31 w
  | 50 => decMaj32 w
  | 51 => decMaj33 w
  | 52 => decMaj34 w
  | 54 => decMaj36 w
  | 55 => decMaj37 w
  | 56 => decMaj38 w
  | 57 => decMaj39 w
  | 58 => decMaj3A w
  | 59 => decMaj3B w
  | 60 => decMaj3C w
  | 61 => decMaj3D w
  | 62 => decMaj3E w
  | _ => none

/-- Words whose C bit must be 0: the control-transfer and stand-alone words (R131 rules 4 and 5). -/
def Instr.mustNotChain : Instr → Bool
  | .nop _ _ => false
  | .yield _ _ => false
  | .add _ _ _ _ _ => false
  | .sub _ _ _ _ _ => false
  | .mul _ _ _ _ _ => false
  | .mulhs _ _ _ _ _ => false
  | .mulhu _ _ _ _ _ => false
  | .mins _ _ _ _ _ => false
  | .maxs _ _ _ _ _ => false
  | .adds _ _ _ _ _ => false
  | .and _ _ _ _ _ => false
  | .or _ _ _ _ _ => false
  | .xor _ _ _ _ _ => false
  | .andn _ _ _ _ _ => false
  | .orn _ _ _ _ _ => false
  | .xnor _ _ _ _ _ => false
  | .minu _ _ _ _ _ => false
  | .maxu _ _ _ _ _ => false
  | .shl _ _ _ _ _ => false
  | .shr _ _ _ _ _ => false
  | .sar _ _ _ _ _ => false
  | .rol _ _ _ _ _ => false
  | .ror _ _ _ _ _ => false
  | .clz _ _ _ _ => false
  | .popc _ _ _ _ => false
  | .brev _ _ _ _ => false
  | .cmpEq _ _ _ _ _ => false
  | .cmpNe _ _ _ _ _ => false
  | .cmpLt _ _ _ _ _ => false
  | .cmpLe _ _ _ _ _ => false
  | .cmpLtu _ _ _ _ _ => false
  | .cmpLeu _ _ _ _ _ => false
  | .cmpTst _ _ _ _ _ => false
  | .addi _ _ _ _ _ => false
  | .andi _ _ _ _ _ => false
  | .ori _ _ _ _ _ => false
  | .xori _ _ _ _ _ => false
  | .shli _ _ _ _ _ => false
  | .shri _ _ _ _ _ => false
  | .sari _ _ _ _ _ => false
  | .movi _ _ _ _ => false
  | .movsh _ _ _ _ => false
  | .add64 _ _ _ _ _ => false
  | .sub64 _ _ _ _ _ => false
  | .addsx64 _ _ _ _ _ => false
  | .addzx64 _ _ _ _ _ => false
  | .shl64 _ _ _ _ _ => false
  | .shr64 _ _ _ _ _ => false
  | .sar64 _ _ _ _ _ => false
  | .mul64 _ _ _ _ _ => false
  | .adr _ _ _ _ => false
  | .fadd _ _ _ _ _ _ => false
  | .fsub _ _ _ _ _ _ => false
  | .fmul _ _ _ _ _ _ => false
  | .ffma _ _ _ _ _ _ => false
  | .ffms _ _ _ _ _ _ => false
  | .fnma _ _ _ _ _ _ => false
  | .haddBf16x2 _ _ _ _ _ _ => false
  | .hmulBf16x2 _ _ _ _ _ _ => false
  | .hfmaBf16x2 _ _ _ _ _ _ => false
  | .fdot2Bf16 _ _ _ _ _ _ => false
  | .fmin _ _ _ _ _ => false
  | .fmax _ _ _ _ _ => false
  | .fabs _ _ _ _ => false
  | .fneg _ _ _ _ => false
  | .fcopysign _ _ _ _ _ => false
  | .fclass _ _ _ _ => false
  | .fcmpEq _ _ _ _ _ => false
  | .fcmpNe _ _ _ _ _ => false
  | .fcmpLt _ _ _ _ _ => false
  | .fcmpLe _ _ _ _ _ => false
  | .fcmpUn _ _ _ _ _ => false
  | .fscale _ _ _ _ _ _ => false
  | .frint _ _ _ _ _ => false
  | .cvtBf16F32 _ _ _ _ _ => false
  | .cvtF32Bf16 _ _ _ _ _ => false
  | .cvtE4m3F32 _ _ _ _ _ => false
  | .cvtF32E4m3 _ _ _ _ _ => false
  | .cvtI32F32 _ _ _ _ _ => false
  | .cvtN32F32 _ _ _ _ _ => false
  | .cvtF32I32 _ _ _ _ _ => false
  | .cvtF32N32 _ _ _ _ _ => false
  | .cvtI16I32 _ _ _ _ _ => false
  | .cvtI8I32 _ _ _ _ _ => false
  | .cvtN16N32 _ _ _ _ _ => false
  | .cvtN8N32 _ _ _ _ _ => false
  | .shfl _ _ _ _ _ => false
  | .shflUp _ _ _ _ _ => false
  | .shflDown _ _ _ _ _ => false
  | .shflXor _ _ _ _ _ => false
  | .ballot _ _ _ _ => false
  | .rcp _ _ _ _ => false
  | .rsqrt _ _ _ _ => false
  | .sqrt _ _ _ _ => false
  | .exp2 _ _ _ _ => false
  | .log2 _ _ _ _ => false
  | .sinpi _ _ _ _ => false
  | .cospi _ _ _ _ => false
  | .tanh _ _ _ _ => false
  | .div _ _ _ _ _ => false
  | .divu _ _ _ _ _ => false
  | .rem _ _ _ _ _ => false
  | .remu _ _ _ _ _ => false
  | .fdiv _ _ _ _ _ => false
  | .rand _ _ _ => false
  | .ld _ _ _ _ _ _ _ => false
  | .lds _ _ _ _ _ _ _ => false
  | .st _ _ _ _ _ _ _ => false
  | .ldRo _ _ _ _ _ _ _ => false
  | .ldAcq _ _ _ _ _ _ _ => false
  | .stRel _ _ _ _ _ _ _ => false
  | .pf _ _ _ _ _ => false
  | .atomAdd _ _ _ _ _ _ => false
  | .atomMins _ _ _ _ _ _ => false
  | .atomMaxs _ _ _ _ _ _ => false
  | .atomMinu _ _ _ _ _ _ => false
  | .atomMaxu _ _ _ _ _ _ => false
  | .atomAnd _ _ _ _ _ _ => false
  | .atomOr _ _ _ _ _ _ => false
  | .atomXor _ _ _ _ _ _ => false
  | .atomXchg _ _ _ _ _ _ => false
  | .atomCas _ _ _ _ _ _ => false
  | .atomFadd _ _ _ _ _ => false
  | .atomFmin _ _ _ _ _ => false
  | .atomFmax _ _ _ _ _ => false
  | .fence _ _ _ _ => false
  | .seal _ _ _ _ _ _ => false
  | .unseal _ _ _ _ _ _ => false
  | .watch _ _ _ _ _ _ => false
  | .wait _ _ => true
  | .sleepUntil _ _ => true
  | .barArrive _ _ _ => true
  | .barWait _ _ _ => true
  | .barArriveExp _ _ _ _ => true
  | .cmLd _ _ _ _ _ _ => false
  | .cmSt _ _ _ _ _ _ _ _ => false
  | .cmAdd _ _ _ _ _ _ _ _ => false
  | .cmClaim _ _ _ _ _ _ _ => false
  | .cmWait _ _ _ _ _ _ => false
  | .cmLsn _ _ _ _ => false
  | .cmLaunch _ _ _ _ _ _ _ => false
  | .cmPte _ _ _ _ _ _ _ => false
  | .fenceSeq _ _ _ _ => false
  | .fenceSeqAll _ _ _ _ => false
  | .shld _ _ _ _ _ => false
  | .shst _ _ _ _ _ => false
  | .shmod _ _ _ _ _ _ => false
  | .tcp _ _ _ _ _ _ => false
  | .tcpRed _ _ _ _ _ _ => false
  | .tcpPost _ _ _ _ _ _ => false
  | .ctrAdd _ _ _ _ _ => false
  | .ctrLd _ _ _ _ _ => false
  | .ringArm _ _ _ _ _ => false
  | .mma _ _ _ _ _ _ _ => false
  | .mmaGather _ _ _ _ _ _ _ _ => false
  | .accClr _ _ _ _ => false
  | .accLd _ _ _ _ _ _ => false
  | .accSt _ _ _ _ _ _ => false
  | .gsend _ _ _ _ _ _ => false
  | .qfence _ _ _ _ _ _ => false
  | .br _ _ => true
  | .call _ _ => true
  | .jmp _ _ => true
  | .jmpl _ _ => true
  | .reconv _ => true
  | .kget _ _ _ _ => false
  | .kset _ _ _ _ => false
  | .pand _ _ _ _ _ => false
  | .por _ _ _ _ _ => false
  | .pxor _ _ _ _ _ => false
  | .pandn _ _ _ _ _ => false
  | .pnez _ _ _ _ => false
  | .pget _ _ _ => false
  | .pset _ _ _ => false
  | .exit _ _ _ => true
  | .safept => true
  | .vinfo _ _ _ _ => false
  | .trap _ _ => true
  | .sysc _ _ => true
  | .brk _ _ => true
  | .rti _ => true
  | .rdsr _ _ _ _ => false
  | .wrsr _ _ _ _ => false
  | .rdclk _ _ _ => false
  | .dcwb _ _ _ _ => false
  | .icinv _ _ _ _ => false
  | .fbar _ => true
  | .qbind _ _ _ _ => false
  | .qunbind _ _ _ => false
  | .gbind _ _ _ _ _ => false
  | .gunbind _ _ _ _ => false
  | .fetchFault => true
  | .sqTail _ _ => true
  | .queuePick _ => true
  | .commandComplete _ => true
  | .dispatch _ => true
  | .steal _ _ => true
  | .slotRelease _ => true
  | .issueSelect _ _ => true
  | .eftResume _ _ _ => true
  | .reconvRelease _ _ => true
  | .sleepWake _ _ _ => true
  | .barrierArrival _ _ _ => true
  | .barrierSpillArrival _ _ _ => true
  | .tokenClear _ _ _ => true
  | .storeArrival _ => true
  | .leaseLapse _ => true
  | .versionCurrent _ => true
  | .lineFetch _ _ _ => true
  | .atomicRequest _ => true
  | .watchTimeout _ => true
  | .taskFinish _ _ => true
  | .contributionArrive _ => true
  | .rootMerge _ => true
  | .preemptionRequest _ => true
  | .copyIssueStop _ => true
  | .contextSave _ => true
  | .forcedSave _ => true
  | .balanceRefill => true
  | .energyCharge _ _ => true
  | .governorStep => true
  | .entryTake _ _ => true
  | .entryRetire _ => true
  | .entryStall _ _ => true
  | .cntIncrement _ => true
  | .triggerSlotFree _ _ => true
  | .promiseRevision _ _ => true
  | .windowPost _ => true
  | .contributionCombine _ _ => true
  | .contributionRetry _ => true
  | .matrixStep _ => true
  | .matrixQueueStall _ => true
  | .storeRecord => true
  | .addRecord => true
  | .claimRecord => true
  | .launchRecord => true
  | .pteRecord => true
  | .part => true
  | .sysst => true
  | .keyroll => true
  | .recordArrival _ _ _ _ => true
  | .recordReturn _ => true
  | .tokenArrival _ _ _ _ _ _ _ => true
  | .tokenLossTimeout => true
  | .probe _ => true
  | .recordRepair _ _ _ _ _ => true
  | .recordVoid _ => true
  | .applyStall => true
  | .bypass _ => true
  | .join _ => true
  | .snapshotCopy _ _ => true
  | .loopstart _ => true
  | .loopgo => true
  | .setowners _ _ _ => true
  | .setroute _ _ _ _ => true
  | .portdrain _ => true
  | .portup _ => true
  | .setppt _ _ _ => true
  | .keyload _ _ => true
  | .resync _ => true
  | .fabricPacket _ _ _ _ _ _ _ _ => true
  | .packetResend _ => true
  | .portDown _ => true
  | .routeStall _ => true
  | .ownerreject _ _ => true
  | .remoteAccessFailed _ _ => true
  | .windowRequest _ => true
  | .winOpen _ => true
  | .winRevoke _ => true
  | .windowClose _ => true
  | .hbqTail _ _ => true
  | .fresume _ _ => true
  | .vpgrow _ _ => true
  | .ltinval _ _ => true
  | .ltinvalComplete => true
  | .sockreset _ => true
  | .lotseed _ => true
  | .serviceRegisterWrite _ _ _ _ => true
  | .capabilityRecord _ _ _ _ _ _ => true
  | .packetPull _ _ _ _ => true
  | .bindack _ _ => true
  | .qstate _ _ _ _ _ _ => true
  | .invack _ _ => true
  | .guestFault _ _ _ _ _ => true
  | .guestRead _ _ _ => true
  | .ownershipRequest _ _ _ => true
  | .writeBack _ _ _ _ _ _ => true
  | .recallAnswer _ _ _ _ => true
  | .guestAtomic _ _ _ _ _ _ _ => true
  | .translationRequest _ _ _ _ => true
  | .guestDutyTimeout _ _ => true
  | .linkRetrain _ _ => true
  | .hostSnoop _ _ => true
  | .cxlMemAccess _ _ _ _ => true
  | .atsInvalidation _ _ => true
  | .atsTimeout _ => true
  | .hostLinkError _ _ => true
  | .tdiLeaveRun _ => true
  | .attestationRequest _ => true
  | .softError _ _ _ _ => true
  | .hbmFailure _ _ _ => true
  | .readyBitRise _ => true
  | .liveUpdate _ _ _ _ => true
  | .watchdogFailover => true
  | .moduleReset => true
  | .mergeWindowHoldEnd _ => true
  | .drain _ _ => true
  | .discard _ => true
  | .tdispRequest _ _ _ _ => true
  | .hostSync => true
  | .managementRecord _ _ _ => true
  | .mirrorPeriodEnd => true

/-- What a 32-bit word is: an instruction, or no instruction with the lowest condition of R314 it meets. -/
inductive Decoded where
  | instr (i : Instr)
  | reject (f : DecodeFault)
  deriving DecidableEq, Repr

/-- Decoding of one word (R314): the reserved encodings first, then the guard, the registers, the ports, and the
chain bit of a word that must not carry it. -/
def decodeWord (w : Nat) : Decoded :=
  match selectWord w with
  | none => .reject .reservedEncoding
  | some i =>
    match i.illegal with
    | some f => .reject f
    | none => if i.mustNotChain && flag w 31 then .reject .chainViolation else .instr i

/-- The number a list of bytes holds, the first byte lowest (R4). -/
def leValue : List (BitVec 8) → Nat
  | [] => 0
  | b :: rest => b.toNat + 256 * leValue rest

/-- The n bytes of a number, the lowest first (R4). -/
def leBytes : Nat → Nat → List (BitVec 8)
  | 0, _ => []
  | n + 1, v => BitVec.ofNat 8 v :: leBytes n (v / 256)

/-- Decoding of a byte string: the first four bytes are one word (R126), the rest is returned. Too few bytes are
no word. -/
def decodeBytes : List (BitVec 8) → Option (Decoded × List (BitVec 8))
  | b0 :: b1 :: b2 :: b3 :: rest => some (decodeWord (leValue [b0, b1, b2, b3]), rest)
  | _ => none

/-- The decoder's answer for an opcode-table row's word, laid out as the hardware stores it. -/
def decodeTableWord (nbits w : Nat) : Option Instr :=
  if nbits = 0 ∨ 32 < nbits ∨ 2 ^ 32 ≤ w then none
  else match decodeBytes (leBytes 4 w) with
    | some (.instr i, _) => some i
    | _ => none

/-- The word of a well-formed instruction (R132, R139, R140); 0 for a machine step, which has no word. -/
def encode : Instr → Nat
  | .nop c g => 0 + c.toNat * 2147483648 + g.toNat * 2097152
  | .yield c g => 1 + c.toNat * 2147483648 + g.toNat * 2097152
  | .add c g d a b => 33554432 + c.toNat * 2147483648 + g.toNat * 2097152 + d.toNat * 32768 + a.toNat * 512 + b.toNat * 8
  | .sub c g d a b => 33554433 + c.toNat * 2147483648 + g.toNat * 2097152 + d.toNat * 32768 + a.toNat * 512 + b.toNat * 8
  | .mul c g d a b => 33554434 + c.toNat * 2147483648 + g.toNat * 2097152 + d.toNat * 32768 + a.toNat * 512 + b.toNat * 8
  | .mulhs c g d a b => 33554435 + c.toNat * 2147483648 + g.toNat * 2097152 + d.toNat * 32768 + a.toNat * 512 + b.toNat * 8
  | .mulhu c g d a b => 33554436 + c.toNat * 2147483648 + g.toNat * 2097152 + d.toNat * 32768 + a.toNat * 512 + b.toNat * 8
  | .mins c g d a b => 33554437 + c.toNat * 2147483648 + g.toNat * 2097152 + d.toNat * 32768 + a.toNat * 512 + b.toNat * 8
  | .maxs c g d a b => 33554438 + c.toNat * 2147483648 + g.toNat * 2097152 + d.toNat * 32768 + a.toNat * 512 + b.toNat * 8
  | .adds c g d a b => 33554439 + c.toNat * 2147483648 + g.toNat * 2097152 + d.toNat * 32768 + a.toNat * 512 + b.toNat * 8
  | .and c g d a b => 67108864 + c.toNat * 2147483648 + g.toNat * 2097152 + d.toNat * 32768 + a.toNat * 512 + b.toNat * 8
  | .or c g d a b => 67108865 + c.toNat * 2147483648 + g.toNat * 2097152 + d.toNat * 32768 + a.toNat * 512 + b.toNat * 8
  | .xor c g d a b => 67108866 + c.toNat * 2147483648 + g.toNat * 2097152 + d.toNat * 32768 + a.toNat * 512 + b.toNat * 8
  | .andn c g d a b => 67108867 + c.toNat * 2147483648 + g.toNat * 2097152 + d.toNat * 32768 + a.toNat * 512 + b.toNat * 8
  | .orn c g d a b => 67108868 + c.toNat * 2147483648 + g.toNat * 2097152 + d.toNat * 32768 + a.toNat * 512 + b.toNat * 8
  | .xnor c g d a b => 67108869 + c.toNat * 2147483648 + g.toNat * 2097152 + d.toNat * 32768 + a.toNat * 512 + b.toNat * 8
  | .minu c g d a b => 67108870 + c.toNat * 2147483648 + g.toNat * 2097152 + d.toNat * 32768 + a.toNat * 512 + b.toNat * 8
  | .maxu c g d a b => 67108871 + c.toNat * 2147483648 + g.toNat * 2097152 + d.toNat * 32768 + a.toNat * 512 + b.toNat * 8
  | .shl c g d a b => 100663296 + c.toNat * 2147483648 + g.toNat * 2097152 + d.toNat * 32768 + a.toNat * 512 + b.toNat * 8
  | .shr c g d a b => 100663297 + c.toNat * 2147483648 + g.toNat * 2097152 + d.toNat * 32768 + a.toNat * 512 + b.toNat * 8
  | .sar c g d a b => 100663298 + c.toNat * 2147483648 + g.toNat * 2097152 + d.toNat * 32768 + a.toNat * 512 + b.toNat * 8
  | .rol c g d a b => 100663299 + c.toNat * 2147483648 + g.toNat * 2097152 + d.toNat * 32768 + a.toNat * 512 + b.toNat * 8
  | .ror c g d a b => 100663300 + c.toNat * 2147483648 + g.toNat * 2097152 + d.toNat * 32768 + a.toNat * 512 + b.toNat * 8
  | .clz c g d a => 100663301 + c.toNat * 2147483648 + g.toNat * 2097152 + d.toNat * 32768 + a.toNat * 512
  | .popc c g d a => 100663302 + c.toNat * 2147483648 + g.toNat * 2097152 + d.toNat * 32768 + a.toNat * 512
  | .brev c g d a => 100663303 + c.toNat * 2147483648 + g.toNat * 2097152 + d.toNat * 32768 + a.toNat * 512
  | .cmpEq c g d a b => 134217728 + c.toNat * 2147483648 + g.toNat * 2097152 + d.toNat * 32768 + a.toNat * 512 + b.toNat * 8
  | .cmpNe c g d a b => 134217729 + c.toNat * 2147483648 + g.toNat * 2097152 + d.toNat * 32768 + a.toNat * 512 + b.toNat * 8
  | .cmpLt c g d a b => 134217730 + c.toNat * 2147483648 + g.toNat * 2097152 + d.toNat * 32768 + a.toNat * 512 + b.toNat * 8
  | .cmpLe c g d a b => 134217731 + c.toNat * 2147483648 + g.toNat * 2097152 + d.toNat * 32768 + a.toNat * 512 + b.toNat * 8
  | .cmpLtu c g d a b => 134217732 + c.toNat * 2147483648 + g.toNat * 2097152 + d.toNat * 32768 + a.toNat * 512 + b.toNat * 8
  | .cmpLeu c g d a b => 134217733 + c.toNat * 2147483648 + g.toNat * 2097152 + d.toNat * 32768 + a.toNat * 512 + b.toNat * 8
  | .cmpTst c g d a b => 134217734 + c.toNat * 2147483648 + g.toNat * 2097152 + d.toNat * 32768 + a.toNat * 512 + b.toNat * 8
  | .addi c g d a i => 167772160 + c.toNat * 2147483648 + g.toNat * 2097152 + d.toNat * 32768 + a.toNat * 512 + i.toNat
  | .andi c g d a i => 201326592 + c.toNat * 2147483648 + g.toNat * 2097152 + d.toNat * 32768 + a.toNat * 512 + i.toNat
  | .ori c g d a i => 234881024 + c.toNat * 2147483648 + g.toNat * 2097152 + d.toNat * 32768 + a.toNat * 512 + i.toNat
  | .xori c g d a i => 268435456 + c.toNat * 2147483648 + g.toNat * 2097152 + d.toNat * 32768 + a.toNat * 512 + i.toNat
  | .shli c g d a i => 301989888 + c.toNat * 2147483648 + g.toNat * 2097152 + d.toNat * 32768 + a.toNat * 512 + i.toNat
  | .shri c g d a i => 335544320 + c.toNat * 2147483648 + g.toNat * 2097152 + d.toNat * 32768 + a.toNat * 512 + i.toNat
  | .sari c g d a i => 369098752 + c.toNat * 2147483648 + g.toNat * 2097152 + d.toNat * 32768 + a.toNat * 512 + i.toNat
  | .movi c g d i => 402653184 + c.toNat * 2147483648 + g.toNat * 2097152 + d.toNat * 32768 + i.toNat
  | .movsh c g d i => 436207616 + c.toNat * 2147483648 + g.toNat * 2097152 + d.toNat * 32768 + i.toNat
  | .add64 c g d a b => 469762048 + c.toNat * 2147483648 + g.toNat * 2097152 + d.toNat * 32768 + a.toNat * 512 + b.toNat * 8
  | .sub64 c g d a b => 469762049 + c.toNat * 2147483648 + g.toNat * 2097152 + d.toNat * 32768 + a.toNat * 512 + b.toNat * 8
  | .addsx64 c g d a b => 469762050 + c.toNat * 2147483648 + g.toNat * 2097152 + d.toNat * 32768 + a.toNat * 512 + b.toNat * 8
  | .addzx64 c g d a b => 469762051 + c.toNat * 2147483648 + g.toNat * 2097152 + d.toNat * 32768 + a.toNat * 512 + b.toNat * 8
  | .shl64 c g d a b => 469762052 + c.toNat * 2147483648 + g.toNat * 2097152 + d.toNat * 32768 + a.toNat * 512 + b.toNat * 8
  | .shr64 c g d a b => 469762053 + c.toNat * 2147483648 + g.toNat * 2097152 + d.toNat * 32768 + a.toNat * 512 + b.toNat * 8
  | .sar64 c g d a b => 469762054 + c.toNat * 2147483648 + g.toNat * 2097152 + d.toNat * 32768 + a.toNat * 512 + b.toNat * 8
  | .mul64 c g d a b => 469762055 + c.toNat * 2147483648 + g.toNat * 2097152 + d.toNat * 32768 + a.toNat * 512 + b.toNat * 8
  | .adr c g d i => 503316480 + c.toNat * 2147483648 + g.toNat * 2097152 + d.toNat * 32768 + i.toNat
  | .fadd c g d a b r => 536870912 + c.toNat * 2147483648 + g.toNat * 2097152 + d.toNat * 32768 + a.toNat * 512 + b.toNat * 8 + r.toNat
  | .fsub c g d a b r => 570425344 + c.toNat * 2147483648 + g.toNat * 2097152 + d.toNat * 32768 + a.toNat * 512 + b.toNat * 8 + r.toNat
  | .fmul c g d a b r => 603979776 + c.toNat * 2147483648 + g.toNat * 2097152 + d.toNat * 32768 + a.toNat * 512 + b.toNat * 8 + r.toNat
  | .ffma c g d a b r => 637534208 + c.toNat * 2147483648 + g.toNat * 2097152 + d.toNat * 32768 + a.toNat * 512 + b.toNat * 8 + r.toNat
  | .ffms c g d a b r => 671088640 + c.toNat * 2147483648 + g.toNat * 2097152 + d.toNat * 32768 + a.toNat * 512 + b.toNat * 8 + r.toNat
  | .fnma c g d a b r => 704643072 + c.toNat * 2147483648 + g.toNat * 2097152 + d.toNat * 32768 + a.toNat * 512 + b.toNat * 8 + r.toNat
  | .haddBf16x2 c g d a b r => 738197504 + c.toNat * 2147483648 + g.toNat * 2097152 + d.toNat * 32768 + a.toNat * 512 + b.toNat * 8 + r.toNat
  | .hmulBf16x2 c g d a b r => 771751936 + c.toNat * 2147483648 + g.toNat * 2097152 + d.toNat * 32768 + a.toNat * 512 + b.toNat * 8 + r.toNat
  | .hfmaBf16x2 c g d a b r => 805306368 + c.toNat * 2147483648 + g.toNat * 2097152 + d.toNat * 32768 + a.toNat * 512 + b.toNat * 8 + r.toNat
  | .fdot2Bf16 c g d a b r => 973078528 + c.toNat * 2147483648 + g.toNat * 2097152 + d.toNat * 32768 + a.toNat * 512 + b.toNat * 8 + r.toNat
  | .fmin c g d a b => 838860800 + c.toNat * 2147483648 + g.toNat * 2097152 + d.toNat * 32768 + a.toNat * 512 + b.toNat * 8
  | .fmax c g d a b => 838860801 + c.toNat * 2147483648 + g.toNat * 2097152 + d.toNat * 32768 + a.toNat * 512 + b.toNat * 8
  | .fabs c g d a => 838860802 + c.toNat * 2147483648 + g.toNat * 2097152 + d.toNat * 32768 + a.toNat * 512
  | .fneg c g d a => 838860803 + c.toNat * 2147483648 + g.toNat * 2097152 + d.toNat * 32768 + a.toNat * 512
  | .fcopysign c g d a b => 838860804 + c.toNat * 2147483648 + g.toNat * 2097152 + d.toNat * 32768 + a.toNat * 512 + b.toNat * 8
  | .fclass c g d a => 838860805 + c.toNat * 2147483648 + g.toNat * 2097152 + d.toNat * 32768 + a.toNat * 512
  | .fcmpEq c g d a b => 872415232 + c.toNat * 2147483648 + g.toNat * 2097152 + d.toNat * 32768 + a.toNat * 512 + b.toNat * 8
  | .fcmpNe c g d a b => 872415233 + c.toNat * 2147483648 + g.toNat * 2097152 + d.toNat * 32768 + a.toNat * 512 + b.toNat * 8
  | .fcmpLt c g d a b => 872415234 + c.toNat * 2147483648 + g.toNat * 2097152 + d.toNat * 32768 + a.toNat * 512 + b.toNat * 8
  | .fcmpLe c g d a b => 872415235 + c.toNat * 2147483648 + g.toNat * 2097152 + d.toNat * 32768 + a.toNat * 512 + b.toNat * 8
  | .fcmpUn c g d a b => 872415236 + c.toNat * 2147483648 + g.toNat * 2097152 + d.toNat * 32768 + a.toNat * 512 + b.toNat * 8
  | .fscale c g d a b r => 905969664 + c.toNat * 2147483648 + g.toNat * 2097152 + d.toNat * 32768 + a.toNat * 512 + b.toNat * 8 + r.toNat
  | .frint c g d a r => 939524096 + c.toNat * 2147483648 + g.toNat * 2097152 + d.toNat * 32768 + a.toNat * 512 + r.toNat
  | .cvtBf16F32 c g d a r => 1006632960 + c.toNat * 2147483648 + g.toNat * 2097152 + d.toNat * 32768 + a.toNat * 512 + r.toNat
  | .cvtF32Bf16 c g d a r => 1006632968 + c.toNat * 2147483648 + g.toNat * 2097152 + d.toNat * 32768 + a.toNat * 512 + r.toNat
  | .cvtE4m3F32 c g d a r => 1006632976 + c.toNat * 2147483648 + g.toNat * 2097152 + d.toNat * 32768 + a.toNat * 512 + r.toNat
  | .cvtF32E4m3 c g d a r => 1006632984 + c.toNat * 2147483648 + g.toNat * 2097152 + d.toNat * 32768 + a.toNat * 512 + r.toNat
  | .cvtI32F32 c g d a r => 1006632992 + c.toNat * 2147483648 + g.toNat * 2097152 + d.toNat * 32768 + a.toNat * 512 + r.toNat
  | .cvtN32F32 c g d a r => 1006633000 + c.toNat * 2147483648 + g.toNat * 2097152 + d.toNat * 32768 + a.toNat * 512 + r.toNat
  | .cvtF32I32 c g d a r => 1006633008 + c.toNat * 2147483648 + g.toNat * 2097152 + d.toNat * 32768 + a.toNat * 512 + r.toNat
  | .cvtF32N32 c g d a r => 1006633016 + c.toNat * 2147483648 + g.toNat * 2097152 + d.toNat * 32768 + a.toNat * 512 + r.toNat
  | .cvtI16I32 c g d a r => 1006633024 + c.toNat * 2147483648 + g.toNat * 2097152 + d.toNat * 32768 + a.toNat * 512 + r.toNat
  | .cvtI8I32 c g d a r => 1006633032 + c.toNat * 2147483648 + g.toNat * 2097152 + d.toNat * 32768 + a.toNat * 512 + r.toNat
  | .cvtN16N32 c g d a r => 1006633040 + c.toNat * 2147483648 + g.toNat * 2097152 + d.toNat * 32768 + a.toNat * 512 + r.toNat
  | .cvtN8N32 c g d a r => 1006633048 + c.toNat * 2147483648 + g.toNat * 2097152 + d.toNat * 32768 + a.toNat * 512 + r.toNat
  | .shfl c g d a b => 1040187392 + c.toNat * 2147483648 + g.toNat * 2097152 + d.toNat * 32768 + a.toNat * 512 + b.toNat * 8
  | .shflUp c g d a b => 1040187393 + c.toNat * 2147483648 + g.toNat * 2097152 + d.toNat * 32768 + a.toNat * 512 + b.toNat * 8
  | .shflDown c g d a b => 1040187394 + c.toNat * 2147483648 + g.toNat * 2097152 + d.toNat * 32768 + a.toNat * 512 + b.toNat * 8
  | .shflXor c g d a b => 1040187395 + c.toNat * 2147483648 + g.toNat * 2097152 + d.toNat * 32768 + a.toNat * 512 + b.toNat * 8
  | .ballot c g d a => 1040187396 + c.toNat * 2147483648 + g.toNat * 2097152 + d.toNat * 32768 + a.toNat * 512
  | .rcp c g d a => 1073741824 + c.toNat * 2147483648 + g.toNat * 2097152 + d.toNat * 32768 + a.toNat * 512
  | .rsqrt c g d a => 1073741825 + c.toNat * 2147483648 + g.toNat * 2097152 + d.toNat * 32768 + a.toNat * 512
  | .sqrt c g d a => 1073741826 + c.toNat * 2147483648 + g.toNat * 2097152 + d.toNat * 32768 + a.toNat * 512
  | .exp2 c g d a => 1073741827 + c.toNat * 2147483648 + g.toNat * 2097152 + d.toNat * 32768 + a.toNat * 512
  | .log2 c g d a => 1073741828 + c.toNat * 2147483648 + g.toNat * 2097152 + d.toNat * 32768 + a.toNat * 512
  | .sinpi c g d a => 1073741829 + c.toNat * 2147483648 + g.toNat * 2097152 + d.toNat * 32768 + a.toNat * 512
  | .cospi c g d a => 1073741830 + c.toNat * 2147483648 + g.toNat * 2097152 + d.toNat * 32768 + a.toNat * 512
  | .tanh c g d a => 1073741831 + c.toNat * 2147483648 + g.toNat * 2097152 + d.toNat * 32768 + a.toNat * 512
  | .div c g d a b => 1107296256 + c.toNat * 2147483648 + g.toNat * 2097152 + d.toNat * 32768 + a.toNat * 512 + b.toNat * 8
  | .divu c g d a b => 1107296257 + c.toNat * 2147483648 + g.toNat * 2097152 + d.toNat * 32768 + a.toNat * 512 + b.toNat * 8
  | .rem c g d a b => 1107296258 + c.toNat * 2147483648 + g.toNat * 2097152 + d.toNat * 32768 + a.toNat * 512 + b.toNat * 8
  | .remu c g d a b => 1107296259 + c.toNat * 2147483648 + g.toNat * 2097152 + d.toNat * 32768 + a.toNat * 512 + b.toNat * 8
  | .fdiv c g d a b => 1107296260 + c.toNat * 2147483648 + g.toNat * 2097152 + d.toNat * 32768 + a.toNat * 512 + b.toNat * 8
  | .rand c g d => 1107296261 + c.toNat * 2147483648 + g.toNat * 2097152 + d.toNat * 32768
  | .ld c g d a z t l => 1207959552 + c.toNat * 2147483648 + g.toNat * 2097152 + d.toNat * 32768 + a.toNat * 512 + z.toNat * 128 + t.toNat * 16 + l.toNat
  | .lds c g d a z t l => 1241513984 + c.toNat * 2147483648 + g.toNat * 2097152 + d.toNat * 32768 + a.toNat * 512 + z.toNat * 128 + t.toNat * 16 + l.toNat
  | .st c g d a z t l => 1275068416 + c.toNat * 2147483648 + g.toNat * 2097152 + d.toNat * 32768 + a.toNat * 512 + z.toNat * 128 + t.toNat * 16 + l.toNat
  | .ldRo c g d a z t l => 1308622848 + c.toNat * 2147483648 + g.toNat * 2097152 + d.toNat * 32768 + a.toNat * 512 + z.toNat * 128 + t.toNat * 16 + l.toNat
  | .ldAcq c g d a s z t => 1342177280 + c.toNat * 2147483648 + g.toNat * 2097152 + d.toNat * 32768 + a.toNat * 512 + s.toNat * 64 + z.toNat * 16 + t.toNat * 2
  | .stRel c g d a s z t => 1342177281 + c.toNat * 2147483648 + g.toNat * 2097152 + d.toNat * 32768 + a.toNat * 512 + s.toNat * 64 + z.toNat * 16 + t.toNat * 2
  | .pf c g a t l => 1442840576 + c.toNat * 2147483648 + g.toNat * 2097152 + a.toNat * 512 + t.toNat * 16 + l.toNat
  | .atomAdd c g d a w t => 1375731712 + c.toNat * 2147483648 + g.toNat * 2097152 + d.toNat * 32768 + a.toNat * 512 + w.toNat * 16 + t.toNat * 2
  | .atomMins c g d a w t => 1375731744 + c.toNat * 2147483648 + g.toNat * 2097152 + d.toNat * 32768 + a.toNat * 512 + w.toNat * 16 + t.toNat * 2
  | .atomMaxs c g d a w t => 1375731776 + c.toNat * 2147483648 + g.toNat * 2097152 + d.toNat * 32768 + a.toNat * 512 + w.toNat * 16 + t.toNat * 2
  | .atomMinu c g d a w t => 1375731808 + c.toNat * 2147483648 + g.toNat * 2097152 + d.toNat * 32768 + a.toNat * 512 + w.toNat * 16 + t.toNat * 2
  | .atomMaxu c g d a w t => 1375731840 + c.toNat * 2147483648 + g.toNat * 2097152 + d.toNat * 32768 + a.toNat * 512 + w.toNat * 16 + t.toNat * 2
  | .atomAnd c g d a w t => 1375731872 + c.toNat * 2147483648 + g.toNat * 2097152 + d.toNat * 32768 + a.toNat * 512 + w.toNat * 16 + t.toNat * 2
  | .atomOr c g d a w t => 1375731904 + c.toNat * 2147483648 + g.toNat * 2097152 + d.toNat * 32768 + a.toNat * 512 + w.toNat * 16 + t.toNat * 2
  | .atomXor c g d a w t => 1375731936 + c.toNat * 2147483648 + g.toNat * 2097152 + d.toNat * 32768 + a.toNat * 512 + w.toNat * 16 + t.toNat * 2
  | .atomXchg c g d a w t => 1375731968 + c.toNat * 2147483648 + g.toNat * 2097152 + d.toNat * 32768 + a.toNat * 512 + w.toNat * 16 + t.toNat * 2
  | .atomCas c g d a w t => 1375732000 + c.toNat * 2147483648 + g.toNat * 2097152 + d.toNat * 32768 + a.toNat * 512 + w.toNat * 16 + t.toNat * 2
  | .atomFadd c g d a t => 1375732032 + c.toNat * 2147483648 + g.toNat * 2097152 + d.toNat * 32768 + a.toNat * 512 + t.toNat * 2
  | .atomFmin c g d a t => 1375732064 + c.toNat * 2147483648 + g.toNat * 2097152 + d.toNat * 32768 + a.toNat * 512 + t.toNat * 2
  | .atomFmax c g d a t => 1375732096 + c.toNat * 2147483648 + g.toNat * 2097152 + d.toNat * 32768 + a.toNat * 512 + t.toNat * 2
  | .fence c g s t => 1409286144 + c.toNat * 2147483648 + g.toNat * 2097152 + s.toNat * 8 + t.toNat
  | .seal c g d a s t => 1409290240 + c.toNat * 2147483648 + g.toNat * 2097152 + d.toNat * 32768 + a.toNat * 64 + s.toNat * 8 + t.toNat
  | .unseal c g d a s t => 1409294336 + c.toNat * 2147483648 + g.toNat * 2097152 + d.toNat * 32768 + a.toNat * 64 + s.toNat * 8 + t.toNat
  | .watch c g d a s t => 1409298432 + c.toNat * 2147483648 + g.toNat * 2097152 + d.toNat * 32768 + a.toNat * 64 + s.toNat * 8 + t.toNat
  | .wait g m => 2046832640 + g.toNat * 2097152 + m.toNat
  | .sleepUntil g a => 2046836736 + g.toNat * 2097152 + a.toNat * 64
  | .barArrive g l b => 2046820352 + g.toNat * 2097152 + l.toNat * 512 + b.toNat * 32
  | .barWait g l b => 2046824448 + g.toNat * 2097152 + l.toNat * 512 + b.toNat * 32
  | .barArriveExp g d l b => 2046828544 + g.toNat * 2097152 + d.toNat * 32768 + l.toNat * 512 + b.toNat * 32
  | .cmLd c g d a z t => 1946157056 + c.toNat * 2147483648 + g.toNat * 2097152 + d.toNat * 32768 + a.toNat * 64 + z.toNat * 32 + t.toNat * 2
  | .cmSt c g d a z r t y => 1946161152 + c.toNat * 2147483648 + g.toNat * 2097152 + d.toNat * 32768 + a.toNat * 64 + z.toNat * 32 + r.toNat * 16 + t.toNat * 2 + y.toNat
  | .cmAdd c g d a z r t y => 1946165248 + c.toNat * 2147483648 + g.toNat * 2097152 + d.toNat * 32768 + a.toNat * 64 + z.toNat * 32 + r.toNat * 16 + t.toNat * 2 + y.toNat
  | .cmClaim c g d a r t y => 1946169376 + c.toNat * 2147483648 + g.toNat * 2097152 + d.toNat * 32768 + a.toNat * 64 + r.toNat * 16 + t.toNat * 2 + y.toNat
  | .cmWait c g d a z t => 1946173440 + c.toNat * 2147483648 + g.toNat * 2097152 + d.toNat * 32768 + a.toNat * 64 + z.toNat * 32 + t.toNat * 2
  | .cmLsn c g d t => 1946177568 + c.toNat * 2147483648 + g.toNat * 2097152 + d.toNat * 32768 + t.toNat * 2
  | .cmLaunch c g d a r t y => 1946181664 + c.toNat * 2147483648 + g.toNat * 2097152 + d.toNat * 32768 + a.toNat * 64 + r.toNat * 16 + t.toNat * 2 + y.toNat
  | .cmPte c g d a r t y => 1946185760 + c.toNat * 2147483648 + g.toNat * 2097152 + d.toNat * 32768 + a.toNat * 64 + r.toNat * 16 + t.toNat * 2 + y.toNat
  | .fenceSeq c g a t => 1979711488 + c.toNat * 2147483648 + g.toNat * 2097152 + a.toNat * 256 + t.toNat * 2
  | .fenceSeqAll c g a t => 1979727872 + c.toNat * 2147483648 + g.toNat * 2097152 + a.toNat * 256 + t.toNat * 2
  | .shld c s a t l => 1543503872 + c.toNat * 2147483648 + s.toNat * 2097152 + a.toNat * 512 + t.toNat * 16 + l.toNat
  | .shst c s a t l => 1543504000 + c.toNat * 2147483648 + s.toNat * 2097152 + a.toNat * 512 + t.toNat * 16 + l.toNat
  | .shmod c s d n t l => 1543504128 + c.toNat * 2147483648 + s.toNat * 2097152 + d.toNat * 32768 + n.toNat * 512 + t.toNat * 16 + l.toNat
  | .tcp c s d a t l => 1577058304 + c.toNat * 2147483648 + s.toNat * 2097152 + d.toNat * 32768 + a.toNat * 512 + t.toNat * 16 + l.toNat
  | .tcpRed c s d a t l => 1577058432 + c.toNat * 2147483648 + s.toNat * 2097152 + d.toNat * 32768 + a.toNat * 512 + t.toNat * 16 + l.toNat
  | .tcpPost c s d a t l => 1577058560 + c.toNat * 2147483648 + s.toNat * 2097152 + d.toNat * 32768 + a.toNat * 512 + t.toNat * 16 + l.toNat
  | .ctrAdd c d a t l => 1610612736 + c.toNat * 2147483648 + d.toNat * 32768 + a.toNat * 512 + t.toNat * 16 + l.toNat
  | .ctrLd c d a t l => 1610612864 + c.toNat * 2147483648 + d.toNat * 32768 + a.toNat * 512 + t.toNat * 16 + l.toNat
  | .ringArm c d a t l => 1610612992 + c.toNat * 2147483648 + d.toNat * 32768 + a.toNat * 512 + t.toNat * 16 + l.toNat
  | .mma c s z b n t l => 1644167168 + c.toNat * 2147483648 + s.toNat * 2097152 + z.toNat * 1048576 + b.toNat * 524288 + n.toNat * 32768 + t.toNat * 16 + l.toNat
  | .mmaGather c s z b n a t l => 1644167296 + c.toNat * 2147483648 + s.toNat * 2097152 + z.toNat * 1048576 + b.toNat * 524288 + n.toNat * 32768 + a.toNat * 512 + t.toNat * 16 + l.toNat
  | .accClr c b t l => 1677721600 + c.toNat * 2147483648 + b.toNat * 32768 + t.toNat * 16 + l.toNat
  | .accLd c s b a t l => 1677721728 + c.toNat * 2147483648 + s.toNat * 2097152 + b.toNat * 32768 + a.toNat * 512 + t.toNat * 16 + l.toNat
  | .accSt c s b a t l => 1677721856 + c.toNat * 2147483648 + s.toNat * 2097152 + b.toNat * 32768 + a.toNat * 512 + t.toNat * 16 + l.toNat
  | .gsend c k d q t l => 1711276032 + c.toNat * 2147483648 + k.toNat * 2097152 + d.toNat * 32768 + q.toNat * 512 + t.toNat * 16 + l.toNat
  | .qfence c k q m t l => 1744830464 + c.toNat * 2147483648 + k.toNat * 2097152 + q.toNat * 32768 + m.toNat * 512 + t.toNat * 16 + l.toNat
  | .br g i => 1811939328 + g.toNat * 2097152 + i.toNat
  | .call g i => 1845493760 + g.toNat * 2097152 + i.toNat
  | .jmp g a => 1879048192 + g.toNat * 2097152 + a.toNat * 512
  | .jmpl g a => 1879048193 + g.toNat * 2097152 + a.toNat * 512
  | .reconv g => 1879048194 + g.toNat * 2097152
  | .kget c g d a => 1879048195 + c.toNat * 2147483648 + g.toNat * 2097152 + d.toNat * 32768 + a.toNat * 512
  | .kset c g d a => 1879048196 + c.toNat * 2147483648 + g.toNat * 2097152 + d.toNat * 32768 + a.toNat * 512
  | .pand c g d a b => 1912602624 + c.toNat * 2147483648 + g.toNat * 2097152 + d.toNat * 32768 + a.toNat * 512 + b.toNat * 8
  | .por c g d a b => 1912602625 + c.toNat * 2147483648 + g.toNat * 2097152 + d.toNat * 32768 + a.toNat * 512 + b.toNat * 8
  | .pxor c g d a b => 1912602626 + c.toNat * 2147483648 + g.toNat * 2097152 + d.toNat * 32768 + a.toNat * 512 + b.toNat * 8
  | .pandn c g d a b => 1912602627 + c.toNat * 2147483648 + g.toNat * 2097152 + d.toNat * 32768 + a.toNat * 512 + b.toNat * 8
  | .pnez c g d a => 1912602628 + c.toNat * 2147483648 + g.toNat * 2097152 + d.toNat * 32768 + a.toNat * 512
  | .pget c g d => 1912602629 + c.toNat * 2147483648 + g.toNat * 2097152 + d.toNat * 32768
  | .pset c g a => 1912602630 + c.toNat * 2147483648 + g.toNat * 2097152 + a.toNat * 512
  | .exit g d n => 2013265920 + g.toNat * 2097152 + d.toNat * 32768 + n.toNat * 512
  | .safept => 2027950080
  | .vinfo c g d n => 2013274112 + c.toNat * 2147483648 + g.toNat * 2097152 + d.toNat * 32768 + n.toNat * 1024
  | .trap g n => 2080374784 + g.toNat * 2097152 + n.toNat
  | .sysc g n => 2080375296 + g.toNat * 2097152 + n.toNat
  | .brk g n => 2080375808 + g.toNat * 2097152 + n.toNat
  | .rti g => 2080376320 + g.toNat * 2097152
  | .rdsr c g d n => 2080376832 + c.toNat * 2147483648 + g.toNat * 2097152 + d.toNat * 32768 + n.toNat
  | .wrsr c g d n => 2080377344 + c.toNat * 2147483648 + g.toNat * 2097152 + d.toNat * 32768 + n.toNat
  | .rdclk c g d => 2080377856 + c.toNat * 2147483648 + g.toNat * 2097152 + d.toNat * 32768
  | .dcwb c g d n => 2080378368 + c.toNat * 2147483648 + g.toNat * 2097152 + d.toNat * 32768 + n.toNat
  | .icinv c g d n => 2080378880 + c.toNat * 2147483648 + g.toNat * 2097152 + d.toNat * 32768 + n.toNat
  | .fbar g => 2080379392 + g.toNat * 2097152
  | .qbind c g d q => 2080379904 + c.toNat * 2147483648 + g.toNat * 2097152 + d.toNat * 32768 + q.toNat
  | .qunbind c g q => 2080380416 + c.toNat * 2147483648 + g.toNat * 2097152 + q.toNat
  | .gbind c g d k q => 2080380928 + c.toNat * 2147483648 + g.toNat * 2097152 + d.toNat * 32768 + k.toNat * 64 + q.toNat
  | .gunbind c g k q => 2080381440 + c.toNat * 2147483648 + g.toNat * 2097152 + k.toNat * 64 + q.toNat
  | .fetchFault => 0
  | .sqTail _ _ => 0
  | .queuePick _ => 0
  | .commandComplete _ => 0
  | .dispatch _ => 0
  | .steal _ _ => 0
  | .slotRelease _ => 0
  | .issueSelect _ _ => 0
  | .eftResume _ _ _ => 0
  | .reconvRelease _ _ => 0
  | .sleepWake _ _ _ => 0
  | .barrierArrival _ _ _ => 0
  | .barrierSpillArrival _ _ _ => 0
  | .tokenClear _ _ _ => 0
  | .storeArrival _ => 0
  | .leaseLapse _ => 0
  | .versionCurrent _ => 0
  | .lineFetch _ _ _ => 0
  | .atomicRequest _ => 0
  | .watchTimeout _ => 0
  | .taskFinish _ _ => 0
  | .contributionArrive _ => 0
  | .rootMerge _ => 0
  | .preemptionRequest _ => 0
  | .copyIssueStop _ => 0
  | .contextSave _ => 0
  | .forcedSave _ => 0
  | .balanceRefill => 0
  | .energyCharge _ _ => 0
  | .governorStep => 0
  | .entryTake _ _ => 0
  | .entryRetire _ => 0
  | .entryStall _ _ => 0
  | .cntIncrement _ => 0
  | .triggerSlotFree _ _ => 0
  | .promiseRevision _ _ => 0
  | .windowPost _ => 0
  | .contributionCombine _ _ => 0
  | .contributionRetry _ => 0
  | .matrixStep _ => 0
  | .matrixQueueStall _ => 0
  | .storeRecord => 0
  | .addRecord => 0
  | .claimRecord => 0
  | .launchRecord => 0
  | .pteRecord => 0
  | .part => 0
  | .sysst => 0
  | .keyroll => 0
  | .recordArrival _ _ _ _ => 0
  | .recordReturn _ => 0
  | .tokenArrival _ _ _ _ _ _ _ => 0
  | .tokenLossTimeout => 0
  | .probe _ => 0
  | .recordRepair _ _ _ _ _ => 0
  | .recordVoid _ => 0
  | .applyStall => 0
  | .bypass _ => 0
  | .join _ => 0
  | .snapshotCopy _ _ => 0
  | .loopstart _ => 0
  | .loopgo => 0
  | .setowners _ _ _ => 0
  | .setroute _ _ _ _ => 0
  | .portdrain _ => 0
  | .portup _ => 0
  | .setppt _ _ _ => 0
  | .keyload _ _ => 0
  | .resync _ => 0
  | .fabricPacket _ _ _ _ _ _ _ _ => 0
  | .packetResend _ => 0
  | .portDown _ => 0
  | .routeStall _ => 0
  | .ownerreject _ _ => 0
  | .remoteAccessFailed _ _ => 0
  | .windowRequest _ => 0
  | .winOpen _ => 0
  | .winRevoke _ => 0
  | .windowClose _ => 0
  | .hbqTail _ _ => 0
  | .fresume _ _ => 0
  | .vpgrow _ _ => 0
  | .ltinval _ _ => 0
  | .ltinvalComplete => 0
  | .sockreset _ => 0
  | .lotseed _ => 0
  | .serviceRegisterWrite _ _ _ _ => 0
  | .capabilityRecord _ _ _ _ _ _ => 0
  | .packetPull _ _ _ _ => 0
  | .bindack _ _ => 0
  | .qstate _ _ _ _ _ _ => 0
  | .invack _ _ => 0
  | .guestFault _ _ _ _ _ => 0
  | .guestRead _ _ _ => 0
  | .ownershipRequest _ _ _ => 0
  | .writeBack _ _ _ _ _ _ => 0
  | .recallAnswer _ _ _ _ => 0
  | .guestAtomic _ _ _ _ _ _ _ => 0
  | .translationRequest _ _ _ _ => 0
  | .guestDutyTimeout _ _ => 0
  | .linkRetrain _ _ => 0
  | .hostSnoop _ _ => 0
  | .cxlMemAccess _ _ _ _ => 0
  | .atsInvalidation _ _ => 0
  | .atsTimeout _ => 0
  | .hostLinkError _ _ => 0
  | .tdiLeaveRun _ => 0
  | .attestationRequest _ => 0
  | .softError _ _ _ _ => 0
  | .hbmFailure _ _ _ => 0
  | .readyBitRise _ => 0
  | .liveUpdate _ _ _ _ => 0
  | .watchdogFailover => 0
  | .moduleReset => 0
  | .mergeWindowHoldEnd _ => 0
  | .drain _ _ => 0
  | .discard _ => 0
  | .tdispRequest _ _ _ _ => 0
  | .hostSync => 0
  | .managementRecord _ _ _ => 0
  | .mirrorPeriodEnd => 0

/-- The bytes of a well-formed instruction word, the lowest first (R126). -/
def encodeBytes (i : Instr) : List (BitVec 8) := leBytes 4 (encode i)

end Sys2Proof
end

