-- ==== Sys2Proof/Machine/Tab.lean ====
section
/-! DEFINITION. Sparse tables and list helpers that the machine's operations are written with. A table has strictly
rising keys and lists no value equal to its default. -/

namespace Sys2Proof.Machine

/-- The value at a key; `d` where nothing is listed. -/
def tabGet {α : Type} (d : α) : Tab α → Nat → α
  | [], _ => d
  | (k, v) :: rest, x => if x < k then d else if k = x then v else tabGet d rest x

/-- The table with a key's entry removed. -/
def tabErase {α : Type} : Tab α → Nat → Tab α
  | [], _ => []
  | (k, v) :: rest, x => if x < k then (k, v) :: rest else if k = x then rest else (k, v) :: tabErase rest x

/-- The table with a value listed at a key, whatever the value is. -/
def tabPut {α : Type} : Tab α → Nat → α → Tab α
  | [], x, w => [(x, w)]
  | (k, v) :: rest, x, w =>
    if x < k then (x, w) :: (k, v) :: rest else if k = x then (x, w) :: rest else (k, v) :: tabPut rest x w

/-- The table with a value at a key; the default is not listed. -/
def tabSet {α : Type} [DecidableEq α] (d : α) (t : Tab α) (x : Nat) (w : α) : Tab α :=
  if w = d then tabErase t x else tabPut t x w

/-- Every key is above `lo`, keys rise, and no value is the default. -/
def tabWfFrom {α : Type} [DecidableEq α] (d : α) : Nat → Tab α → Bool
  | _, [] => true
  | lo, (k, v) :: rest => decide (lo ≤ k) && decide (v ≠ d) && tabWfFrom d (k + 1) rest

/-- The canonical form of a table. -/
def tabWf {α : Type} [DecidableEq α] (d : α) (t : Tab α) : Bool := tabWfFrom d 0 t

/-- Write consecutive values from a key up. -/
def tabSetMany {α : Type} [DecidableEq α] (d : α) : Tab α → Nat → List α → Tab α
  | t, _, [] => t
  | t, x, v :: rest => tabSetMany d (tabSet d t x v) (x + 1) rest

/-- Read n consecutive values from a key up. -/
def tabGetMany {α : Type} (d : α) (t : Tab α) : Nat → Nat → List α
  | _, 0 => []
  | x, n + 1 => tabGet d t x :: tabGetMany d t (x + 1) n

/-- The list with `f` applied to the element at one place. -/
def modifyAt {α : Type} : List α → Nat → (α → α) → List α
  | [], _, _ => []
  | a :: rest, 0, f => f a :: rest
  | a :: rest, n + 1, f => a :: modifyAt rest n f

/-- The element at a place, or a default. -/
def atD {α : Type} (d : α) : List α → Nat → α
  | [], _ => d
  | a :: _, 0 => a
  | _ :: rest, n + 1 => atD d rest n

/-- `f` applied to every element with its index, from index `n` on. -/
def mapFrom {α β : Type} (f : Nat → α → β) : Nat → List α → List β
  | _, [] => []
  | n, a :: rest => f n a :: mapFrom f (n + 1) rest

/-- The numbers lo, lo + 1, ..., n of them. -/
def upFrom (lo : Nat) : Nat → List Nat
  | 0 => []
  | n + 1 => lo :: upFrom (lo + 1) n

/-- Insert into a list of numbers in rising order. -/
def insertUp (x : Nat) : List Nat → List Nat
  | [] => [x]
  | y :: rest => if x ≤ y then x :: y :: rest else y :: insertUp x rest

/-- Sort numbers in rising order. -/
def sortUp : List Nat → List Nat
  | [] => []
  | x :: rest => insertUp x (sortUp rest)

/-- The least element, or a default. -/
def leastD (d : Nat) : List Nat → Nat
  | [] => d
  | x :: rest => rest.foldl min x

/-- The greatest element, at least `lo`. -/
def greatest (lo : Nat) (l : List Nat) : Nat := l.foldl max lo

/-- The set bits of a number below n, ascending. -/
def setBits (x n : Nat) : List Nat := (upFrom 0 n).filter fun i => x.testBit i

/-- Floor of a rational with positive denominator, for an integer numerator. -/
def twos (width : Nat) (v : Int) : Nat := (v % (2 ^ width : Nat)).toNat

/-- The integer that n bits hold in two's complement. -/
def signed (width v : Nat) : Int := if v < 2 ^ (width - 1) then (v : Int) else (v : Int) - (2 ^ width : Nat)

end Sys2Proof.Machine
end

