-- ==== Sys2Proof/Machine/Operands.lean ====
section
/-! DEFINITION. The operands of each word: its guard (R133), the registers, predicates and shape handles it reads and
writes (R134, R135), its token and lookahead window (R137) and its pipe (R130). -/

namespace Sys2Proof

open Sys2Proof.Machine

/-- The odd register of a pair; the pair g0 is g0 alone (R134). -/
def pairHi (d : Nat) : Nat := if d = 0 then 0 else d + 1

/-- A register, or the pair that starts at it. -/
def wideRegs (wide : Bool) (d : Nat) : List Nat := if wide then [d, pairHi d] else [d]

/-- The pipes of R130. -/
inductive Pipe where
  | I | F | X | M
  deriving DecidableEq, Repr

/-- The guard field of a word that has one and does not ignore it (R132, R133). -/
def Instr.guard : Instr → Option (BitVec 4)
  | .add _ g _ _ _ => some g
  | .sub _ g _ _ _ => some g
  | .mul _ g _ _ _ => some g
  | .mulhs _ g _ _ _ => some g
  | .mulhu _ g _ _ _ => some g
  | .mins _ g _ _ _ => some g
  | .maxs _ g _ _ _ => some g
  | .adds _ g _ _ _ => some g
  | .and _ g _ _ _ => some g
  | .or _ g _ _ _ => some g
  | .xor _ g _ _ _ => some g
  | .andn _ g _ _ _ => some g
  | .orn _ g _ _ _ => some g
  | .xnor _ g _ _ _ => some g
  | .minu _ g _ _ _ => some g
  | .maxu _ g _ _ _ => some g
  | .shl _ g _ _ _ => some g
  | .shr _ g _ _ _ => some g
  | .sar _ g _ _ _ => some g
  | .rol _ g _ _ _ => some g
  | .ror _ g _ _ _ => some g
  | .clz _ g _ _ => some g
  | .popc _ g _ _ => some g
  | .brev _ g _ _ => some g
  | .cmpEq _ g _ _ _ => some g
  | .cmpNe _ g _ _ _ => some g
  | .cmpLt _ g _ _ _ => some g
  | .cmpLe _ g _ _ _ => some g
  | .cmpLtu _ g _ _ _ => some g
  | .cmpLeu _ g _ _ _ => some g
  | .cmpTst _ g _ _ _ => some g
  | .addi _ g _ _ _ => some g
  | .andi _ g _ _ _ => some g
  | .ori _ g _ _ _ => some g
  | .xori _ g _ _ _ => some g
  | .shli _ g _ _ _ => some g
  | .shri _ g _ _ _ => some g
  | .sari _ g _ _ _ => some g
  | .movi _ g _ _ => some g
  | .movsh _ g _ _ => some g
  | .add64 _ g _ _ _ => some g
  | .sub64 _ g _ _ _ => some g
  | .addsx64 _ g _ _ _ => some g
  | .addzx64 _ g _ _ _ => some g
  | .shl64 _ g _ _ _ => some g
  | .shr64 _ g _ _ _ => some g
  | .sar64 _ g _ _ _ => some g
  | .mul64 _ g _ _ _ => some g
  | .adr _ g _ _ => some g
  | .fadd _ g _ _ _ _ => some g
  | .fsub _ g _ _ _ _ => some g
  | .fmul _ g _ _ _ _ => some g
  | .ffma _ g _ _ _ _ => some g
  | .ffms _ g _ _ _ _ => some g
  | .fnma _ g _ _ _ _ => some g
  | .haddBf16x2 _ g _ _ _ _ => some g
  | .hmulBf16x2 _ g _ _ _ _ => some g
  | .hfmaBf16x2 _ g _ _ _ _ => some g
  | .fdot2Bf16 _ g _ _ _ _ => some g
  | .fmin _ g _ _ _ => some g
  | .fmax _ g _ _ _ => some g
  | .fabs _ g _ _ => some g
  | .fneg _ g _ _ => some g
  | .fcopysign _ g _ _ _ => some g
  | .fclass _ g _ _ => some g
  | .fcmpEq _ g _ _ _ => some g
  | .fcmpNe _ g _ _ _ => some g
  | .fcmpLt _ g _ _ _ => some g
  | .fcmpLe _ g _ _ _ => some g
  | .fcmpUn _ g _ _ _ => some g
  | .fscale _ g _ _ _ _ => some g
  | .frint _ g _ _ _ => some g
  | .cvtBf16F32 _ g _ _ _ => some g
  | .cvtF32Bf16 _ g _ _ _ => some g
  | .cvtE4m3F32 _ g _ _ _ => some g
  | .cvtF32E4m3 _ g _ _ _ => some g
  | .cvtI32F32 _ g _ _ _ => some g
  | .cvtN32F32 _ g _ _ _ => some g
  | .cvtF32I32 _ g _ _ _ => some g
  | .cvtF32N32 _ g _ _ _ => some g
  | .cvtI16I32 _ g _ _ _ => some g
  | .cvtI8I32 _ g _ _ _ => some g
  | .cvtN16N32 _ g _ _ _ => some g
  | .cvtN8N32 _ g _ _ _ => some g
  | .shfl _ g _ _ _ => some g
  | .shflUp _ g _ _ _ => some g
  | .shflDown _ g _ _ _ => some g
  | .shflXor _ g _ _ _ => some g
  | .ballot _ g _ _ => some g
  | .rcp _ g _ _ => some g
  | .rsqrt _ g _ _ => some g
  | .sqrt _ g _ _ => some g
  | .exp2 _ g _ _ => some g
  | .log2 _ g _ _ => some g
  | .sinpi _ g _ _ => some g
  | .cospi _ g _ _ => some g
  | .tanh _ g _ _ => some g
  | .div _ g _ _ _ => some g
  | .divu _ g _ _ _ => some g
  | .rem _ g _ _ _ => some g
  | .remu _ g _ _ _ => some g
  | .fdiv _ g _ _ _ => some g
  | .rand _ g _ => some g
  | .ld _ g _ _ _ _ _ => some g
  | .lds _ g _ _ _ _ _ => some g
  | .st _ g _ _ _ _ _ => some g
  | .ldRo _ g _ _ _ _ _ => some g
  | .ldAcq _ g _ _ _ _ _ => some g
  | .stRel _ g _ _ _ _ _ => some g
  | .pf _ g _ _ _ => some g
  | .atomAdd _ g _ _ _ _ => some g
  | .atomMins _ g _ _ _ _ => some g
  | .atomMaxs _ g _ _ _ _ => some g
  | .atomMinu _ g _ _ _ _ => some g
  | .atomMaxu _ g _ _ _ _ => some g
  | .atomAnd _ g _ _ _ _ => some g
  | .atomOr _ g _ _ _ _ => some g
  | .atomXor _ g _ _ _ _ => some g
  | .atomXchg _ g _ _ _ _ => some g
  | .atomCas _ g _ _ _ _ => some g
  | .atomFadd _ g _ _ _ => some g
  | .atomFmin _ g _ _ _ => some g
  | .atomFmax _ g _ _ _ => some g
  | .fence _ g _ _ => some g
  | .seal _ g _ _ _ _ => some g
  | .unseal _ g _ _ _ _ => some g
  | .watch _ g _ _ _ _ => some g
  | .wait g _ => some g
  | .sleepUntil g _ => some g
  | .barArrive g _ _ => some g
  | .barWait g _ _ => some g
  | .barArriveExp g _ _ _ => some g
  | .cmLd _ g _ _ _ _ => some g
  | .cmSt _ g _ _ _ _ _ _ => some g
  | .cmAdd _ g _ _ _ _ _ _ => some g
  | .cmClaim _ g _ _ _ _ _ => some g
  | .cmWait _ g _ _ _ _ => some g
  | .cmLsn _ g _ _ => some g
  | .cmLaunch _ g _ _ _ _ _ => some g
  | .cmPte _ g _ _ _ _ _ => some g
  | .fenceSeq _ g _ _ => some g
  | .fenceSeqAll _ g _ _ => some g
  | .br g _ => some g
  | .call g _ => some g
  | .jmp g _ => some g
  | .jmpl g _ => some g
  | .reconv g => some g
  | .kget _ g _ _ => some g
  | .kset _ g _ _ => some g
  | .pand _ g _ _ _ => some g
  | .por _ g _ _ _ => some g
  | .pxor _ g _ _ _ => some g
  | .pandn _ g _ _ _ => some g
  | .pnez _ g _ _ => some g
  | .pget _ g _ => some g
  | .pset _ g _ => some g
  | .exit g _ _ => some g
  | .vinfo _ g _ _ => some g
  | .trap g _ => some g
  | .sysc g _ => some g
  | .brk g _ => some g
  | .rti g => some g
  | .rdsr _ g _ _ => some g
  | .wrsr _ g _ _ => some g
  | .rdclk _ g _ => some g
  | .dcwb _ g _ _ => some g
  | .icinv _ g _ _ => some g
  | .fbar g => some g
  | .qbind _ g _ _ => some g
  | .qunbind _ g _ => some g
  | .gbind _ g _ _ _ => some g
  | .gunbind _ g _ _ => some g
  | _ => none

/-- The g registers a word reads at issue; ports pop in this order (R135). -/
def Instr.reads : Instr → List Nat
  | .add _ _ _ a b => [a.toNat, b.toNat]
  | .sub _ _ _ a b => [a.toNat, b.toNat]
  | .mul _ _ _ a b => [a.toNat, b.toNat]
  | .mulhs _ _ _ a b => [a.toNat, b.toNat]
  | .mulhu _ _ _ a b => [a.toNat, b.toNat]
  | .mins _ _ _ a b => [a.toNat, b.toNat]
  | .maxs _ _ _ a b => [a.toNat, b.toNat]
  | .adds _ _ _ a b => [a.toNat, b.toNat]
  | .and _ _ _ a b => [a.toNat, b.toNat]
  | .or _ _ _ a b => [a.toNat, b.toNat]
  | .xor _ _ _ a b => [a.toNat, b.toNat]
  | .andn _ _ _ a b => [a.toNat, b.toNat]
  | .orn _ _ _ a b => [a.toNat, b.toNat]
  | .xnor _ _ _ a b => [a.toNat, b.toNat]
  | .minu _ _ _ a b => [a.toNat, b.toNat]
  | .maxu _ _ _ a b => [a.toNat, b.toNat]
  | .shl _ _ _ a b => [a.toNat, b.toNat]
  | .shr _ _ _ a b => [a.toNat, b.toNat]
  | .sar _ _ _ a b => [a.toNat, b.toNat]
  | .rol _ _ _ a b => [a.toNat, b.toNat]
  | .ror _ _ _ a b => [a.toNat, b.toNat]
  | .clz _ _ _ a => [a.toNat]
  | .popc _ _ _ a => [a.toNat]
  | .brev _ _ _ a => [a.toNat]
  | .cmpEq _ _ _ a b => [a.toNat, b.toNat]
  | .cmpNe _ _ _ a b => [a.toNat, b.toNat]
  | .cmpLt _ _ _ a b => [a.toNat, b.toNat]
  | .cmpLe _ _ _ a b => [a.toNat, b.toNat]
  | .cmpLtu _ _ _ a b => [a.toNat, b.toNat]
  | .cmpLeu _ _ _ a b => [a.toNat, b.toNat]
  | .cmpTst _ _ _ a b => [a.toNat, b.toNat]
  | .addi _ _ _ a _ => [a.toNat]
  | .andi _ _ _ a _ => [a.toNat]
  | .ori _ _ _ a _ => [a.toNat]
  | .xori _ _ _ a _ => [a.toNat]
  | .shli _ _ _ a _ => [a.toNat]
  | .shri _ _ _ a _ => [a.toNat]
  | .sari _ _ _ a _ => [a.toNat]
  | .movsh _ _ d _ => [d.toNat]
  | .add64 _ _ _ a b => [a.toNat, pairHi a.toNat, b.toNat, pairHi b.toNat]
  | .sub64 _ _ _ a b => [a.toNat, pairHi a.toNat, b.toNat, pairHi b.toNat]
  | .addsx64 _ _ _ a b => [a.toNat, pairHi a.toNat, b.toNat]
  | .addzx64 _ _ _ a b => [a.toNat, pairHi a.toNat, b.toNat]
  | .shl64 _ _ _ a b => [a.toNat, pairHi a.toNat, b.toNat]
  | .shr64 _ _ _ a b => [a.toNat, pairHi a.toNat, b.toNat]
  | .sar64 _ _ _ a b => [a.toNat, pairHi a.toNat, b.toNat]
  | .mul64 _ _ _ a b => [a.toNat, pairHi a.toNat, b.toNat, pairHi b.toNat]
  | .fadd _ _ _ a b _ => [a.toNat, b.toNat]
  | .fsub _ _ _ a b _ => [a.toNat, b.toNat]
  | .fmul _ _ _ a b _ => [a.toNat, b.toNat]
  | .ffma _ _ d a b _ => [a.toNat, b.toNat, d.toNat]
  | .ffms _ _ d a b _ => [a.toNat, b.toNat, d.toNat]
  | .fnma _ _ d a b _ => [a.toNat, b.toNat, d.toNat]
  | .haddBf16x2 _ _ _ a b _ => [a.toNat, b.toNat]
  | .hmulBf16x2 _ _ _ a b _ => [a.toNat, b.toNat]
  | .hfmaBf16x2 _ _ d a b _ => [a.toNat, b.toNat, d.toNat]
  | .fdot2Bf16 _ _ d a b _ => [a.toNat, b.toNat, d.toNat]
  | .fmin _ _ _ a b => [a.toNat, b.toNat]
  | .fmax _ _ _ a b => [a.toNat, b.toNat]
  | .fabs _ _ _ a => [a.toNat]
  | .fneg _ _ _ a => [a.toNat]
  | .fcopysign _ _ _ a b => [a.toNat, b.toNat]
  | .fclass _ _ _ a => [a.toNat]
  | .fcmpEq _ _ _ a b => [a.toNat, b.toNat]
  | .fcmpNe _ _ _ a b => [a.toNat, b.toNat]
  | .fcmpLt _ _ _ a b => [a.toNat, b.toNat]
  | .fcmpLe _ _ _ a b => [a.toNat, b.toNat]
  | .fcmpUn _ _ _ a b => [a.toNat, b.toNat]
  | .fscale _ _ _ a b _ => [a.toNat, b.toNat]
  | .frint _ _ _ a _ => [a.toNat]
  | .cvtBf16F32 _ _ _ a _ => [a.toNat]
  | .cvtF32Bf16 _ _ _ a _ => [a.toNat]
  | .cvtE4m3F32 _ _ _ a _ => [a.toNat]
  | .cvtF32E4m3 _ _ _ a _ => [a.toNat]
  | .cvtI32F32 _ _ _ a _ => [a.toNat]
  | .cvtN32F32 _ _ _ a _ => [a.toNat]
  | .cvtF32I32 _ _ _ a _ => [a.toNat]
  | .cvtF32N32 _ _ _ a _ => [a.toNat]
  | .cvtI16I32 _ _ _ a _ => [a.toNat]
  | .cvtI8I32 _ _ _ a _ => [a.toNat]
  | .cvtN16N32 _ _ _ a _ => [a.toNat]
  | .cvtN8N32 _ _ _ a _ => [a.toNat]
  | .shfl _ _ _ a b => [a.toNat, b.toNat]
  | .shflUp _ _ _ a b => [a.toNat, b.toNat]
  | .shflDown _ _ _ a b => [a.toNat, b.toNat]
  | .shflXor _ _ _ a b => [a.toNat, b.toNat]
  | .ballot _ _ _ a => [a.toNat]
  | .rcp _ _ _ a => [a.toNat]
  | .rsqrt _ _ _ a => [a.toNat]
  | .sqrt _ _ _ a => [a.toNat]
  | .exp2 _ _ _ a => [a.toNat]
  | .log2 _ _ _ a => [a.toNat]
  | .sinpi _ _ _ a => [a.toNat]
  | .cospi _ _ _ a => [a.toNat]
  | .tanh _ _ _ a => [a.toNat]
  | .div _ _ _ a b => [a.toNat, b.toNat]
  | .divu _ _ _ a b => [a.toNat, b.toNat]
  | .rem _ _ _ a b => [a.toNat, b.toNat]
  | .remu _ _ _ a b => [a.toNat, b.toNat]
  | .fdiv _ _ _ a b => [a.toNat, b.toNat]
  | .ld _ _ _ a _ _ _ => [a.toNat, pairHi a.toNat]
  | .lds _ _ _ a _ _ _ => [a.toNat, pairHi a.toNat]
  | .st _ _ d a z _ _ => [a.toNat, pairHi a.toNat] ++ wideRegs (decide (z.toNat = 3)) d.toNat
  | .ldRo _ _ _ a _ _ _ => [a.toNat, pairHi a.toNat]
  | .ldAcq _ _ _ a _ _ _ => [a.toNat, pairHi a.toNat]
  | .stRel _ _ d a _ z _ => [a.toNat, pairHi a.toNat] ++ wideRegs (decide (z.toNat = 3)) d.toNat
  | .pf _ _ a _ _ => [a.toNat, pairHi a.toNat]
  | .atomAdd _ _ d a w _ => [a.toNat, pairHi a.toNat] ++ wideRegs (decide (w.toNat = 1)) d.toNat
  | .atomMins _ _ d a w _ => [a.toNat, pairHi a.toNat] ++ wideRegs (decide (w.toNat = 1)) d.toNat
  | .atomMaxs _ _ d a w _ => [a.toNat, pairHi a.toNat] ++ wideRegs (decide (w.toNat = 1)) d.toNat
  | .atomMinu _ _ d a w _ => [a.toNat, pairHi a.toNat] ++ wideRegs (decide (w.toNat = 1)) d.toNat
  | .atomMaxu _ _ d a w _ => [a.toNat, pairHi a.toNat] ++ wideRegs (decide (w.toNat = 1)) d.toNat
  | .atomAnd _ _ d a w _ => [a.toNat, pairHi a.toNat] ++ wideRegs (decide (w.toNat = 1)) d.toNat
  | .atomOr _ _ d a w _ => [a.toNat, pairHi a.toNat] ++ wideRegs (decide (w.toNat = 1)) d.toNat
  | .atomXor _ _ d a w _ => [a.toNat, pairHi a.toNat] ++ wideRegs (decide (w.toNat = 1)) d.toNat
  | .atomXchg _ _ d a w _ => [a.toNat, pairHi a.toNat] ++ wideRegs (decide (w.toNat = 1)) d.toNat
  | .atomCas _ _ d a w _ => [a.toNat, pairHi a.toNat] ++ upFrom d.toNat (if w.toNat = 1 then 4 else 2)
  | .atomFadd _ _ d a _ => [a.toNat, pairHi a.toNat, d.toNat]
  | .atomFmin _ _ d a _ => [a.toNat, pairHi a.toNat, d.toNat]
  | .atomFmax _ _ d a _ => [a.toNat, pairHi a.toNat, d.toNat]
  | .seal _ _ d a _ _ => [a.toNat, pairHi a.toNat, d.toNat]
  | .unseal _ _ d a _ _ => [a.toNat, pairHi a.toNat, d.toNat]
  | .watch _ _ d a _ _ => [a.toNat, pairHi a.toNat, d.toNat]
  | .sleepUntil _ a => [a.toNat]
  | .barArriveExp _ d _ _ => [d.toNat]
  | .cmLd _ _ _ a _ _ => [a.toNat]
  | .cmSt _ _ d a z _ _ _ => [a.toNat] ++ wideRegs (decide (z.toNat = 1)) d.toNat
  | .cmAdd _ _ d a z _ _ _ => [a.toNat] ++ wideRegs (decide (z.toNat = 1)) d.toNat
  | .cmClaim _ _ _ a _ _ _ => [a.toNat]
  | .cmWait _ _ d a z _ => [a.toNat] ++ wideRegs (decide (z.toNat = 1)) d.toNat
  | .cmLaunch _ _ d a _ _ _ => [a.toNat, pairHi a.toNat, d.toNat, pairHi d.toNat, d.toNat + 2]
  | .cmPte _ _ d a _ _ _ => [a.toNat, pairHi a.toNat, d.toNat, pairHi d.toNat]
  | .fenceSeq _ _ a _ => [a.toNat, pairHi a.toNat]
  | .fenceSeqAll _ _ a _ => [a.toNat, pairHi a.toNat]
  | .shld _ _ a _ _ => [a.toNat, pairHi a.toNat]
  | .shst _ _ a _ _ => [a.toNat, pairHi a.toNat]
  | .shmod _ _ d _ _ _ => [d.toNat]
  | .tcp _ _ d a _ _ => [a.toNat, pairHi a.toNat, d.toNat]
  | .tcpRed _ _ _ a _ _ => [a.toNat, pairHi a.toNat]
  | .tcpPost _ _ _ a _ _ => [a.toNat, pairHi a.toNat]
  | .ctrAdd _ d a _ _ => [a.toNat, d.toNat]
  | .ctrLd _ _ a _ _ => [a.toNat]
  | .ringArm _ d a _ _ => [a.toNat, d.toNat]
  | .mmaGather _ _ _ _ _ a _ _ => [a.toNat]
  | .accLd _ _ _ a _ _ => [a.toNat, pairHi a.toNat]
  | .accSt _ _ _ a _ _ => [a.toNat, pairHi a.toNat]
  | .gsend _ _ d _ _ _ => upFrom d.toNat 16
  | .jmp _ a => [a.toNat, pairHi a.toNat]
  | .jmpl _ a => [a.toNat, pairHi a.toNat]
  | .kset _ _ _ a => [a.toNat]
  | .pnez _ _ _ a => [a.toNat]
  | .pset _ _ a => [a.toNat]
  | .wrsr _ _ d _ => [d.toNat]
  | .dcwb _ _ d _ => [d.toNat, pairHi d.toNat]
  | .icinv _ _ d _ => [d.toNat, pairHi d.toNat]
  | .qbind _ _ d _ => [d.toNat, pairHi d.toNat]
  | .gbind _ _ d _ _ => [d.toNat]
  | _ => []

/-- The g registers a word writes, at issue or when it completes. -/
def Instr.writes : Instr → List Nat
  | .add _ _ d _ _ => [d.toNat]
  | .sub _ _ d _ _ => [d.toNat]
  | .mul _ _ d _ _ => [d.toNat]
  | .mulhs _ _ d _ _ => [d.toNat]
  | .mulhu _ _ d _ _ => [d.toNat]
  | .mins _ _ d _ _ => [d.toNat]
  | .maxs _ _ d _ _ => [d.toNat]
  | .adds _ _ d _ _ => [d.toNat]
  | .and _ _ d _ _ => [d.toNat]
  | .or _ _ d _ _ => [d.toNat]
  | .xor _ _ d _ _ => [d.toNat]
  | .andn _ _ d _ _ => [d.toNat]
  | .orn _ _ d _ _ => [d.toNat]
  | .xnor _ _ d _ _ => [d.toNat]
  | .minu _ _ d _ _ => [d.toNat]
  | .maxu _ _ d _ _ => [d.toNat]
  | .shl _ _ d _ _ => [d.toNat]
  | .shr _ _ d _ _ => [d.toNat]
  | .sar _ _ d _ _ => [d.toNat]
  | .rol _ _ d _ _ => [d.toNat]
  | .ror _ _ d _ _ => [d.toNat]
  | .clz _ _ d _ => [d.toNat]
  | .popc _ _ d _ => [d.toNat]
  | .brev _ _ d _ => [d.toNat]
  | .addi _ _ d _ _ => [d.toNat]
  | .andi _ _ d _ _ => [d.toNat]
  | .ori _ _ d _ _ => [d.toNat]
  | .xori _ _ d _ _ => [d.toNat]
  | .shli _ _ d _ _ => [d.toNat]
  | .shri _ _ d _ _ => [d.toNat]
  | .sari _ _ d _ _ => [d.toNat]
  | .movi _ _ d _ => [d.toNat]
  | .movsh _ _ d _ => [d.toNat]
  | .add64 _ _ d _ _ => [d.toNat, pairHi d.toNat]
  | .sub64 _ _ d _ _ => [d.toNat, pairHi d.toNat]
  | .addsx64 _ _ d _ _ => [d.toNat, pairHi d.toNat]
  | .addzx64 _ _ d _ _ => [d.toNat, pairHi d.toNat]
  | .shl64 _ _ d _ _ => [d.toNat, pairHi d.toNat]
  | .shr64 _ _ d _ _ => [d.toNat, pairHi d.toNat]
  | .sar64 _ _ d _ _ => [d.toNat, pairHi d.toNat]
  | .mul64 _ _ d _ _ => [d.toNat, pairHi d.toNat]
  | .adr _ _ d _ => [d.toNat, pairHi d.toNat]
  | .fadd _ _ d _ _ _ => [d.toNat]
  | .fsub _ _ d _ _ _ => [d.toNat]
  | .fmul _ _ d _ _ _ => [d.toNat]
  | .ffma _ _ d _ _ _ => [d.toNat]
  | .ffms _ _ d _ _ _ => [d.toNat]
  | .fnma _ _ d _ _ _ => [d.toNat]
  | .haddBf16x2 _ _ d _ _ _ => [d.toNat]
  | .hmulBf16x2 _ _ d _ _ _ => [d.toNat]
  | .hfmaBf16x2 _ _ d _ _ _ => [d.toNat]
  | .fdot2Bf16 _ _ d _ _ _ => [d.toNat]
  | .fmin _ _ d _ _ => [d.toNat]
  | .fmax _ _ d _ _ => [d.toNat]
  | .fabs _ _ d _ => [d.toNat]
  | .fneg _ _ d _ => [d.toNat]
  | .fcopysign _ _ d _ _ => [d.toNat]
  | .fclass _ _ d _ => [d.toNat]
  | .fscale _ _ d _ _ _ => [d.toNat]
  | .frint _ _ d _ _ => [d.toNat]
  | .cvtBf16F32 _ _ d _ _ => [d.toNat]
  | .cvtF32Bf16 _ _ d _ _ => [d.toNat]
  | .cvtE4m3F32 _ _ d _ _ => [d.toNat]
  | .cvtF32E4m3 _ _ d _ _ => [d.toNat]
  | .cvtI32F32 _ _ d _ _ => [d.toNat]
  | .cvtN32F32 _ _ d _ _ => [d.toNat]
  | .cvtF32I32 _ _ d _ _ => [d.toNat]
  | .cvtF32N32 _ _ d _ _ => [d.toNat]
  | .cvtI16I32 _ _ d _ _ => [d.toNat]
  | .cvtI8I32 _ _ d _ _ => [d.toNat]
  | .cvtN16N32 _ _ d _ _ => [d.toNat]
  | .cvtN8N32 _ _ d _ _ => [d.toNat]
  | .shfl _ _ d _ _ => [d.toNat]
  | .shflUp _ _ d _ _ => [d.toNat]
  | .shflDown _ _ d _ _ => [d.toNat]
  | .shflXor _ _ d _ _ => [d.toNat]
  | .ballot _ _ d _ => [d.toNat]
  | .rcp _ _ d _ => [d.toNat]
  | .rsqrt _ _ d _ => [d.toNat]
  | .sqrt _ _ d _ => [d.toNat]
  | .exp2 _ _ d _ => [d.toNat]
  | .log2 _ _ d _ => [d.toNat]
  | .sinpi _ _ d _ => [d.toNat]
  | .cospi _ _ d _ => [d.toNat]
  | .tanh _ _ d _ => [d.toNat]
  | .div _ _ d _ _ => [d.toNat]
  | .divu _ _ d _ _ => [d.toNat]
  | .rem _ _ d _ _ => [d.toNat]
  | .remu _ _ d _ _ => [d.toNat]
  | .fdiv _ _ d _ _ => [d.toNat]
  | .rand _ _ d => [d.toNat]
  | .ld _ _ d _ z _ _ => wideRegs (decide (z.toNat = 3)) d.toNat
  | .lds _ _ d _ z _ _ => wideRegs (decide (z.toNat = 2)) d.toNat
  | .ldRo _ _ d _ z _ _ => wideRegs (decide (z.toNat = 3)) d.toNat
  | .ldAcq _ _ d _ _ z _ => wideRegs (decide (z.toNat = 3)) d.toNat
  | .atomAdd _ _ d _ w _ => wideRegs (decide (w.toNat = 1)) d.toNat
  | .atomMins _ _ d _ w _ => wideRegs (decide (w.toNat = 1)) d.toNat
  | .atomMaxs _ _ d _ w _ => wideRegs (decide (w.toNat = 1)) d.toNat
  | .atomMinu _ _ d _ w _ => wideRegs (decide (w.toNat = 1)) d.toNat
  | .atomMaxu _ _ d _ w _ => wideRegs (decide (w.toNat = 1)) d.toNat
  | .atomAnd _ _ d _ w _ => wideRegs (decide (w.toNat = 1)) d.toNat
  | .atomOr _ _ d _ w _ => wideRegs (decide (w.toNat = 1)) d.toNat
  | .atomXor _ _ d _ w _ => wideRegs (decide (w.toNat = 1)) d.toNat
  | .atomXchg _ _ d _ w _ => wideRegs (decide (w.toNat = 1)) d.toNat
  | .atomCas _ _ d _ w _ => wideRegs (decide (w.toNat = 1)) d.toNat
  | .atomFadd _ _ d _ _ => [d.toNat]
  | .atomFmin _ _ d _ _ => [d.toNat]
  | .atomFmax _ _ d _ _ => [d.toNat]
  | .watch _ _ d _ _ _ => [d.toNat]
  | .cmLd _ _ d _ z _ => wideRegs (decide (z.toNat = 1)) d.toNat
  | .cmAdd _ _ d _ z _ _ _ => wideRegs (decide (z.toNat = 1)) d.toNat
  | .cmClaim _ _ d _ _ _ _ => [d.toNat, pairHi d.toNat]
  | .cmWait _ _ d _ z _ => wideRegs (decide (z.toNat = 1)) d.toNat
  | .cmLsn _ _ d _ => [d.toNat, pairHi d.toNat]
  | .tcp _ _ d _ _ _ => [d.toNat]
  | .tcpRed _ _ d _ _ _ => [d.toNat]
  | .tcpPost _ _ d _ _ _ => [d.toNat]
  | .ctrLd _ d _ _ _ => [d.toNat]
  | .call _ _ => [54, 55]
  | .jmpl _ _ => [54, 55]
  | .kget _ _ d _ => [d.toNat]
  | .pget _ _ d => [d.toNat]
  | .vinfo _ _ d _ => [d.toNat]
  | .rdsr _ _ d _ => [d.toNat]
  | .rdclk _ _ d => [d.toNat, pairHi d.toNat]
  | _ => []

/-- The predicates a word reads besides its guard. -/
def Instr.predReads : Instr → List Nat
  | .pand _ _ _ a b => [a.toNat, b.toNat]
  | .por _ _ _ a b => [a.toNat, b.toNat]
  | .pxor _ _ _ a b => [a.toNat, b.toNat]
  | .pandn _ _ _ a b => [a.toNat, b.toNat]
  | .pget _ _ _ => [0, 1, 2, 3, 4, 5, 6]
  | _ => []

/-- The predicates a word writes. -/
def Instr.predWrites : Instr → List Nat
  | .cmpEq _ _ d _ _ => [d.toNat]
  | .cmpNe _ _ d _ _ => [d.toNat]
  | .cmpLt _ _ d _ _ => [d.toNat]
  | .cmpLe _ _ d _ _ => [d.toNat]
  | .cmpLtu _ _ d _ _ => [d.toNat]
  | .cmpLeu _ _ d _ _ => [d.toNat]
  | .cmpTst _ _ d _ _ => [d.toNat]
  | .fcmpEq _ _ d _ _ => [d.toNat]
  | .fcmpNe _ _ d _ _ => [d.toNat]
  | .fcmpLt _ _ d _ _ => [d.toNat]
  | .fcmpLe _ _ d _ _ => [d.toNat]
  | .fcmpUn _ _ d _ _ => [d.toNat]
  | .pand _ _ d _ _ => [d.toNat]
  | .por _ _ d _ _ => [d.toNat]
  | .pxor _ _ d _ _ => [d.toNat]
  | .pandn _ _ d _ _ => [d.toNat]
  | .pnez _ _ d _ => [d.toNat]
  | .pset _ _ _ => [0, 1, 2, 3, 4, 5, 6]
  | _ => []

/-- The k registers a word writes. -/
def Instr.kWrites : Instr → List Nat
  | .kset _ _ d _ => [d.toNat]
  | _ => []

/-- The shape handles a word names as a source. -/
def Instr.shapeReads : Instr → List Nat
  | .shst _ s _ _ _ => [s.toNat]
  | .shmod _ s _ _ _ _ => [s.toNat]
  | .tcp _ s _ _ _ _ => [s.toNat]
  | .tcpRed _ s _ _ _ _ => [s.toNat]
  | .tcpPost _ s _ _ _ _ => [s.toNat]
  | .mma _ s _ _ n _ _ => [s.toNat, n.toNat]
  | .mmaGather _ s _ _ n _ _ _ => [s.toNat, n.toNat]
  | .accLd _ s _ _ _ _ => [s.toNat]
  | .accSt _ s _ _ _ _ => [s.toNat]
  | _ => []

/-- The shape handles a word writes. -/
def Instr.shapeWrites : Instr → List Nat
  | .shld _ s _ _ _ => [s.toNat]
  | .shmod _ s _ _ _ _ => [s.toNat]
  | _ => []

/-- The token a word sets and its lookahead count (R137). -/
def Instr.token : Instr → Option (Nat × Nat)
  | .ld _ _ _ _ _ t l => some (t.toNat, l.toNat)
  | .lds _ _ _ _ _ t l => some (t.toNat, l.toNat)
  | .st _ _ _ _ _ t l => some (t.toNat, l.toNat)
  | .ldRo _ _ _ _ _ t l => some (t.toNat, l.toNat)
  | .ldAcq _ _ _ _ _ _ t => some (t.toNat, 0)
  | .stRel _ _ _ _ _ _ t => some (t.toNat, 0)
  | .pf _ _ _ t l => some (t.toNat, l.toNat)
  | .atomAdd _ _ _ _ _ t => some (t.toNat, 0)
  | .atomMins _ _ _ _ _ t => some (t.toNat, 0)
  | .atomMaxs _ _ _ _ _ t => some (t.toNat, 0)
  | .atomMinu _ _ _ _ _ t => some (t.toNat, 0)
  | .atomMaxu _ _ _ _ _ t => some (t.toNat, 0)
  | .atomAnd _ _ _ _ _ t => some (t.toNat, 0)
  | .atomOr _ _ _ _ _ t => some (t.toNat, 0)
  | .atomXor _ _ _ _ _ t => some (t.toNat, 0)
  | .atomXchg _ _ _ _ _ t => some (t.toNat, 0)
  | .atomCas _ _ _ _ _ t => some (t.toNat, 0)
  | .atomFadd _ _ _ _ t => some (t.toNat, 0)
  | .atomFmin _ _ _ _ t => some (t.toNat, 0)
  | .atomFmax _ _ _ _ t => some (t.toNat, 0)
  | .fence _ _ _ t => some (t.toNat, 0)
  | .seal _ _ _ _ _ t => some (t.toNat, 0)
  | .unseal _ _ _ _ _ t => some (t.toNat, 0)
  | .watch _ _ _ _ _ t => some (t.toNat, 0)
  | .cmLd _ _ _ _ _ t => some (t.toNat, 0)
  | .cmSt _ _ _ _ _ _ t _ => some (t.toNat, 0)
  | .cmAdd _ _ _ _ _ _ t _ => some (t.toNat, 0)
  | .cmClaim _ _ _ _ _ t _ => some (t.toNat, 0)
  | .cmWait _ _ _ _ _ t => some (t.toNat, 0)
  | .cmLsn _ _ _ t => some (t.toNat, 0)
  | .cmLaunch _ _ _ _ _ t _ => some (t.toNat, 0)
  | .cmPte _ _ _ _ _ t _ => some (t.toNat, 0)
  | .fenceSeq _ _ _ t => some (t.toNat, 0)
  | .fenceSeqAll _ _ _ t => some (t.toNat, 0)
  | .shld _ _ _ t l => some (t.toNat, l.toNat)
  | .shst _ _ _ t l => some (t.toNat, l.toNat)
  | .shmod _ _ _ _ t l => some (t.toNat, l.toNat)
  | .tcp _ _ _ _ t l => some (t.toNat, l.toNat)
  | .tcpRed _ _ _ _ t l => some (t.toNat, l.toNat)
  | .tcpPost _ _ _ _ t l => some (t.toNat, l.toNat)
  | .ctrAdd _ _ _ t l => some (t.toNat, l.toNat)
  | .ctrLd _ _ _ t l => some (t.toNat, l.toNat)
  | .ringArm _ _ _ t l => some (t.toNat, l.toNat)
  | .mma _ _ _ _ _ t l => some (t.toNat, l.toNat)
  | .mmaGather _ _ _ _ _ _ t l => some (t.toNat, l.toNat)
  | .accClr _ _ t l => some (t.toNat, l.toNat)
  | .accLd _ _ _ _ t l => some (t.toNat, l.toNat)
  | .accSt _ _ _ _ t l => some (t.toNat, l.toNat)
  | .gsend _ _ _ _ t l => some (t.toNat, l.toNat)
  | .qfence _ _ _ _ t l => some (t.toNat, l.toNat)
  | _ => none

/-- The pipe of a word (R130). -/
def Instr.pipe : Instr → Pipe
  | .fadd _ _ _ _ _ _ => .F
  | .fsub _ _ _ _ _ _ => .F
  | .fmul _ _ _ _ _ _ => .F
  | .ffma _ _ _ _ _ _ => .F
  | .ffms _ _ _ _ _ _ => .F
  | .fnma _ _ _ _ _ _ => .F
  | .haddBf16x2 _ _ _ _ _ _ => .F
  | .hmulBf16x2 _ _ _ _ _ _ => .F
  | .hfmaBf16x2 _ _ _ _ _ _ => .F
  | .fdot2Bf16 _ _ _ _ _ _ => .F
  | .fmin _ _ _ _ _ => .F
  | .fmax _ _ _ _ _ => .F
  | .fabs _ _ _ _ => .F
  | .fneg _ _ _ _ => .F
  | .fcopysign _ _ _ _ _ => .F
  | .fclass _ _ _ _ => .F
  | .fcmpEq _ _ _ _ _ => .F
  | .fcmpNe _ _ _ _ _ => .F
  | .fcmpLt _ _ _ _ _ => .F
  | .fcmpLe _ _ _ _ _ => .F
  | .fcmpUn _ _ _ _ _ => .F
  | .fscale _ _ _ _ _ _ => .F
  | .frint _ _ _ _ _ => .F
  | .cvtBf16F32 _ _ _ _ _ => .X
  | .cvtF32Bf16 _ _ _ _ _ => .X
  | .cvtE4m3F32 _ _ _ _ _ => .X
  | .cvtF32E4m3 _ _ _ _ _ => .X
  | .cvtI32F32 _ _ _ _ _ => .X
  | .cvtN32F32 _ _ _ _ _ => .X
  | .cvtF32I32 _ _ _ _ _ => .X
  | .cvtF32N32 _ _ _ _ _ => .X
  | .cvtI16I32 _ _ _ _ _ => .X
  | .cvtI8I32 _ _ _ _ _ => .X
  | .cvtN16N32 _ _ _ _ _ => .X
  | .cvtN8N32 _ _ _ _ _ => .X
  | .shfl _ _ _ _ _ => .X
  | .shflUp _ _ _ _ _ => .X
  | .shflDown _ _ _ _ _ => .X
  | .shflXor _ _ _ _ _ => .X
  | .ballot _ _ _ _ => .X
  | .rcp _ _ _ _ => .X
  | .rsqrt _ _ _ _ => .X
  | .sqrt _ _ _ _ => .X
  | .exp2 _ _ _ _ => .X
  | .log2 _ _ _ _ => .X
  | .sinpi _ _ _ _ => .X
  | .cospi _ _ _ _ => .X
  | .tanh _ _ _ _ => .X
  | .div _ _ _ _ _ => .X
  | .divu _ _ _ _ _ => .X
  | .rem _ _ _ _ _ => .X
  | .remu _ _ _ _ _ => .X
  | .fdiv _ _ _ _ _ => .X
  | .rand _ _ _ => .X
  | .ld _ _ _ _ _ _ _ => .M
  | .lds _ _ _ _ _ _ _ => .M
  | .st _ _ _ _ _ _ _ => .M
  | .ldRo _ _ _ _ _ _ _ => .M
  | .ldAcq _ _ _ _ _ _ _ => .M
  | .stRel _ _ _ _ _ _ _ => .M
  | .pf _ _ _ _ _ => .M
  | .atomAdd _ _ _ _ _ _ => .M
  | .atomMins _ _ _ _ _ _ => .M
  | .atomMaxs _ _ _ _ _ _ => .M
  | .atomMinu _ _ _ _ _ _ => .M
  | .atomMaxu _ _ _ _ _ _ => .M
  | .atomAnd _ _ _ _ _ _ => .M
  | .atomOr _ _ _ _ _ _ => .M
  | .atomXor _ _ _ _ _ _ => .M
  | .atomXchg _ _ _ _ _ _ => .M
  | .atomCas _ _ _ _ _ _ => .M
  | .atomFadd _ _ _ _ _ => .M
  | .atomFmin _ _ _ _ _ => .M
  | .atomFmax _ _ _ _ _ => .M
  | .fence _ _ _ _ => .M
  | .seal _ _ _ _ _ _ => .M
  | .unseal _ _ _ _ _ _ => .M
  | .watch _ _ _ _ _ _ => .M
  | .cmLd _ _ _ _ _ _ => .M
  | .cmSt _ _ _ _ _ _ _ _ => .M
  | .cmAdd _ _ _ _ _ _ _ _ => .M
  | .cmClaim _ _ _ _ _ _ _ => .M
  | .cmWait _ _ _ _ _ _ => .M
  | .cmLsn _ _ _ _ => .M
  | .cmLaunch _ _ _ _ _ _ _ => .M
  | .cmPte _ _ _ _ _ _ _ => .M
  | .fenceSeq _ _ _ _ => .M
  | .fenceSeqAll _ _ _ _ => .M
  | .shld _ _ _ _ _ => .M
  | .shst _ _ _ _ _ => .M
  | .shmod _ _ _ _ _ _ => .M
  | .tcp _ _ _ _ _ _ => .M
  | .tcpRed _ _ _ _ _ _ => .M
  | .tcpPost _ _ _ _ _ _ => .M
  | .ctrAdd _ _ _ _ _ => .M
  | .ctrLd _ _ _ _ _ => .M
  | .ringArm _ _ _ _ _ => .M
  | .mma _ _ _ _ _ _ _ => .M
  | .mmaGather _ _ _ _ _ _ _ _ => .M
  | .accClr _ _ _ _ => .M
  | .accLd _ _ _ _ _ _ => .M
  | .accSt _ _ _ _ _ _ => .M
  | .gsend _ _ _ _ _ _ => .M
  | .qfence _ _ _ _ _ _ => .M
  | _ => .I

/-- The control-transfer words (R131 rule 4). -/
def Instr.isTransfer : Instr → Bool
  | .br _ _ => true
  | .call _ _ => true
  | .jmp _ _ => true
  | .jmpl _ _ => true
  | .exit _ _ _ => true
  | .trap _ _ => true
  | .sysc _ _ => true
  | .brk _ _ => true
  | .rti _ => true
  | _ => false

/-- The words that stand alone (R131 rule 5). -/
def Instr.standsAlone : Instr → Bool
  | .wait _ _ => true
  | .sleepUntil _ _ => true
  | .barArrive _ _ _ => true
  | .barWait _ _ _ => true
  | .barArriveExp _ _ _ _ => true
  | .reconv _ => true
  | .safept => true
  | .fbar _ => true
  | _ => false

/-- The chain bit of a word (R129). -/
def Instr.chained : Instr → Bool
  | .nop c _ => c
  | .yield c _ => c
  | .add c _ _ _ _ => c
  | .sub c _ _ _ _ => c
  | .mul c _ _ _ _ => c
  | .mulhs c _ _ _ _ => c
  | .mulhu c _ _ _ _ => c
  | .mins c _ _ _ _ => c
  | .maxs c _ _ _ _ => c
  | .adds c _ _ _ _ => c
  | .and c _ _ _ _ => c
  | .or c _ _ _ _ => c
  | .xor c _ _ _ _ => c
  | .andn c _ _ _ _ => c
  | .orn c _ _ _ _ => c
  | .xnor c _ _ _ _ => c
  | .minu c _ _ _ _ => c
  | .maxu c _ _ _ _ => c
  | .shl c _ _ _ _ => c
  | .shr c _ _ _ _ => c
  | .sar c _ _ _ _ => c
  | .rol c _ _ _ _ => c
  | .ror c _ _ _ _ => c
  | .clz c _ _ _ => c
  | .popc c _ _ _ => c
  | .brev c _ _ _ => c
  | .cmpEq c _ _ _ _ => c
  | .cmpNe c _ _ _ _ => c
  | .cmpLt c _ _ _ _ => c
  | .cmpLe c _ _ _ _ => c
  | .cmpLtu c _ _ _ _ => c
  | .cmpLeu c _ _ _ _ => c
  | .cmpTst c _ _ _ _ => c
  | .addi c _ _ _ _ => c
  | .andi c _ _ _ _ => c
  | .ori c _ _ _ _ => c
  | .xori c _ _ _ _ => c
  | .shli c _ _ _ _ => c
  | .shri c _ _ _ _ => c
  | .sari c _ _ _ _ => c
  | .movi c _ _ _ => c
  | .movsh c _ _ _ => c
  | .add64 c _ _ _ _ => c
  | .sub64 c _ _ _ _ => c
  | .addsx64 c _ _ _ _ => c
  | .addzx64 c _ _ _ _ => c
  | .shl64 c _ _ _ _ => c
  | .shr64 c _ _ _ _ => c
  | .sar64 c _ _ _ _ => c
  | .mul64 c _ _ _ _ => c
  | .adr c _ _ _ => c
  | .fadd c _ _ _ _ _ => c
  | .fsub c _ _ _ _ _ => c
  | .fmul c _ _ _ _ _ => c
  | .ffma c _ _ _ _ _ => c
  | .ffms c _ _ _ _ _ => c
  | .fnma c _ _ _ _ _ => c
  | .haddBf16x2 c _ _ _ _ _ => c
  | .hmulBf16x2 c _ _ _ _ _ => c
  | .hfmaBf16x2 c _ _ _ _ _ => c
  | .fdot2Bf16 c _ _ _ _ _ => c
  | .fmin c _ _ _ _ => c
  | .fmax c _ _ _ _ => c
  | .fabs c _ _ _ => c
  | .fneg c _ _ _ => c
  | .fcopysign c _ _ _ _ => c
  | .fclass c _ _ _ => c
  | .fcmpEq c _ _ _ _ => c
  | .fcmpNe c _ _ _ _ => c
  | .fcmpLt c _ _ _ _ => c
  | .fcmpLe c _ _ _ _ => c
  | .fcmpUn c _ _ _ _ => c
  | .fscale c _ _ _ _ _ => c
  | .frint c _ _ _ _ => c
  | .cvtBf16F32 c _ _ _ _ => c
  | .cvtF32Bf16 c _ _ _ _ => c
  | .cvtE4m3F32 c _ _ _ _ => c
  | .cvtF32E4m3 c _ _ _ _ => c
  | .cvtI32F32 c _ _ _ _ => c
  | .cvtN32F32 c _ _ _ _ => c
  | .cvtF32I32 c _ _ _ _ => c
  | .cvtF32N32 c _ _ _ _ => c
  | .cvtI16I32 c _ _ _ _ => c
  | .cvtI8I32 c _ _ _ _ => c
  | .cvtN16N32 c _ _ _ _ => c
  | .cvtN8N32 c _ _ _ _ => c
  | .shfl c _ _ _ _ => c
  | .shflUp c _ _ _ _ => c
  | .shflDown c _ _ _ _ => c
  | .shflXor c _ _ _ _ => c
  | .ballot c _ _ _ => c
  | .rcp c _ _ _ => c
  | .rsqrt c _ _ _ => c
  | .sqrt c _ _ _ => c
  | .exp2 c _ _ _ => c
  | .log2 c _ _ _ => c
  | .sinpi c _ _ _ => c
  | .cospi c _ _ _ => c
  | .tanh c _ _ _ => c
  | .div c _ _ _ _ => c
  | .divu c _ _ _ _ => c
  | .rem c _ _ _ _ => c
  | .remu c _ _ _ _ => c
  | .fdiv c _ _ _ _ => c
  | .rand c _ _ => c
  | .ld c _ _ _ _ _ _ => c
  | .lds c _ _ _ _ _ _ => c
  | .st c _ _ _ _ _ _ => c
  | .ldRo c _ _ _ _ _ _ => c
  | .ldAcq c _ _ _ _ _ _ => c
  | .stRel c _ _ _ _ _ _ => c
  | .pf c _ _ _ _ => c
  | .atomAdd c _ _ _ _ _ => c
  | .atomMins c _ _ _ _ _ => c
  | .atomMaxs c _ _ _ _ _ => c
  | .atomMinu c _ _ _ _ _ => c
  | .atomMaxu c _ _ _ _ _ => c
  | .atomAnd c _ _ _ _ _ => c
  | .atomOr c _ _ _ _ _ => c
  | .atomXor c _ _ _ _ _ => c
  | .atomXchg c _ _ _ _ _ => c
  | .atomCas c _ _ _ _ _ => c
  | .atomFadd c _ _ _ _ => c
  | .atomFmin c _ _ _ _ => c
  | .atomFmax c _ _ _ _ => c
  | .fence c _ _ _ => c
  | .seal c _ _ _ _ _ => c
  | .unseal c _ _ _ _ _ => c
  | .watch c _ _ _ _ _ => c
  | .cmLd c _ _ _ _ _ => c
  | .cmSt c _ _ _ _ _ _ _ => c
  | .cmAdd c _ _ _ _ _ _ _ => c
  | .cmClaim c _ _ _ _ _ _ => c
  | .cmWait c _ _ _ _ _ => c
  | .cmLsn c _ _ _ => c
  | .cmLaunch c _ _ _ _ _ _ => c
  | .cmPte c _ _ _ _ _ _ => c
  | .fenceSeq c _ _ _ => c
  | .fenceSeqAll c _ _ _ => c
  | .shld c _ _ _ _ => c
  | .shst c _ _ _ _ => c
  | .shmod c _ _ _ _ _ => c
  | .tcp c _ _ _ _ _ => c
  | .tcpRed c _ _ _ _ _ => c
  | .tcpPost c _ _ _ _ _ => c
  | .ctrAdd c _ _ _ _ => c
  | .ctrLd c _ _ _ _ => c
  | .ringArm c _ _ _ _ => c
  | .mma c _ _ _ _ _ _ => c
  | .mmaGather c _ _ _ _ _ _ _ => c
  | .accClr c _ _ _ => c
  | .accLd c _ _ _ _ _ => c
  | .accSt c _ _ _ _ _ => c
  | .gsend c _ _ _ _ _ => c
  | .qfence c _ _ _ _ _ => c
  | .kget c _ _ _ => c
  | .kset c _ _ _ => c
  | .pand c _ _ _ _ => c
  | .por c _ _ _ _ => c
  | .pxor c _ _ _ _ => c
  | .pandn c _ _ _ _ => c
  | .pnez c _ _ _ => c
  | .pget c _ _ => c
  | .pset c _ _ => c
  | .vinfo c _ _ _ => c
  | .rdsr c _ _ _ => c
  | .wrsr c _ _ _ => c
  | .rdclk c _ _ => c
  | .dcwb c _ _ _ => c
  | .icinv c _ _ _ => c
  | .qbind c _ _ _ => c
  | .qunbind c _ _ => c
  | .gbind c _ _ _ _ => c
  | .gunbind c _ _ _ => c
  | _ => false

/-- The E-form words, which carry no guard (R132, R199). -/
def Instr.isEngine : Instr → Bool
  | .shld _ _ _ _ _ => true
  | .shst _ _ _ _ _ => true
  | .shmod _ _ _ _ _ _ => true
  | .tcp _ _ _ _ _ _ => true
  | .tcpRed _ _ _ _ _ _ => true
  | .tcpPost _ _ _ _ _ _ => true
  | .ctrAdd _ _ _ _ _ => true
  | .ctrLd _ _ _ _ _ => true
  | .ringArm _ _ _ _ _ => true
  | .mma _ _ _ _ _ _ _ => true
  | .mmaGather _ _ _ _ _ _ _ _ => true
  | .accClr _ _ _ _ => true
  | .accLd _ _ _ _ _ _ => true
  | .accSt _ _ _ _ _ _ => true
  | .gsend _ _ _ _ _ _ => true
  | .qfence _ _ _ _ _ _ => true
  | _ => false

/-- The `cm.` words (R193). -/
def Instr.isControlMemory : Instr → Bool
  | .cmLd _ _ _ _ _ _ => true
  | .cmSt _ _ _ _ _ _ _ _ => true
  | .cmAdd _ _ _ _ _ _ _ _ => true
  | .cmClaim _ _ _ _ _ _ _ => true
  | .cmWait _ _ _ _ _ _ => true
  | .cmLsn _ _ _ _ => true
  | .cmLaunch _ _ _ _ _ _ _ => true
  | .cmPte _ _ _ _ _ _ _ => true
  | _ => false

/-- The barrier words (R189). -/
def Instr.isBarrier : Instr → Bool
  | .barArrive _ _ _ => true
  | .barWait _ _ _ => true
  | .barArriveExp _ _ _ _ => true
  | _ => false

/-- The words that end every lookahead window (R137). -/
def Instr.endsWindows : Instr → Bool
  | .wait _ _ => true
  | .sleepUntil _ _ => true
  | .barArrive _ _ _ => true
  | .barWait _ _ _ => true
  | .barArriveExp _ _ _ _ => true
  | .reconv _ => true
  | .exit _ _ _ => true
  | .safept => true
  | _ => false

/-- The ports a word pops, in order (R135). -/
def Instr.pops (i : Instr) : List Nat := i.reads.filter fun r => decide (56 ≤ r)

/-- The ports a word pushes (R135). -/
def Instr.pushes (i : Instr) : List Nat := i.writes.filter fun r => decide (56 ≤ r)

end Sys2Proof
end

