-- ==== Sys2Proof/Config.lean ====
section
/-! DEFINITION. What the manual leaves to the device: constants without a body, so that a statement holds
whatever they are. Each is applied to the step counter `seq` of State or to what it depends on. -/

namespace Sys2Proof.Config

/-- Which of several enabled steps comes next (R6, R7): applied to the step counter. DESIGN CHOICE, log entry 5. -/
opaque turn : Nat → Nat

/-- Ticks of clk that pass in a step (R6): applied to the step counter. DESIGN CHOICE, log entry 7. -/
opaque elapsed : Nat → Nat

/-- A member of a set of allowed results (R7): applied to the step counter. DESIGN CHOICE, log entry 6. -/
opaque pick : Nat → Nat

/-- A member of a set of allowed results (R7), where a step draws several: applied to the step counter and the number of
the draw. DESIGN CHOICE, log entry 6. -/
opaque pickAt : Nat → Nat → Nat

/-- The cores whose memory issue queue accepts no word (R136; the manual gives the queue no depth): applied to the step
counter. DESIGN CHOICE, log entry 51. -/
opaque memBusy : Nat → List Nat

/-- The member of a two-element allowed set of R167: applied to the function, the operand, and the step counter with
the lane: each lane's result is a draw of its own.
DESIGN CHOICE, log entry 14. -/
opaque pickUpper : Nat → BitVec 32 → Nat → Bool

/-- The unit in which module memory is spread over the home agents, as a power of two of lines; the manual gives no map.
DESIGN CHOICE, log entry 9. -/
opaque homeGrain : Nat

/-- The die whose home agent serves the first unit of a group of 24; the others follow in turn, so each stack holds 64 GiB
(R16). DESIGN CHOICE, log entry 9. -/
opaque homeDie : Nat → Nat

/-- Bytes of a loop key, which the manual does not give (R92). DESIGN CHOICE, log entry 12. -/
opaque loopKeyBytes : Nat

/-- Output bits for which KMAC256 is computed where R92 takes its first 8 bytes, beyond those 64; the manual does not give
them. DESIGN CHOICE, log entry 12. -/
opaque tagMoreBits : Nat

/-- The bytes of the firmware image of a version (R280), which the manual does not give. DESIGN CHOICE, log entry 12. -/
opaque firmwareImage : Nat → List Byte

/-- Whether the firmware image of a version carries a good signature (R280). DESIGN CHOICE, log entry 12. -/
opaque imageSigned : Nat → Bool

/-- The bytes of the state table at a version (R280, R282), which the manual does not give. DESIGN CHOICE, log entry 12. -/
opaque stateTable : Nat → List Byte

/-- The owner in whose contexts' HDM ranges an address of module memory lies (R266), 0 for none; the manual gives no such
map. DESIGN CHOICE, log entry 38. -/
opaque hdmOwner : Nat → Nat

/-- The Ed448 signature of R280 by the module's identity key. DESIGN CHOICE, log entry 12. -/
opaque sign : List Nat → Nat

/-- The measured energy a die draws per 1,000 ticks is an outside reading; the governor's average uses it. The
number of the die whose meter draws most when several are equal. DESIGN CHOICE, log entry 6. -/
opaque tie : Nat → Nat

/-- A word address's stale or new copy while code is being patched (R246): applied to the address and the step
counter. DESIGN CHOICE, log entry 13. -/
opaque stale : Nat → Nat → Bool

/-- A register read inside a lookahead window (R138): true for the instruction's result where it exists already.
DESIGN CHOICE, log entry 13. -/
opaque windowWrite : Nat → Nat → Bool

/-- Whether the host leaves the ATS requests of a step unanswered (R367), by step: the spec leaves it to the host (DESIGN
CHOICE, log entry 16). -/
opaque atsSilent : Nat → Bool

/-- Whether the active firmware complex gives its watchdog a heartbeat in a step (R369; DESIGN CHOICE, log entry 40). -/
opaque heartbeat : Nat → Bool

/-- Whether a TLB entry that could be used is used, or the tables are walked (R331): applied to the step counter.
DESIGN CHOICE, log entry 10. -/
opaque tlbHit : Nat → Bool

end Sys2Proof.Config
end

