-- ==== Sys2Proof/Machine/State.lean ====
section
/-! DEFINITION. The state of one module of the pod: its cores and their tasks, memory and the home agents, the front
end, the loop tap, the fabric, the guest sockets, the service registers and the firmware. Plain data. -/

namespace Sys2Proof.Machine

/-- The reasons a run of the model ends in a fault. -/
inductive Fault where
  /-- No step of the model raises it: every fault of the manual is taken as the manual describes (safe). -/
  | unreachable
  deriving DecidableEq, Repr

/-- The reasons the model gives no meaning. -/
inductive Refusal where
  /-- An arm of exec whose instruction has no meaning yet (safe: the run stops). -/
  | notModelled (mnemonic : String)
  /-- `brk` with a debug agent that system software has enabled: what the agent does is not in the manual (R250)
  (safe: the run stops). -/
  | debugAgent
  deriving DecidableEq, Repr

/-! ### Threads, file groups and pad groups -/

/-- Where bytes live: this module's memory or the host's by key, the pad group's scratchpad, another module, or a
view page without storage, which reads as an identity element (R55, R80). -/
inductive Loc where
  | mem (key : Nat)
  | spad (core : Nat) (off : Nat)
  | remote (module : Nat) (pa : Nat)
  | blank (element : Nat) (size : Nat)
  deriving DecidableEq, Repr

/-- WAITKIND of R35, with the states a thread waits in at a word that does not complete at once. -/
inductive WaitKind where
  | ready | eft | sleep | barrier | cmWait | reconv
  | exiting (d nsucc : Nat)      -- `exit` waits for the thread's tokens (R237)
  | saving (mask : Nat)          -- `safept` waits for the thread's tokens (R243)
  | cache (lo hi : Nat)          -- `dcwb` waits for the thread's stores to be visible (R246)
  | binding (sock q : Nat)       -- `gbind` and `gunbind` wait for the guest die (R252)
  deriving DecidableEq, Repr

/-- A token-setting instruction outstanding for a thread (R69, R136, R137). -/
structure Out where
  inst : Nat                 -- the issue it belongs to
  token : Nat
  dsts : List Nat            -- registers it has yet to write
  window : Nat               -- words left in its lookahead window
  ready : Bool               -- complete for this lane
  pc : BitVec 57             -- its word
  index : Nat                -- the word's place in its chain group, and the group's length (R299)
  length : Nat
  level : Nat                -- handler level of the thread at its issue
  deriving DecidableEq, Repr

/-- Where a thread stands at a barrier (R190). -/
inductive AtBarrier where
  | no
  | arriving (level bar : Nat) (waits : Bool) (weight : Option Nat)   -- the uD of `bar.arrive.exp`, read at issue
  | waiting (level bar : Nat)
  | released   -- its phase is complete; it re-enters the PC table when its level issues again (R191, R303)
  deriving DecidableEq, Repr

/-- A thread. -/
structure Thread where
  pc : BitVec 57
  regs : Tab Word            -- g1-g55, default 0
  preds : BitVec 7           -- p0-p6
  rng : BitVec 64
  wait : WaitKind
  waitArg : BitVec 32
  waitSub : Nat
  barrier : AtBarrier
  level : Nat                -- handler level of the thread (R303)
  system : Bool              -- mode (R247)
  exited : Bool
  parked : Option (BitVec 64)  -- at a safe point with its live mask (R243)
  floor : Nat                -- F
  mark : Nat                 -- W
  outs : List Out
  own : Tab Nat              -- write times of its own stores, by byte key (R64)
  tokHeld : List (Nat × Nat) -- tokens held until the ring's DONE reaches a count (R54)
  lastSent : Option Nat      -- the access of its last broadcast (R197)
  lastLsn : Option Nat       -- that record's LSN once it has returned
  quiet : Nat                -- cause it parked on and retries, of which no new record is written (R330); 0 = none
  quietPage : Nat            -- the 64 KiB page of that cause
  seen : Tab Nat             -- write times of other threads' stores that a file or pad barrier put before its own
                             -- accesses, by byte key (R192)
  age : Nat                  -- ageing counter of its run (R48)
  yielded : Nat              -- issue cycles of lowered preference left (R174)
  deriving DecidableEq, Repr

/-- A barrier word (R34), with the largest mark W of the arrivals counted and the write times of their stores, by byte
key (R192). -/
structure BarWord where
  exp : Nat
  phase : Nat
  maxMark : Nat
  seen : Tab Nat
  deriving DecidableEq, Repr

/-- A bank of special registers 16-23 (R302). -/
structure TrapBank where
  cause : BitVec 32
  epc : BitVec 64
  addr : BitVec 64
  info : BitVec 32
  word : BitVec 32
  nht : Nat
  pmode : Bool
  deriving DecidableEq, Repr

/-- A parked eft, or lanes held for want of an eft number (R50, R332). -/
structure Eft where
  num : Nat                  -- 0-15; 16 when held
  lanes : List Nat
  pc : BitVec 57
  va : Nat
  cause : Nat
  write : Bool
  held : Bool
  retry : Bool               -- a retry has been asked for (R330)
  deriving DecidableEq, Repr

/-- What a trap is delivered with (R301, R302). -/
structure TrapInfo where
  cause : Nat
  precise : Bool
  epc : Nat
  addr : Nat
  index : Nat          -- word index in the chain group
  length : Nat         -- group length
  n : Nat              -- the number of trap, sysc and brk
  word : Nat
  start : Nat          -- word address of the group's first word
  deriving DecidableEq, Repr

/-- A trap of threads of a level that is not the current one: it waits until that level is current again (R300, R303). -/
structure PendTrap where
  lanes : List Nat
  info : TrapInfo
  deriving DecidableEq, Repr

/-- Lanes that stop at their next `reconv`, with the eft lanes that have yet to reach it (R51). -/
structure Split where
  lanes : List Nat
  efts : List Nat
  reached : List (Nat × BitVec 57)  -- eft lanes that have come to a `reconv` since: lane and its address
  restored : Bool := false   -- made at a restore, where the image does not name its lanes (R54)
  level : Nat := 0           -- the handler level of the run that split (R303)
  deriving DecidableEq, Repr

/-- A file group. -/
structure FileGroup where
  kregs : Tab Word           -- k0-k31, default 0
  bars : List BarWord        -- 8
  level : Nat
  bank1 : TrapBank
  bank2 : TrapBank
  tscr : List Word           -- 6
  threads : List Thread
  exited : Bool
  halted : Bool
  efts : List Eft
  splits : List Split
  pendTraps : List PendTrap
  delivered : Tab Nat        -- promise revisions delivered, by ring count (R338)
  fetched : List (Nat × Word)  -- words fetched ahead (R246)
  born : Nat                 -- clk when its residency began
  cycles : Nat               -- CYC before that (modulo 2^32)
  ahead : Nat := 0           -- clk since which packets may have been fetched ahead (R246)
  deriving DecidableEq, Repr

/-- A 64-byte shape record as one number, byte 0 lowest (R201). -/
abbrev Shape := BitVec 512

/-- A copy-ring entry that the engine has taken (R208, R210), or an armed entry of the trigger table (R215). -/
structure Entry where
  id : Nat
  core : Nat
  pad : Nat                  -- the pad group that published it
  ctx : Nat
  launch : Nat
  count : Nat                -- its ring count
  op : Nat
  cnt : Bool
  follow : Bool
  dst : Nat
  arg : Nat
  thresh : Nat
  tctr : Nat
  cctr : Nat
  shape : Shape
  followA : Shape
  followB : Shape
  floor : Nat                -- F of the publishing thread (R213)
  promise : Nat
  revisions : Nat
  rows : Nat                 -- bytes of the operation done so far
  started : Bool             -- its fetch has left the L2 (R67)
  finished : Bool            -- the operation is complete
  marks : List Nat           -- QFENCE: what it joins
  followId : Nat             -- the follow-on's matrix command, 0 = none placed
  counted : Bool             -- the CNT increment has been performed
  fail : Nat                 -- STATUS 8-15, 0 = none
  stalled : Option Nat       -- cause it stalls with
  stallVa : Nat
  retryAt : Nat              -- next retry of a contribution (R339)
  retryGap : Nat
  firstTry : Nat
  parkedOn : Nat             -- the cause that its last stalled record named, 0 = none (R330)
  fired : Bool               -- armed entries: has fired
  armedDie : Option Nat      -- in the trigger table of this die
  slot : Nat
  maxWt : Nat                -- largest write time of its writes (R77)
  inst : Nat                 -- the word that issued it, 0 = composed by stores
  fg : Nat
  lanes : List Nat           -- threads of that word
  dreg : Nat                 -- D, which receives the promise
  win : Nat := 0             -- RED: the window of the replica being sent, 0 = none yet (R218)
  readAt : Option Nat := none  -- the read time of a fetch that it shares (R67)
  hostWt : Nat := 0          -- largest write time of its writes to host memory (R213)
  tested : Bool := false     -- armed entries: tested when they started (R230)
  held : Option Nat := none  -- RED: the element that no window has taken yet, in the retry buffer (R339)
  deriving DecidableEq, Repr

/-- A command of a core's matrix queue (R222, R224, R225). -/
structure MatCmd where
  id : Nat
  kind : Nat                 -- 1 mma, 2 mma.gather, 3 acc.clr, 4 acc.ld, 5 acc.st
  bank : Nat
  zs : Bool
  a : Shape
  b : Shape
  aSh : Nat
  bSh : Nat
  goff : Nat
  addr : Nat
  steps : Nat                -- steps applied
  rows : Nat                 -- rows written by acc.st
  flags : Nat                -- flags of R121 so far
  sat : Nat
  stalled : Option Nat
  stallVa : Nat
  parkedOn : Nat
  applied : Bool             -- the bank is done; only STAT remains
  inst : Nat                 -- 0 for a follow-on
  fg : Nat
  lanes : List Nat
  entry : Nat                -- ring entry of a follow-on
  ctx : Nat
  maxWt : Nat
  buf : List Byte            -- acc.ld: the bytes read so far
  hostWt : Nat := 0          -- acc.st: largest write time of its writes to host memory
  statSent : Bool := false   -- its status word's update is on its way to another module
  deriving DecidableEq, Repr

/-- A tile of a task's view declaration (R232). -/
structure Tile where
  base : Nat
  pages : Nat
  fmt : Nat
  op : Nat
  deriving DecidableEq, Repr

/-- A pad group on its core. -/
structure Pad where
  core : Nat
  uid : Nat                  -- the model's own: its name
  ctx : Nat
  launch : Nat
  unit : Nat
  unitPos : Nat
  grain : Nat
  index : Nat
  slot : Option Nat          -- spawn slot
  nf : Nat
  nt : Nat
  spad : Nat                 -- 4 KiB units
  lb : Nat
  fgs : List FileGroup
  scratch : Tab Byte
  scratchWt : Tab Nat
  bars : List BarWord        -- 16
  shapes : List Shape        -- 16
  ring : List Entry          -- taken, not retired
  mq : List MatCmd
  accUsed : Bool
  succ : Option (List Nat)   -- successor list fixed by file group 0's last exit
  seed : BitVec 64           -- RNG of file group 0, thread 0, at its exit
  pushed : Bool              -- successors pushed (R238)
  nextPush : Nat
  views : List Tile          -- 4 when the task holds views, else none
  vrec : Nat                 -- view-table record address
  stopped : Bool             -- no thread issues: its context is past step 1 of a save
  spadBad : List Nat         -- scratchpad words with an uncorrectable error (R347)
  endCause : Nat := 0        -- the cause that its end's last stalled record named, 0 = none (R330, R343)
  promised : Nat := 0        -- the largest promise of the ring so far (R211)
  published : List (Nat × Nat) := []  -- stores to NOTIFY: the count they left and the read floor that goes with it (R77, R213)
  deriving DecidableEq, Repr

/-- Barriers of a slice unit, a stack unit or a launch's domain (R28, R342). -/
structure UnitBars where
  level : Nat                -- 2 slice, 3 stack, 4 domain
  launch : Nat
  unit : Nat
  die : Nat
  slice : Nat
  words : List BarWord
  spilled : Bool
  deriving DecidableEq, Repr

/-! ### Memory -/

/-- An older version of a byte (R63, R64, R75). -/
structure Old where
  key : Nat
  val : Byte
  wt : Nat                   -- its write time
  upto : Nat                 -- the write time of the version that replaced it
  deriving DecidableEq, Repr

/-- The pending version of a line (R63). -/
structure Pend where
  line : Nat
  wt : Nat
  bytes : List Host.Cell
  deriving DecidableEq, Repr

/-- A lease that a home agent granted to an L2 slice (R61); holder 192 is the host-side agent's own. -/
structure Lease where
  line : Nat
  holder : Nat
  expiry : Nat
  deriving DecidableEq, Repr

/-- A copy of a line in an L1 (unit = core) or an L2 (unit = slice): its contents are the version at `asOf`.
No expiry: a sealed replica (R68). -/
structure Copy where
  l1 : Bool
  unit : Nat
  line : Nat
  asOf : Nat
  expiry : Option Nat
  deriving DecidableEq, Repr

/-- A TLB entry of a core or of its tile translation engine's walk-ahead (R270, R331, R333): both are in one list
(log entry 10). -/
structure Tlb where
  core : Nat
  ctx : Nat
  va : Nat
  size : Nat
  entry : BitVec 64
  deriving DecidableEq, Repr

/-- What an access in flight does where it is performed. -/
inductive OpKind where
  | load (size dst : Nat) (signed : Bool) (acq : Option Nat)
  | loadRo (size dst : Nat)
  | store (bytes : List Byte) (rel : Option Nat)
  | visible (wt : Nat) (remote : Bool)        -- acknowledged; the token waits for visibility
  | atomic (aop : Nat) (wide : Bool) (xs ys : List Nat) (dst : Nat)
  | prefetch
  | watch (compare : Nat) (dst : Nat) (scope : Nat) (registered : Option Nat)
  | fence (scope : Nat)
  | fenceSeq (all : Bool) (n : Nat)
  | cmLoad (offset size dst : Nat)
  | cmSend (rtype : Nat) (p0 p1 : BitVec 64) (size aux : Nat) (rel sys : Bool) (dst : Nat) (queued : Bool) (lsn : Nat)
  | cmWait (offset size dst : Nat) (compare : Nat)
  | cmLsn (dst ref : Nat)
  | seal (set : Bool) (base pages scope : Nat) (step : Nat) (n : Nat)  -- n: units dealt with, then a write time
  | shapeLoad (handle : Nat)
  | counter (index : Nat) (add : Option Nat) (dst : Nat)
  | publish (op h arg thresh : Nat) (arm : Bool) (dst : Nat)  -- tcp and ring.arm before publication (R212, R216)
  | ringPut (count dst floor : Nat)            -- tcp and ring.arm wait for their entry
  | guest (sock q data : Nat)
  | join (sock q : Nat) (mask : Nat) (marks : List Nat)
  | ats                                        -- an ATS translation request without an answer (R367)
  deriving DecidableEq, Repr

/-- An access in flight: one lane of a load, store, fence or broadcast, the lanes of one aggregated atomic request,
or an engine word of a run. -/
structure Op where
  id : Nat
  inst : Nat
  core : Nat
  fg : Nat
  lanes : List Nat
  ctx : Nat
  va : Nat
  loc : Loc
  kind : OpKind
  afterAll : Bool            -- performed after every earlier token-setting instruction of the thread (R70 case 4)
  hold : Option Nat          -- a store held until this lease expiry (R63)
  packet : Option Nat        -- remote: its fabric packet
  atsSince : Option Nat      -- waiting for an ATS translation since
  fresh : Bool               -- its translation was made before an invalidation now waiting for it
  issued : Nat               -- clk when it was issued (R75)
  met : Option (Nat × Nat)   -- a watch: the version that became current and differed, and its write time (R186)
  deriving DecidableEq, Repr

/-- A tile fetch held in an L2 for a merge window (R67). -/
structure Hold where
  id : Nat
  slice : Nat
  owner : Nat
  fmt : Nat
  keys : List Nat            -- the translated source bytes, in order
  endsAt : Nat
  joined : List Nat          -- entries that read by it
  deriving DecidableEq, Repr

/-- A merge message on its way: a sector for a task's HMAP, or for home memory (R239, R240). -/
structure Merge where
  id : Nat
  ctx : Nat
  launch : Nat
  source : Nat               -- record that sends it
  target : Option Nat        -- record that receives it; none is home memory
  tile : Nat
  page : Nat
  sector : Nat
  decl : Tile
  bytes : List Byte          -- 64
  poison : Bool              -- it comes from a poisoned sector (R344)
  stalled : Option Nat
  stallVa : Nat
  parkedOn : Nat
  die : Option Nat := none   -- the die on which the merging task ended
  deriving DecidableEq, Repr

/-- A live view-table record of the module (R235), and its merge target once chosen: a record, or home memory (R239). -/
structure VRec where
  ctx : Nat
  va : Nat
  launch : Nat
  target : Option (Option Nat)
  tiles : List Tile := []    -- its views' tiles (R233)
  die : Option Nat := none   -- the die on which its task ended
  deriving DecidableEq, Repr

/-- A posted receive window (R217, R219). -/
structure Window where
  id : Nat
  owner : Nat
  ctx : Nat
  key : Nat
  va : Nat
  shape : Shape
  elems : Nat
  expect : Nat
  partials : Tab Nat         -- A80 bits, or a 64-bit integer
  counts : Tab Nat
  recs : List Nat            -- completion records of contributions
  flags : Nat
  elemFlags : Tab Nat        -- flags of the roundings of an element (R219)
  deriving DecidableEq, Repr

/-- A line of 192 bytes of code in a core's instruction cache (R17, R128): what memory held when it was filled, found by
the keys of its bytes. -/
structure ILine where
  core : Nat
  ctx : Nat
  line : Nat                 -- virtual address / 192
  asOf : Nat                 -- clk of the fill
  segs : List (Nat × Nat)    -- (virtual address, key) of its first byte and of a page that begins in it
  deriving DecidableEq, Repr

/-- A page-table slot whose SEAL mark stands before its seal has completed: the access of the `seal` that set it, or 0 and
the LSN of the PTE record that did (R74, R185). -/
structure SealMark where
  slot : Nat
  op : Nat
  lsn : Nat
  deriving DecidableEq, Repr

/-- A sealed line of another module that an L1 or L2 holds without a lease (R68). -/
structure Replica where
  l1 : Bool
  unit : Nat                 -- core or slice
  owner : Nat
  module : Nat
  line : Nat                 -- physical address / 256
  bytes : List Byte
  deriving DecidableEq, Repr

/-- Memory and the home agents. -/
structure Mem where
  bytes : List Host.Cell     -- current versions, canonical form
  wts : Tab Nat              -- write time of a byte's current version, default 0
  old : List Old
  pend : List Pend
  leases : List Lease
  copies : List Copy
  replicas : List Replica
  tlbs : List Tlb
  ops : List Op
  holds : List Hold
  poison : List Nat          -- sectors (key / 64)
  merges : List Merge
  records : List VRec
  windows : List Window
  recent : List (Nat × Nat × Nat)   -- (core, key, write time) of acknowledged stores (R64)
  gdir : List (Nat × Nat × Bool)    -- (socket, line, exclusive)
  recalls : List (Nat × Nat × Nat)  -- (socket, line, since)
  staleLines : List (Nat × Nat)     -- lines a recall's answer must not overwrite: (line, key)
  marks : List SealMark := []       -- SEAL marks whose seal has not completed
  hostLease : Nat := 0              -- the latest lease expiry granted on a host line (R267)
  deriving DecidableEq, Repr

/-! ### Front end, contexts and launches -/

/-- A context record (R376), with the module's view-pool allocation of the context (R236). -/
structure Ctx where
  id : Nat
  owner : Nat
  balance : Int
  eref : Nat
  erefill : Nat
  ecap : Nat
  ageLimit : Nat
  ptimeout : Nat
  counters : Nat
  vpBase : Nat
  vpSize : Nat
  allocs : List (Nat × Nat)  -- (address, size) in the pool
  table : Nat := 0           -- the CTXTAB that the latest of its launches began under (R273)
  cutOff : Bool := false     -- stopped: a pad group of it was on a die that is cut off (R368)
  deriving DecidableEq, Repr

/-- What the report engine has still to write into a fault queue (R307): a context's, or with none the system's. -/
structure FaultQ where
  ctx : Option Nat
  held : List (BitVec 256)   -- records not written yet
  writing : Option Nat       -- the last record's write time: TAIL waits until the record is visible
  deriving DecidableEq, Repr

/-- A launch command that the front end has started (R30, R31, R39). -/
structure Launch where
  id : Nat
  queue : Nat                -- 64 = none
  ctx : Nat
  image : Nat
  cwAddr : Nat
  cwInc : Nat
  nt : Nat
  nf : Nat
  np : Nat
  ns : Nat
  grain : Nat
  dom : Bool
  dieMask : Nat
  lb : Nat
  cls : Nat
  counters : List (Nat × Nat)  -- 24 dies: next, end
  aux : Option Nat           -- completion count of a LAUNCH record
  recOwner : Nat
  started : Nat              -- clk at its start (R75)
  parked : List Nat := []    -- units that wait for view-pool space (R343)
  failed : Bool              -- a view list failed: undispatched units stay (R343)
  mark : Nat := 0            -- largest write time of its tasks' and merges' writes (R30)
  restoring : Option (List Nat) := none  -- a saved image whose pad groups have no cores yet, with the cores to try first (R54)
  table : Nat := 0           -- the CTXTAB that it began under (R273)
  deriving DecidableEq, Repr

/-- An entry of a die's spawn stack (R44, R53). -/
structure Spawn where
  launch : Nat
  ctx : Nat
  lb : Nat
  pindex : Nat
  slot : Nat
  vrec : Nat
  seed : BitVec 64
  pool : Option Nat          -- overflowed into the view pool here (R343)
  num : Nat := 0             -- the model's own: its name
  deriving DecidableEq, Repr

/-- A command that a LAUNCH record entered into a queue (R99): it comes behind the ring commands up to `after`. -/
structure Waiting where
  ctx : Nat
  image : Nat
  mask : Nat
  aux : Nat
  owner : Nat
  lsn : Nat
  after : Nat
  deriving DecidableEq, Repr

/-- A submission queue: its registers and binding (R251, R273). -/
structure SubQueue where
  ring : BitVec 64
  nent : Nat
  tail : Nat
  head : Nat
  bound : Option (Nat × Nat × Nat)   -- tickets, class, context
  waiting : List Waiting
  lastLaunch : Nat           -- the command before, 0 = none
  seen : Option Nat          -- a doorbell held while ready bit 87 is clear
  deriving DecidableEq, Repr

/-- A pre-emption in progress (R52, R310-R312, R377). -/
structure Preempt where
  ctx : Nat
  since : Nat
  step : Nat                 -- 1 threads run, 2 copy issue stopped, 4 saving
  forced : Bool
  stalled : Option Nat           -- the address a save stalls at (R377)
  parkedOn : Nat
  resumeAt : Nat                 -- the write it resumes at
  sent : List Nat                -- launches whose images are written but for KIND
  written : List Nat             -- launches whose KIND is written
  deriving DecidableEq, Repr

/-! ### The loop tap -/

/-- A record of the loop (R91) in the broadcast queue, with where it came from. -/
structure Rec where
  hdr : BitVec 64
  p0 : BitVec 64
  p1 : BitVec 64
  origin : Nat               -- 0 a thread (op), 1 the front end, 2 a host broadcast queue, 3 management, 4 a seal
  ref : Nat                  -- the op, or 64 × queue + slot
  num : Nat                  -- order of entry
  deriving DecidableEq, Repr

/-- A stamped record at the tap. -/
structure Stamped where
  lsn : Nat
  hdr : BitVec 64
  p0 : BitVec 64
  p1 : BitVec 64
  tag : BitVec 64
  valid : Bool
  deriving DecidableEq, Repr

/-- The token of R85. -/
structure Token where
  nextLsn : Nat
  hz : Nat
  hacc : Nat
  rot : Nat
  origin : Nat
  chk : Nat
  deriving DecidableEq, Repr

/-- The module's tap, its apply engine and the control-memory replica. -/
structure Tap_ where
  position : Nat             -- pod module number
  present : Nat              -- presence map, one bit per tap
  running : Bool
  isOrigin : Bool
  lsn : Nat                  -- L(m)
  applied : Nat              -- A(m)
  horizon : Nat              -- H(m)
  queue : List Rec
  outside : List Rec := []   -- the front end's records that wait outside the full queue (R89)
  nextNum : Nat
  sent : List (Nat × Rec)    -- (LSN, record) sent and kept until the horizon passes it
  returned : List Nat        -- LSNs of own records that have returned
  replay : List Stamped
  pending : List Stamped     -- stamped, not yet applied, ascending
  missing : List (Nat × Nat) -- (LSN, since) under repair
  timer : Option Nat         -- the origin's loss timer: started at
  probing : Bool
  sentToken : Option Token   -- the last token sent on
  skipHz : Bool              -- a new origin leaves HZ unchanged at its first pass (R353)
  lagSince : Option Nat      -- A(m) trails L(m) since
  lagSaid : Bool
  keys : Tab Nat             -- loop key per owner
  pendingKeys : Tab Nat
  rolled : List (Nat × Nat × Nat)   -- (owner, LSN, key): above the LSN this key tags
  fenced : List Nat
  skip : List (Nat × Nat)    -- (owner, LSN): its records up to the LSN are in the copy it took (R354)
  fetches : List (Nat × Nat) -- (LSN, fetch) of own host records that have been applied
  cmem : Tab Byte            -- 4 MiB, default 0
  ptePending : Option (Nat × List (Nat × Nat))  -- (LSN, INVALs awaited: socket, id)
  snapshot : Option (Nat × Option Nat)   -- (first LSN held, owner resynchronized)
  bypassed : Bool
  probe : Option Nat := none -- MAXL of the PROBE last sent on (R349)
  repairs : List (Nat × Option Stamped) := []   -- downstream requests: the record answered, or passed upstream (R350)
  copies : List (Nat × Option Nat × Tab Byte) := []   -- copies sent: (LSN, owner of the partition, bytes) (R354)
  catchUp : Option Nat := none   -- a tap that joined: the last LSN it held when it installed its copy (R354)
  redo : List Stamped := []      -- held records of a resynchronized owner, still to be applied to its copy (R354)
  deriving DecidableEq, Repr

/-! ### The fabric -/

/-- A fabric packet in the retry buffer (R277, R357). -/
structure Packet where
  id : Nat
  dest : Nat
  seqNo : Nat
  owner : Nat
  kind : Nat                 -- as `State.sendPacket` lists them
  ref : Nat
  addr : Nat
  data : List Nat
  sentAt : Nat
  acked : Bool               -- delivered; a request waits for its answer
  stalledSince : Option Nat
  saidStall : Bool
  user : Option (Nat × Nat × Nat) := none  -- an engine's access: its context, address and bytes (R271)
  fresh : Bool := false      -- its translation was made before an invalidation now waiting for it
  deriving DecidableEq, Repr

/-- A request that has arrived from the fabric and been delivered in flow order. -/
structure Inbound where
  id : Nat
  src : Nat
  owner : Nat
  kind : Nat
  ref : Nat
  addr : Nat
  data : List Nat
  checked : Option Nat       -- the window it was checked against
  deriving DecidableEq, Repr

/-- A packet on its way to another module, in the virtual output queue of its input port, destination and class (R277):
packets of one queue leave in their order here. -/
structure Transit where
  port : Nat                 -- the input port
  cls : Nat                  -- virtual-channel class, 1 + the hop count that its header brought
  src : Nat
  dest : Nat
  seqNo : Nat
  owner : Nat
  kind : Nat
  ref : Nat
  addr : Nat
  data : List Nat
  deriving DecidableEq, Repr

/-- An export window (R278). -/
structure ExportWindow where
  owner : Nat
  base : Nat
  length : Nat
  peers : List Nat
  rights : Nat
  state : Nat
  deriving DecidableEq, Repr

/-- A report to the fabric manager (R308): a cause with its argument, or cause 0 with 1 (done) or 2 (refused) for the command
of the given sequence number (R276). -/
structure FmReport where
  cause : Nat
  arg : Nat
  clk : Nat
  command : Option Nat := none
  deriving DecidableEq, Repr

/-- The fabric die's packet side. -/
structure Fabric where
  owners : List Nat
  portOwners : List (List Nat)     -- 32
  routes : Tab (List (Nat × Nat) × Nat)   -- per destination: (port, weight) list and hop count
  ppt : List (Nat × Nat × Nat)     -- (owner, pool base, pool size)
  nextSeq : Tab Nat          -- per destination
  expectSeq : Tab Nat        -- per source
  packets : List Packet
  early : List (Nat × Nat × Inbound)   -- (source, sequence number, request)
  inbound : List Inbound
  transit : List Transit := []     -- the virtual output queues, oldest first
  passed : List Transit := []      -- packets that have gone on to their next hop, with the hop count then in their header
  windows : Tab ExportWindow
  reports : List FmReport          -- to the fabric manager
  commands : Nat := 0              -- commands of the fabric manager so far: the next one's sequence number (log entry 66)
  far : List ((Nat × Nat × Nat) × List Nat)  -- sectors of other modules that the front end or a dispatcher has read (R39):
                                             -- owner, module, address; no bytes when the read failed
  deriving DecidableEq, Repr

/-! ### Service registers, host link, firmware, guest sockets -/

/-- A TDI and its window registers (R266, R279). -/
structure Tdi where
  owner : Nat
  tdiState : Nat             -- 0 CONFIG_UNLOCKED, 1 CONFIG_LOCKED, 2 RUN, 3 ERROR
  wsel : Nat
  wbase : Nat
  wlen : Nat
  wrights : Nat
  wpeers : Nat
  busy : Option Nat          -- window being revoked
  result : Nat
  deriving DecidableEq, Repr

/-- A host broadcast queue (R274). -/
structure Hbq where
  base : Nat
  tail : Nat
  head : Nat
  owner : Option Nat
  done : List Nat            -- record numbers whose status has been written, above head
  next : Nat                 -- records read
  deriving DecidableEq, Repr

/-- The physical function's registers and the host link. -/
structure Service where
  sysEntry : Nat
  ctxTab : Nat
  modCap : Nat
  sfqBase : Nat
  ready : Nat                -- ready map, 128 bits
  ltInval : Option (Nat × Nat × List (Nat × Nat))   -- running: context, word, INVALs awaited
  ltQueue : List (Nat × Nat)
  ltCount : Nat
  qsel : Nat
  detail : Tab Nat           -- 64-bit words of the DETAIL records: unit × 8 + word
  msix : List Nat            -- vectors raised: function × 2048 + vector
  aer : List Nat
  tdis : List Tdi            -- 63
  hbqs : List Hbq            -- 8
  linkUp : Bool
  hostWt : Nat               -- write time of the last snoop (R267)
  hostStores : Nat           -- largest write time of a CXL.mem store
  atsPending : List (Nat × Nat × Nat × List (Nat × Nat))   -- page, size, since, INVALs awaited
  hostSyncs : Nat            -- host syncs performed
  syncsHeld : Nat
  attest : List (List Nat)   -- reports served
  debugAgent : Bool
  cut : List Nat := []       -- owners whose TDI has left RUN and is not back (R366)
  atsSilent : Bool := false  -- the model's own: the host leaves ATS requests of this step unanswered (R367)
  deriving DecidableEq, Repr

/-- The firmware complexes (R282, R369, R370). -/
structure Firmware where
  active : Nat
  tableVersion : Nat
  standby : Option Nat
  previous : Option Nat      -- the version mirrored back to, within 1 s of a live update
  takeover : Nat
  failed : Nat               -- complexes failed
  heartbeat : Nat
  measures : List Nat        -- firmware image, state table, capability records
  exported : Nat := 0        -- the state-table version that the old firmware exported at the last live update (R370)
  deriving DecidableEq, Repr

/-- A packet in a guest queue: its 64 bytes, or a join entry (R228, R229). -/
inductive GItem where
  | packet (id : Nat) (data : BitVec 512) (op : Nat)
  | join (id : Nat) (mask : Nat) (marks : List Nat) (op : Nat)
  deriving DecidableEq, Repr

/-- A guest queue (R256, R261). -/
structure GQueue where
  bound : Option (Nat × Nat)       -- context, owner
  binding : Option (Nat × Nat × Nat)  -- BIND outstanding: context, op (0 none), since
  unbinding : Option (Nat × Nat)   -- UNBIND outstanding: op, since
  fifo : List GItem
  pulled : List GItem
  stopped : Bool                   -- PREEMPT sent, no packet starts
  awaiting : Option Nat            -- QSTATE awaited since
  stalled : Bool
  stallVa : Nat
  owed : Nat := 0                  -- packets accepted before UNBIND that the guest die has yet to pull (R252)
  deriving DecidableEq, Repr

/-- A translation given to a guest die (R262). -/
structure GTrans where
  ctx : Nat
  page : Nat                       -- virtual page address
  place : Nat                      -- its first byte, as the guest die names it
  size : Nat
  write : Bool
  isSealed : Bool
  deriving DecidableEq, Repr

/-- A response of the RS channel to a guest die (R253, R260, R262). -/
inductive GReply where
  | trans (t : GTrans)                                     -- OK
  | notPresent (ctx va : Nat)
  | denied (ctx va : Nat)
  | bytes (place : Nat) (exclusive : Bool) (data : List Nat)  -- a line given, or what a single access has read
  | old (place value : Nat)                                -- what an atomic found
  | failed (place cause : Nat)                             -- a request that could not be performed (R360)
  deriving DecidableEq, Repr

/-- A guest socket (R253-R265, R361-R364). -/
structure Socket where
  cap : Option (Nat × Nat × Nat × Nat × Nat)   -- VENDOR, NQ, VER, TCENT, CLINES
  queues : Tab GQueue
  invals : List (Nat × Nat × Nat × Nat × Nat)  -- outstanding INVALs: id, context, address, size, since
  trans : List GTrans              -- translations given and not invalidated
  replies : List GReply := []      -- responses sent
  retraining : Option (Nat × Nat) := none  -- the link retrains: the rate it tries, and since when (R363)
  isolated : Bool
  drained : Bool
  rate : Nat                       -- GT/s
  down : Bool
  deriving DecidableEq, Repr

/-- A power domain: one die's clock and meter (R23, R26, R281); number 24 is the fabric die's meter. -/
structure DieState where
  clock : Nat                -- in 100 MHz
  energy : Nat               -- µJ since reset
  recent : List Nat          -- the last ten readings
  spill : Nat                -- spilled barriers
  coreStop : Bool            -- drained: no dispatch
  lost : Bool                -- HBM stack lost
  cut : Bool                 -- unreachable
  deriving DecidableEq, Repr

/-! ### Issue -/

/-- The chain group that the issue unit has chosen (R47): a run's threads, where its group starts, the word index
being run, the group's words, and the registers as they stood before the group issued (R129). -/
structure Run where
  core : Nat
  fg : Nat
  lanes : List Nat
  whole : List Nat           -- every lane of the run: issue groups are counted in it (R47, R183)
  ops : List (Nat × Nat × List Word)  -- operands of words that pop ports, read before the group's writes: word index,
                                      -- lane, values (R129)
  start : BitVec 57
  pc : BitVec 57
  index : Nat
  words : List Word
  snap : Option FileGroup
  inst : Nat
  deriving DecidableEq, Repr

/-- The state of one module. -/
structure State where
  clk : Nat
  skew : List Nat            -- 24
  seq : Nat                  -- the model's own: steps taken, to which the open choices are applied
  nextId : Nat               -- the model's own: names given to accesses, entries and messages
  agenda : List (Nat × Instr)  -- the model's own: what the outside and the concurrent units do next
  cur : Option Run
  memBusy : List Nat         -- the model's own: cores whose memory issue queue takes no word in this step (R136)
  lottery : BitVec 64
  pads : List Pad
  acc : Tab (BitVec 80)      -- core × 32768 + row × 128 + column
  accBad : List Nat          -- entries with an uncorrectable error (R347)
  icache : List ILine
  units : List UnitBars
  mem : Mem
  ctxs : List Ctx
  faultQs : List FaultQ      -- queues that records wait for
  launches : List Launch
  queues : List SubQueue
  spawns : List (List Spawn) -- 24 stacks, top first
  triggers : List Entry
  preempts : List Preempt
  energyMark : Nat           -- meter intervals of 1,000 ticks charged (R42)
  governed : Nat             -- intervals the governor has acted on (R281)
  refills : Nat              -- refills of 1,000,000 ticks made (R42)
  tap : Tap_
  fabric : Fabric
  service : Service
  firmware : Firmware
  sockets : List Socket
  dies : List DieState
  narrow : List Nat          -- die boundaries at half width (R368), as `boundaries` lists them
  severed : List Nat         -- die boundaries that are down
  spent : List (Nat × Tab Byte) := []  -- scratchpads of cores whose last task is over, as it left them (R204, R286)
  deriving DecidableEq, Repr

/-- A barrier word that no member has reached. -/
def BarWord.fresh (members : Nat) : BarWord := { exp := members, phase := 0, maxMark := 0, seen := [] }

/-- A trap bank as a new task finds it (DESIGN CHOICE, log entry 1). -/
def TrapBank.zero : TrapBank :=
  { cause := 0, epc := 0, addr := 0, info := 0, word := 0, nht := 0, pmode := false }

/-- Memory with nothing listed. -/
def Mem.empty : Mem :=
  { bytes := [], wts := [], old := [], pend := [], leases := [], copies := [], replicas := [], tlbs := [], ops := [], holds := [],
    poison := [], merges := [], records := [], windows := [], recent := [], gdir := [], recalls := [], staleLines := [] }

/-- A submission queue that nothing has bound. -/
def SubQueue.zero : SubQueue :=
  { ring := 0, nent := 0, tail := 0, head := 0, bound := none, waiting := [], lastLaunch := 0, seen := none }

/-- The tap before any loop has started. -/
def Tap_.zero : Tap_ :=
  { position := 0, present := 0, running := false, isOrigin := false, lsn := 0, applied := 0, horizon := 0,
    queue := [], nextNum := 0, sent := [], returned := [], replay := [], pending := [], missing := [], timer := none,
    probing := false, sentToken := none, skipHz := false, lagSince := none, lagSaid := false, keys := [],
    pendingKeys := [], rolled := [], fenced := [], skip := [], fetches := [], cmem := [], ptePending := none, snapshot := none,
    bypassed := false }

/-- The fabric before the fabric manager has spoken. -/
def Fabric.zero : Fabric :=
  { owners := [], portOwners := List.replicate 32 [], routes := [],
    ppt := [], nextSeq := [], expectSeq := [], packets := [], early := [], inbound := [], windows := [],
    reports := [], far := [] }

/-- A TDI that no owner has. -/
def Tdi.zero : Tdi :=
  { owner := 0, tdiState := 0, wsel := 0, wbase := 0, wlen := 0, wrights := 0, wpeers := 0, busy := none,
    result := 0 }

/-- A host broadcast queue that no TDI has bound. -/
def Hbq.zero : Hbq := { base := 0, tail := 0, head := 0, owner := none, done := [], next := 0 }

/-- The service registers after reset. -/
def Service.zero : Service :=
  { sysEntry := 0, ctxTab := 0, modCap := 0, sfqBase := 0, ready := 0, ltInval := none, ltQueue := [],
    ltCount := 0, qsel := 0, detail := [], msix := [], aer := [], tdis := List.replicate 63 Tdi.zero,
    hbqs := List.replicate 8 Hbq.zero, linkUp := false, hostWt := 0, hostStores := 0, atsPending := [], hostSyncs := 0, syncsHeld := 0,
    attest := [], debugAgent := false }

/-- The firmware complexes after reset. -/
def Firmware.zero : Firmware :=
  { active := 0, tableVersion := 0, standby := none, previous := none, takeover := 0, failed := 0, heartbeat := 0,
    measures := [0, 0, 0] }

/-- A guest queue that nothing has bound. -/
def GQueue.zero : GQueue :=
  { bound := none, binding := none, unbinding := none, fifo := [], pulled := [], stopped := false, awaiting := none,
    stalled := false, stallVa := 0 }

/-- A guest socket whose link has not trained. -/
def Socket.zero : Socket :=
  { cap := none, queues := [], invals := [], trans := [], isolated := false, drained := false, rate := 32,
    down := false }

/-- A die after reset: 2.0 GHz (R23), meter 0 (R248). -/
def DieState.zero : DieState :=
  { clock := 20, energy := 0, recent := [], spill := 0, coreStop := false, lost := false, cut := false }

/-- The machine right after module reset: nothing resident, nothing in memory, the lottery generator at its seed
(R118), no ready bit risen (R284). The values the manual does not give are those of log entry 1. -/
def State.reset : State :=
  { clk := 0, skew := List.replicate 24 0, seq := 0, nextId := 1, agenda := [], cur := none, memBusy := [],
    lottery := 0x6A09E667F3BCC909#64, pads := [], acc := [], accBad := [], icache := [], units := [], mem := Mem.empty, ctxs := [],
    faultQs := [], launches := [], queues := List.replicate 64 SubQueue.zero, spawns := List.replicate 24 [], triggers := [],
    preempts := [], energyMark := 0, governed := 0, refills := 0, tap := Tap_.zero, fabric := Fabric.zero, service := Service.zero,
    firmware := Firmware.zero, sockets := List.replicate 2 Socket.zero, dies := List.replicate 25 DieState.zero, narrow := [], severed := [] }

end Sys2Proof.Machine
end

