-- ==== Sys2Proof/Machine/Access.lean ====
section
/-! DEFINITION. Reading and changing parts of the state: units and clocks (R12-R15, R23), pad groups, file groups,
threads, registers, predicates, k registers, scratchpad words. -/

namespace Sys2Proof.Machine

/-! ### Units -/

/-- The die of a core (R15). -/
def dieOf (core : Nat) : Nat := core / 48

/-- The L2 slice of a core, 0-191 in the module (R15). -/
def sliceOf (core : Nat) : Nat := core / 6

/-- The attach die of a socket (R12, R15). -/
def attachDie (sock : Nat) : Nat := if sock = 0 then 0 else 23

/-- The clk of a die (R23). -/
def State.dieClk (s : State) (die : Nat) : Nat := s.clk + atD 0 s.skew die

/-- The clk of a core's die. -/
def State.coreClk (s : State) (core : Nat) : Nat := s.dieClk (dieOf core)

/-- A 32-bit clk value T is reached (R25). -/
def reached (clk t : Nat) : Bool := decide ((clk % 2 ^ 32 + 2 ^ 32 - t % 2 ^ 32) % 2 ^ 32 < 2 ^ 31)

/-- A ready bit (R284). -/
def State.readyBit (s : State) (b : Nat) : Bool := s.service.ready.testBit b

/-- The ready map with one bit set or cleared (R284). -/
def State.setReady (s : State) (b : Nat) (v : Bool) : State :=
  { s with service := { s.service with ready :=
      if v then s.service.ready ||| 2 ^ b else if s.service.ready.testBit b then s.service.ready - 2 ^ b
      else s.service.ready } }

/-- A new name for an access, entry or message. -/
def State.bump (s : State) : State := { s with nextId := s.nextId + 1 }

/-! ### Pad groups, file groups, threads -/

/-- The pad group on a core. -/
def State.pad? (s : State) (core : Nat) : Option Pad := s.pads.find? fun p => decide (p.core = core)

/-- The state with the pad group on a core changed. -/
def State.mapPad (s : State) (core : Nat) (f : Pad → Pad) : State :=
  { s with pads := s.pads.map fun p => if p.core = core then f p else p }

/-- The pad group with one file group changed. -/
def Pad.mapFg (p : Pad) (fg : Nat) (f : FileGroup → FileGroup) : Pad := { p with fgs := modifyAt p.fgs fg f }

/-- The state with one file group changed. -/
def State.mapFg (s : State) (core fg : Nat) (f : FileGroup → FileGroup) : State :=
  s.mapPad core fun p => p.mapFg fg f

/-- The file group with one thread changed. -/
def FileGroup.mapThread (g : FileGroup) (i : Nat) (f : Thread → Thread) : FileGroup :=
  { g with threads := modifyAt g.threads i f }

/-- The file group with the threads of a set changed. -/
def FileGroup.mapLanes (g : FileGroup) (lanes : List Nat) (f : Nat → Thread → Thread) : FileGroup :=
  { g with threads := mapFrom (fun i t => if i ∈ lanes then f i t else t) 0 g.threads }

/-- The state with one thread changed. -/
def State.mapThread (s : State) (core fg i : Nat) (f : Thread → Thread) : State :=
  s.mapFg core fg fun g => g.mapThread i f

/-- The state with the threads of a set changed. -/
def State.mapLanes (s : State) (core fg : Nat) (lanes : List Nat) (f : Nat → Thread → Thread) : State :=
  s.mapFg core fg fun g => g.mapLanes lanes f

/-- The pad group with every thread changed. -/
def Pad.mapThreads (p : Pad) (f : Thread → Thread) : Pad :=
  { p with fgs := p.fgs.map fun g => { g with threads := g.threads.map f } }

/-- The state with every thread changed. -/
def State.mapThreads (s : State) (f : Thread → Thread) : State := { s with pads := s.pads.map fun p => p.mapThreads f }

/-- A file group. -/
def State.fg? (s : State) (core fg : Nat) : Option FileGroup := (s.pad? core).bind fun p => p.fgs[fg]?

/-- A thread. -/
def State.thread? (s : State) (core fg i : Nat) : Option Thread := (s.fg? core fg).bind fun g => g.threads[i]?

/-- A thread as it is when none is there: exited. -/
def Thread.gone : Thread :=
  { pc := 0, regs := [], preds := 0, rng := 1, wait := .ready, waitArg := 0, waitSub := 0, barrier := .no, level := 0,
    system := false, exited := true, parked := none, floor := 0, mark := 0, outs := [], own := [], tokHeld := [],
    lastLsn := none, lastSent := none, quiet := 0, quietPage := 0, seen := [], age := 0, yielded := 0 }

/-- A thread of a file group, by index. -/
def FileGroup.thread (g : FileGroup) (i : Nat) : Thread := atD Thread.gone g.threads i

/-- The thread indices of a file group. -/
def FileGroup.indices (g : FileGroup) : List Nat := upFrom 0 g.threads.length

/-! ### Registers -/

/-- A g register: g0 reads 0 (R134). Ports are read by popping, not here. -/
def Thread.reg (t : Thread) (r : Nat) : Word := if r = 0 then 0 else tabGet 0 t.regs r

/-- The thread with a g register written: g0 discards (R134). -/
def Thread.putReg (t : Thread) (r : Nat) (v : Word) : Thread :=
  if r = 0 ∨ 56 ≤ r then t else { t with regs := tabSet 0 t.regs r v }

/-- A write by a word to a register that an earlier instruction has yet to write, which only its lookahead window
lets happen: the write stands, or the instruction's result will (R138). -/
def Thread.setReg (seq : Nat) (t : Thread) (r : Nat) (v : Word) : Thread :=
  let t := t.putReg r v
  { t with outs := t.outs.map fun o =>
      if r ∈ o.dsts ∧ Config.windowWrite seq r then { o with dsts := o.dsts.filter fun x => decide (x ≠ r) } else o }

/-- A pair, the even register low (R4). -/
def Thread.pair (t : Thread) (r : Nat) : BitVec 64 := t.reg (pairHi r) ++ t.reg r

/-- A predicate: p7 reads true (R134). -/
def Thread.pred (t : Thread) (p : Nat) : Bool := if p = 7 then true else t.preds.getLsbD p

/-- The thread with a predicate written: p7 discards (R134). -/
def Thread.setPred (t : Thread) (p : Nat) (v : Bool) : Thread :=
  if 7 ≤ p then t
  else if t.preds.getLsbD p = v then t
  else { t with preds := t.preds ^^^ BitVec.ofNat 7 (2 ^ p) }

/-- The guard of a word is true for a thread (R133). -/
def guardHolds (g : BitVec 4) (t : Thread) : Bool :=
  if g.toNat < 8 then t.pred (g.toNat % 8) else !t.pred (g.toNat % 8)

/-- A k register (R134). -/
def FileGroup.kreg (g : FileGroup) (r : Nat) : Word := tabGet 0 g.kregs r

/-- The file group with a k register written. -/
def FileGroup.setK (g : FileGroup) (r : Nat) (v : Word) : FileGroup :=
  if 31 < r then g else { g with kregs := tabSet 0 g.kregs r v }

/-! ### Scratchpad -/

/-- The scratchpad's size in bytes (R37). -/
def Pad.top (p : Pad) : Nat := p.spad * 4096

/-- n bytes of the scratchpad. -/
def Pad.scratchBytes (p : Pad) (off n : Nat) : List Byte := tabGetMany 0 p.scratch off n

/-- A 32-bit word of the scratchpad (R4). -/
def Pad.word (p : Pad) (off : Nat) : Nat := leValue (p.scratchBytes off 4)

/-- The pad group with bytes of its scratchpad written at a tick (R58); a write of a whole 32-bit word clears its
storage error (R347). -/
def Pad.setBytes (p : Pad) (off : Nat) (bs : List Byte) (now : Nat) : Pad :=
  { p with
    scratch := tabSetMany 0 p.scratch off bs
    scratchWt := tabSetMany 0 p.scratchWt off (List.replicate bs.length now)
    spadBad := p.spadBad.filter fun w => decide (w * 4 < off ∨ off + bs.length < w * 4 + 4) }

/-- The pad group with a 32-bit word of its scratchpad written. -/
def Pad.setWord (p : Pad) (off v now : Nat) : Pad := p.setBytes off (leBytes 4 v) now

/-- Offsets of the reserved region of the scratchpad (R204). -/
def Pad.ctl (p : Pad) : Nat := p.top - 64
/-- Entry slot i of the copy ring (R204). -/
def Pad.slotOff (p : Pad) (i : Nat) : Nat := p.top - 2112 + 32 * (i % 64)
/-- The shadow of a shape handle (R204). -/
def Pad.shadowOff (p : Pad) (h : Nat) : Nat := p.top - 3168 + 64 * h
/-- NOTIFY (R207). -/
def Pad.notify (p : Pad) : Nat := p.word p.ctl
/-- HEAD (R207). -/
def Pad.head (p : Pad) : Nat := p.word (p.ctl + 4)
/-- DONE (R207). -/
def Pad.done (p : Pad) : Nat := p.word (p.ctl + 8)

/-- A difference of two 32-bit counts (R207). -/
def countDiff (a b : Nat) : Nat := (a + 2 ^ 32 - b % 2 ^ 32) % 2 ^ 32

/-! ### Contexts and launches -/

/-- The context record of an id (R376). -/
def State.ctx? (s : State) (ctx : Nat) : Option Ctx := s.ctxs.find? fun c => decide (c.id = ctx)

/-- The state with a context record changed. -/
def State.mapCtx (s : State) (ctx : Nat) (f : Ctx → Ctx) : State :=
  { s with ctxs := s.ctxs.map fun c => if c.id = ctx then f c else c }

/-- A launch by id. -/
def State.launch? (s : State) (id : Nat) : Option Launch := s.launches.find? fun l => decide (l.id = id)

/-- The state with a launch changed. -/
def State.mapLaunch (s : State) (id : Nat) (f : Launch → Launch) : State :=
  { s with launches := s.launches.map fun l => if l.id = id then f l else l }

/-- A write of a launch's work has a write time: its completion word is added to no earlier than it is visible (R30). -/
def State.raiseLaunch (s : State) (id wt : Nat) : State := s.mapLaunch id fun l => { l with mark := max l.mark wt }

/-- A pre-emption of a context in progress. -/
def State.preempt? (s : State) (ctx : Nat) : Option Preempt := s.preempts.find? fun p => decide (p.ctx = ctx)

/-- An access in flight by id. -/
def State.op? (s : State) (id : Nat) : Option Op := s.mem.ops.find? fun o => decide (o.id = id)

/-- The state with memory changed. -/
def State.mapMem (s : State) (f : Mem → Mem) : State := { s with mem := f s.mem }

/-- The state with an access in flight changed. -/
def State.mapOp (s : State) (id : Nat) (f : Op → Op) : State :=
  s.mapMem fun m => { m with ops := m.ops.map fun o => if o.id = id then f o else o }

/-- The state with an access in flight removed. -/
def State.dropOp (s : State) (id : Nat) : State :=
  s.mapMem fun m => { m with ops := m.ops.filter fun o => decide (o.id ≠ id) }

/-- The state with an access in flight added, under a new name. -/
def State.addOp (s : State) (o : Op) : State :=
  let s' := s.mapMem fun m => { m with ops := m.ops ++ [{ o with id := s.nextId, issued := s.clk }] }
  s'.bump

/-- WHERE of a thread's place (R248). -/
def whereWord (module core fg : Nat) : Nat :=
  module % 64 * 2 ^ 25 + dieOf core * 2 ^ 20 + sliceOf core % 8 * 2 ^ 17 + core % 6 * 2 ^ 14 + fg % 4 * 2 ^ 12

end Sys2Proof.Machine
end

