-- ==== Sys2Proof/Machine/Memory.lean ====
section
/-! DEFINITION. The bytes of module and host memory, their versions, write times, leases and copies (R58-R66, R68). A key
names a byte: a physical address of module memory, or 2^54 plus a host physical address. -/

namespace Sys2Proof.Machine

/-- The key of a host physical address of 64 bits. -/
def hostKey (pa : Nat) : Nat := 2 ^ 54 + pa % 2 ^ 64

/-- A key names host memory. -/
def isHost (key : Nat) : Bool := decide (2 ^ 54 ≤ key)

/-- The line of a key: 256 bytes (R56). -/
def lineOf (key : Nat) : Nat := key / 256

/-- The sector of a key: 64 bytes (R56). -/
def sectorOf (key : Nat) : Nat := key / 64

/-- Bytes of module memory: 24 stacks of 64 GiB (R16). -/
def hbmBytes : Nat := 24 * 2 ^ 36

/-- The die of a line's home agent, each of the 24 serving one unit in 24 (R16); the host agent of the fabric die keeps die
0's clock (R15, R61). -/
def homeOf (line : Nat) : Nat :=
  let unit := line / 2 ^ (Config.homeGrain % 29)
  if isHost (line * 256) then 0 else (unit + Config.homeDie (unit / 24)) % 24

/-- The canonical form of memory: rising addresses, no listed byte equal to what an unlisted address reads as
(log entry 2). -/
def Mem.wf (m : Mem) : Bool := tabWf (0 : Byte) m.bytes

/-- The current version of a byte. What an unlisted address reads as is 0 (DESIGN CHOICE, log entry 2). -/
def Mem.byte (m : Mem) (key : Nat) : Byte := tabGet 0 m.bytes key

/-- The pending version of a line (R63). -/
def Mem.pending (m : Mem) (line : Nat) : Option Pend := m.pend.find? fun p => decide (p.line = line)

/-- A byte of a pending version, where that version has it. -/
def Pend.byte? (p : Pend) (key : Nat) : Option Byte :=
  (p.bytes.find? fun c => decide (c.1 = key)).map (·.2)

/-- The value of a byte at read time t: that of the store with the largest write time not after t (R64). -/
def Mem.byteAt (m : Mem) (key t : Nat) : Byte :=
  let cur := if tabGet 0 m.wts key ≤ t then m.byte key
    else match m.old.find? fun o => decide (o.key = key ∧ o.wt ≤ t ∧ t < o.upto) with
      | some o => o.val
      | none => m.byte key
  match m.pending (lineOf key) with
  | some p => if p.wt ≤ t then (p.byte? key).getD cur else cur
  | none => cur

/-- The write time of the store a byte's value at t comes from; 0 when none has stored it (R72, R180). -/
def Mem.wtAt (m : Mem) (key t : Nat) : Nat :=
  let cur := if tabGet 0 m.wts key ≤ t then tabGet 0 m.wts key
    else match m.old.find? fun o => decide (o.key = key ∧ o.wt ≤ t ∧ t < o.upto) with
      | some o => o.wt
      | none => 0
  match m.pending (lineOf key) with
  | some p => if p.wt ≤ t ∧ (p.byte? key).isSome then p.wt else cur
  | none => cur

/-- The last version of a byte in coherence order, pending or current. -/
def Mem.latest (m : Mem) (key : Nat) : Byte :=
  match m.pending (lineOf key) with
  | some p => (p.byte? key).getD (m.byte key)
  | none => m.byte key

/-- n bytes of the last version. -/
def Mem.latestBytes (m : Mem) (key n : Nat) : List Byte := (upFrom key n).map m.latest

/-- n bytes at a read time. -/
def Mem.bytesAt (m : Mem) (key n t : Nat) : List Byte := (upFrom key n).map fun k => m.byteAt k t

/-- One byte becomes current: the version it replaces is kept as an older one (R63). -/
def Mem.setCurrent (m : Mem) (wt : Nat) (c : Host.Cell) : Mem :=
  { m with
    bytes := tabSet 0 m.bytes c.1 c.2
    wts := tabSet 0 m.wts c.1 wt
    old := { key := c.1, val := m.byte c.1, wt := tabGet 0 m.wts c.1, upto := wt } :: m.old }

/-- A registered watch keeps the first version that differs from what it compares with, and its write time, as that
version becomes current (R186). -/
def Mem.metBy (m : Mem) (line : Nat) (o : Op) : Op :=
  match o.kind, o.loc, o.met with
  | .watch c _ _ (some _), .mem k, none =>
    let v := leValue ((upFrom k 4).map m.byte)
    if lineOf k = line ∧ v ≠ c then
      { o with met := some (v, greatest 0 ((upFrom k 4).map fun x => tabGet 0 m.wts x)) }
    else o
  | _, _, _ => o

/-- A version of a line has become current: the watches of its words test it (R186). -/
def Mem.noteMet (m : Mem) (line : Nat) : Mem := { m with ops := m.ops.map (m.metBy line) }

/-- The pending version of a line becomes its current version (R63). -/
def Mem.commit (m : Mem) (line : Nat) : Mem :=
  match m.pending line with
  | none => m
  | some p =>
    let m := { m with pend := m.pend.filter fun q => decide (q.line ≠ line) }
    (p.bytes.foldl (fun m c => m.setCurrent p.wt c) m).noteMet line

/-- The pending version of a line becomes current when clk has reached its write time (R63). -/
def Mem.commitDue (m : Mem) (line now : Nat) : Mem :=
  match m.pending line with
  | some p => if p.wt ≤ now then m.commit line else m
  | none => m

/-- The latest lease expiry held on a line; 0 if none (R63). -/
def Mem.expiry (m : Mem) (line : Nat) : Nat :=
  greatest 0 ((m.leases.filter fun l => decide (l.line = line)).map (·.expiry))

/-- The outcome of a store's arrival at the home agent (R63). -/
inductive Arrival where
  | hold (until_ : Nat)       -- wait until clk is past a lease expiry
  | behind (wt : Nat)         -- wait until the pending version is current
  | at_ (wt : Nat)            -- write time assigned
  deriving DecidableEq, Repr

/-- R63 for a store of a given floor that reaches the home agent at `now`. -/
def Mem.arrive (m : Mem) (line now floor : Nat) : Arrival :=
  match m.pending line with
  | some p => if floor ≤ p.wt then .at_ p.wt else .behind p.wt
  | none =>
    if m.expiry line < now ∨ m.expiry line = 0 then .at_ (max now floor)
    else if m.expiry line ≤ now + 128 then .hold (m.expiry line)
    else .at_ (max (m.expiry line + 1) floor)

/-- Replace or add a cell in a list of cells. -/
def putCell : List Host.Cell → Host.Cell → List Host.Cell
  | [], c => [c]
  | x :: rest, c => if x.1 = c.1 then c :: rest else x :: putCell rest c

/-- Bytes merged into the pending version of a line, with its one write time (R63). -/
def Mem.putPending (m : Mem) (line wt : Nat) (cells : List Host.Cell) : Mem :=
  match m.pending line with
  | some _ =>
    { m with pend := m.pend.map fun p => if p.line = line then { p with bytes := cells.foldl putCell p.bytes } else p }
  | none => { m with pend := { line := line, wt := wt, bytes := cells.foldl putCell [] } :: m.pend }

/-- The cells of consecutive bytes. -/
def cellsFrom : Nat → List Byte → List Host.Cell
  | _, [] => []
  | k, b :: rest => (k, b) :: cellsFrom (k + 1) rest

/-- Sectors that a write of n bytes from a key covers whole, which it un-poisons (R347). -/
def Mem.unpoison (m : Mem) (key n : Nat) : Mem :=
  { m with poison := m.poison.filter fun s => decide (s * 64 < key ∨ key + n < s * 64 + 64) }

/-- Copies of a line that need no lease are dropped: they do not outlive a store to the line (R68, R74). -/
def Mem.dropFree (m : Mem) (line : Nat) : Mem :=
  { m with copies := m.copies.filter fun c => decide (c.expiry.isSome = true ∨ c.line ≠ line) }

/-- A store of bytes of one line that has been given write time wt; it is current at once when wt has come. -/
def Mem.store (m : Mem) (now wt key : Nat) (bs : List Byte) : Mem :=
  (((m.dropFree (lineOf key)).putPending (lineOf key) wt (cellsFrom key bs)).commitDue (lineOf key) now).unpoison key
    bs.length

/-- The write time of a write the device makes on its own account: that of the pending version, or the first tick
after the last lease, or now, or a floor (R63, R375). A row that makes the write waits for it first where it can
(State.ownReady); one that cannot takes the first tick after the lease, however soon the lease ends (DEDUCED, log entry 94). -/
def Mem.ownWt (m : Mem) (line now floor : Nat) : Nat :=
  match m.pending line with
  | some p => p.wt
  | none => max floor (if m.expiry line < now ∨ m.expiry line = 0 then now else m.expiry line + 1)

/-- Bytes of one line written by the device on its own account: one version (R375). -/
def Mem.ownLine (m : Mem) (now floor key : Nat) (bs : List Byte) : Mem :=
  let line := lineOf key
  let m := (m.commitDue line now).dropFree line
  ((m.putPending line (m.ownWt line now floor) (cellsFrom key bs)).commitDue line now).unpoison key bs.length

/-- Bytes written by the device on its own account, line by line: n lines at most. -/
def Mem.ownLines (now floor : Nat) : Nat → Mem → Nat → List Byte → Mem
  | 0, m, _, _ => m
  | n + 1, m, key, bs =>
    if bs.isEmpty then m
    else
      let here := 256 - key % 256
      Mem.ownLines now floor n (m.ownLine now floor key (bs.take here)) (key + here) (bs.drop here)

/-- Bytes written by the device on its own account (R375). -/
def Mem.ownStore (m : Mem) (now floor key : Nat) (bs : List Byte) : Mem :=
  Mem.ownLines now floor (bs.length / 256 + 2) m key bs

/-- A write of the device to a line has its write time now: no lease that ends within 128 ticks holds it back, nor a pending
version that its floor is after (R63, R375). -/
def Mem.ownFree (m : Mem) (line now floor : Nat) : Bool :=
  let lapsing := decide (m.expiry line ≠ 0 ∧ now ≤ m.expiry line ∧ m.expiry line ≤ now + 128)
  match m.pending line with
  | some p => if p.wt ≤ now then !lapsing else decide (floor ≤ p.wt)
  | none => !lapsing

/-- The lines that n bytes from a key lie in. -/
def linesFrom (key n : Nat) : List Nat := if n = 0 then [] else upFrom (lineOf key) (lineOf (key + n - 1) + 1 - lineOf key)

/-- The write time that a device write of n bytes gets, the largest over its lines. -/
def Mem.ownStoreWt (m : Mem) (now floor key n : Nat) : Nat :=
  greatest 0 ((upFrom key n).map fun k => (m.commitDue (lineOf k) now).ownWt (lineOf k) now floor)

/-- The latest write time among n bytes' last versions. -/
def Mem.latestWt (m : Mem) (key n : Nat) : Nat :=
  greatest 0 ((upFrom key n).map fun k => match m.pending (lineOf k) with
    | some p => if (p.byte? k).isSome then p.wt else tabGet 0 m.wts k
    | none => tabGet 0 m.wts k)

/-- A read lease of a line granted to a slice (R61). A longer one that the slice holds stays: copies in its cores' L1 lean
on it. -/
def Mem.grant (m : Mem) (line holder expiry : Nat) : Mem :=
  let mine := m.leases.filter fun l => decide (l.line = line ∧ l.holder = holder)
  { m with leases := { line := line, holder := holder, expiry := greatest expiry (mine.map (·.expiry)) } ::
             m.leases.filter fun l => decide (l.line ≠ line ∨ l.holder ≠ holder)
           hostLease := if isHost (256 * line) then max m.hostLease expiry else m.hostLease }

/-- Lines of 256 bytes that an L1 of 192 KiB or a slice of 12 MiB holds (R16, R17). -/
def cacheLines (l1 : Bool) : Nat := if l1 then 768 else 49152

/-- An L1 or L2 with no room for one more line gives one up: which is an open choice (DESIGN CHOICE, log entry 52). -/
def Mem.makeRoom (m : Mem) (seq : Nat) (l1 : Bool) (unit : Nat) : Mem :=
  let mine := m.copies.filter fun c => decide (c.l1 = l1 ∧ c.unit = unit)
  let far := m.replicas.filter fun c => decide (c.l1 = l1 ∧ c.unit = unit)
  let n := mine.length + far.length
  if n < cacheLines l1 then m
  else
    let k := Config.pickAt seq 0 % n
    { m with copies := m.copies.filter fun c => decide (mine[k]? ≠ some c)
             replicas := m.replicas.filter fun c => decide (k < mine.length ∨ far[k - mine.length]? ≠ some c) }

/-- A copy of a line in an L1 or L2; it takes the place of the unit's earlier copy (R61, R64). -/
def Mem.addCopy (m : Mem) (seq : Nat) (c : Copy) : Mem :=
  let others := m.copies.filter fun x => decide (x.line ≠ c.line ∨ x.unit ≠ c.unit ∨ x.l1 ≠ c.l1)
  let m := { m with copies := others }
  let m := m.makeRoom seq c.l1 c.unit
  { m with copies := c :: m.copies }

/-- A replica of a sealed line of another module in an L1 or L2 (R68). -/
def Mem.addReplica (m : Mem) (seq : Nat) (c : Replica) : Mem :=
  let others := m.replicas.filter fun x =>
    decide (x.line ≠ c.line ∨ x.module ≠ c.module ∨ x.owner ≠ c.owner ∨ x.unit ≠ c.unit ∨ x.l1 ≠ c.l1)
  let m := { m with replicas := others }
  let m := m.makeRoom seq c.l1 c.unit
  { m with replicas := c :: m.replicas }

/-- The replica of a line of another module in a core's L1 or in its slice. -/
def Mem.replica? (m : Mem) (l1 : Bool) (unit owner module line : Nat) : Option Replica :=
  m.replicas.find? fun c => decide (c.l1 = l1 ∧ c.unit = unit ∧ c.owner = owner ∧ c.module = module ∧ c.line = line)

/-- The copy of a line in a core's L1 or in its slice. -/
def Mem.copy? (m : Mem) (l1 : Bool) (unit line : Nat) : Option Copy :=
  m.copies.find? fun c => decide (c.l1 = l1 ∧ c.unit = unit ∧ c.line = line)

/-- Every copy and lease of a line recalled (R79). -/
def Mem.recallLine (m : Mem) (line : Nat) : Mem :=
  { m with copies := m.copies.filter fun c => decide (c.line ≠ line)
           leases := m.leases.filter fun l => decide (l.line ≠ line) }

/-- Bytes that the view pool gives out again hold nothing of the task that had them: no copy, lease or version (R80). -/
def Mem.freshStorage (m : Mem) (key n : Nat) : Mem :=
  let lines := linesFrom key n
  let mine := fun (k : Nat) => decide (key ≤ k ∧ k < key + n)
  { m with copies := m.copies.filter fun c => decide (c.line ∉ lines)
           leases := m.leases.filter fun l => decide (l.line ∉ lines)
           old := m.old.filter fun o => !mine o.key
           recent := m.recent.filter fun x => !mine x.2.1
           pend := m.pend.filterMap fun p =>
             if p.bytes.all fun c => mine c.1 then none
             else some { p with bytes := p.bytes.filter fun c => !mine c.1 } }

/-- A sector is poisoned (R347). -/
def Mem.poisoned (m : Mem) (key : Nat) : Bool := decide (sectorOf key ∈ m.poison)

/-- A stored byte's values since a time, the current first: what `ld.ro` may return of an unsealed byte (R75). -/
def Mem.valuesSince (m : Mem) (key since now : Nat) : List Byte :=
  m.byteAt key now :: (m.old.filter fun o => decide (o.key = key ∧ since < o.upto ∧ o.upto ≤ now)).map (·.val)

end Sys2Proof.Machine
end

