-- ==== Sys2Proof/Machine/Translate.lean ====
section
/-! DEFINITION. Context descriptors (R272), the table walk (R269, R270), TLBs (R331), the device's own reads and writes of
a context's virtual memory, the view pool (R235, R236) and the resolution of a lane's or an engine's address. -/

namespace Sys2Proof.Machine

/-- Eight bytes of module memory at a physical address. -/
def State.phys8 (s : State) (pa : Nat) : Nat := leValue (s.mem.latestBytes pa 8)

/-- The context table that governs a context: while it has a launch, the one that the latest of its launches began under
(R273; log entry 78). -/
def State.tableOf (s : State) (ctx : Nat) : Nat :=
  match s.ctx? ctx with
  | some c => if s.launches.any fun l => decide (l.ctx = ctx) then c.table else s.service.ctxTab
  | none => s.service.ctxTab

/-- The context table that governs the task on a core: the one that its launch began under (R273). -/
def State.coreTable (s : State) (core ctx : Nat) : Nat :=
  match s.pad? core with
  | none => s.tableOf ctx
  | some p => match s.launches.find? fun l => decide (l.id = p.launch ∧ l.ctx = ctx) with
    | some l => l.table
    | none => s.tableOf ctx

/-- A context's descriptor in a context table: owner, LPTROOT and FQBASE, when it counts (R272). -/
def State.descIn (s : State) (table ctx : Nat) : Option (Nat × Nat × Nat) :=
  let at_ := table + 32 * ctx
  let flags := leValue (s.mem.latestBytes at_ 2)
  let owner := leValue (s.mem.latestBytes (at_ + 2) 2) % 4096
  if flags % 2 = 1 ∧ owner ∈ s.fabric.owners then some (owner, s.phys8 (at_ + 8), s.phys8 (at_ + 16)) else none

/-- A context's descriptor in the table that governs it (R272, R273). -/
def State.desc (s : State) (ctx : Nat) : Option (Nat × Nat × Nat) := s.descIn (s.tableOf ctx) ctx

/-- The owner of a context; 0 where its descriptor does not count. -/
def State.ownerOf (s : State) (ctx : Nat) : Nat :=
  match s.desc ctx with
  | some d => d.1
  | none => 0

/-! ### Table entries (R270) -/

/-- V. -/
def entV (e : Nat) : Bool := e.testBit 63
/-- TBL. -/
def entTbl (e : Nat) : Bool := e.testBit 62
/-- W. -/
def entW (e : Nat) : Bool := e.testBit 61
/-- SEAL. -/
def entSeal (e : Nat) : Bool := e.testBit 60
/-- MOD. -/
def entMod (e : Nat) : Nat := e / 2 ^ 54 % 64
/-- FRAME, as an address: bits [53:8]. -/
def entFrame (e : Nat) : Nat := e % 2 ^ 54 / 256 * 256
/-- HOST. -/
def entHost (e : Nat) : Bool := e.testBit 0
/-- The entry with its MOD replaced. -/
def entWithMod (e m : Nat) : Nat := e / 2 ^ 60 * 2 ^ 60 + m % 64 * 2 ^ 54 + e % 2 ^ 54

/-- The entry with its reserved bits 0 (R5). -/
def entClean (e : Nat) : Nat := e / 256 * 256 + e % 2

/-- A page found by a walk: its entry, its size and the physical address of the slot that holds the entry. -/
structure Page where
  entry : Nat
  size : Nat
  slot : Nat
  pod : Bool
  deriving DecidableEq, Repr

/-- Levels 1 to 3 of a table (R269); `ok` tells whether a slot address may be used. -/
def State.walkFrom1 (s : State) (ok : Nat → Bool) (next : Nat → Nat) (t1 va : Nat) (pod : Bool) : Option Page :=
  let a1 := t1 + 8 * (va / 2 ^ 30 % 2 ^ 18)
  let e1 := s.phys8 a1
  if !ok a1 || !entV e1 then none
  else if !entTbl e1 then some { entry := e1, size := 2 ^ 30, slot := a1, pod := pod }
  else
    let a2 := next (entFrame e1) + 8 * (va / 2 ^ 21 % 512)
    let e2 := s.phys8 a2
    if !ok a2 || !entV e2 then none
    else if !entTbl e2 then some { entry := e2, size := 2 ^ 21, slot := a2, pod := pod }
    else
      let a3 := next (entFrame e2) + 8 * (va / 2 ^ 16 % 32)
      let e3 := s.phys8 a3
      if !ok a3 || !entV e3 then none else some { entry := e3, size := 2 ^ 16, slot := a3, pod := pod }

/-- The pod page table's pool of an owner: base and size (R276). -/
def State.pool? (s : State) (owner : Nat) : Option (Nat × Nat) :=
  (s.fabric.ppt.find? fun p => decide (p.1 = owner)).map (·.2)

/-- A fresh walk of a context's tables, by its descriptor in a context table (R269). -/
def State.walkIn (s : State) (table ctx va : Nat) : Option Page :=
  match s.descIn table ctx with
  | none => none
  | some (owner, root, _) =>
    if va / 2 ^ 48 = 0x1FE then
      match s.pool? owner with
      | none => none
      | some (base, size) =>
        s.walkFrom1 (fun a => decide (base ≤ a ∧ a + 8 ≤ base + size)) (fun o => base + o) base va true
    else
      let e0 := s.phys8 (root + 8 * (va / 2 ^ 48 % 512))
      if entV e0 && entTbl e0 then
        (s.walkFrom1 (fun _ => true) (fun a => a) (entFrame e0) va false).map fun p =>
          { p with entry := entWithMod p.entry s.tap.position }
      else none

/-- A fresh walk of a context's tables (R269). -/
def State.walk (s : State) (ctx va : Nat) : Option Page := s.walkIn (s.tableOf ctx) ctx va

/-- Where an address of a page lives (R270). -/
def State.pageLoc (s : State) (p : Page) (va : Nat) : Loc :=
  let pa := entFrame p.entry / p.size * p.size + va % p.size
  if entHost p.entry then .mem (hostKey pa)
  else if entMod p.entry = s.tap.position % 64 then .mem pa
  else .remote (entMod p.entry) pa

/-- The TLB entry of a core that covers an address (R331). -/
def State.tlb? (s : State) (core ctx va : Nat) : Option Tlb :=
  s.mem.tlbs.find? fun t => decide (t.core = core ∧ t.ctx = ctx ∧ t.va ≤ va ∧ va < t.va + t.size)

/-- The state with a page's translation cached by a core; entries with V = 0 are never cached (R331). -/
def State.tlbFill (s : State) (core ctx va : Nat) (p : Page) : State :=
  s.mapMem fun m => { m with tlbs :=
    { core := core, ctx := ctx, va := va / p.size * p.size, size := p.size, entry := BitVec.ofNat 64 p.entry } ::
    (m.tlbs.filter fun t => decide (t.core ≠ core ∨ t.ctx ≠ ctx ∨ va < t.va ∨ t.va + t.size ≤ va)) }

/-- The outcome of translating an access. -/
inductive Trans where
  | page (p : Page)
  | absent
  | denied
  | sealed_
  | unanswered      -- an ATS request that the host leaves without an answer (R367)
  deriving DecidableEq, Repr

/-- The outcome for a page that has been found (R321 step 5). -/
def Page.check (p : Page) (write : Bool) : Trans :=
  if write && !entW p.entry then .denied
  else if write && entSeal p.entry then .sealed_
  else .page p

/-- Translation through a core's TLB: a cached entry may be used; a denial or seal met in a cached entry re-walks
the tables once (R331); a walk's success is cached. -/
def State.translate (s : State) (core ctx va : Nat) (write : Bool) : State × Trans :=
  let fresh : State × Trans := match s.walkIn (s.coreTable core ctx) ctx va with
    | none => (s, .absent)
    | some p => match p.check write with
      | .page p =>
        if entHost p.entry && (s.service.atsSilent || !s.service.linkUp) then (s, .unanswered)
        else (s.tlbFill core ctx va p, .page p)
      | r => (s, r)
  match s.tlb? core ctx va with
  | none => fresh
  | some t =>
    if Config.tlbHit s.seq then
      match Page.check { entry := t.entry.toNat, size := t.size, slot := 0, pod := false } write with
      | .page p => (s, .page p)
      | _ => fresh
    else fresh

/-! ### The device's own accesses to a context's memory -/

/-- Where an address of a context lives, by a fresh walk, when it may be read or written. -/
def State.devLoc (s : State) (ctx va : Nat) (write : Bool) : Option Loc :=
  if 2 ^ 57 ≤ va ∨ 0x1FFFF0000000000 ≤ va then none
  else match s.walk ctx va with
    | none => none
    | some p => match p.check write with
      | .page p => some (s.pageLoc p va)
      | _ => none

/-- The key of an address of a context, by a fresh walk, when it is in this module's or the host's memory. -/
def State.devKey (s : State) (ctx va : Nat) (write : Bool) : Option Nat :=
  match s.devLoc ctx va write with
  | some (.mem k) => some k
  | _ => none

/-- A sector of another module that the device has read for an owner (R39). -/
def State.farSector (s : State) (x : Nat × Nat × Nat) : Option (List Nat) :=
  (s.fabric.far.find? fun y => decide (y.1 = x)).map (·.2)

/-- A byte of a context's memory as the device reads it: the last version here, or what it has read of another module. -/
def State.devByte (s : State) (ctx va : Nat) : Option Byte :=
  match s.devLoc ctx va false with
  | some (.mem k) => some (s.mem.latest k)
  | some (.remote m pa) => match s.farSector (s.ownerOf ctx, m, pa / 64 * 64) with
    | some bs => (bs[pa % 64]?).map (BitVec.ofNat 8)
    | none => none
  | _ => none

/-- n bytes of a context's memory as the device reads them; none where a byte does not translate. -/
def State.devRead (s : State) (ctx va : Nat) : Nat → Option (List Byte)
  | 0 => some []
  | n + 1 =>
    match s.devByte ctx va, s.devRead ctx (va + 1) n with
    | some b, some bs => some (b :: bs)
    | _, _ => none

/-- The sectors of other modules that a range of a context's memory lies in: owner, module, address. -/
def State.farSectors (s : State) (ctx va n : Nat) : List (Nat × Nat × Nat) :=
  (upFrom (va / 64) (if n = 0 then 0 else (va % 64 + n + 63) / 64)).filterMap fun i =>
    match s.devLoc ctx (64 * i) false with
    | some (.remote m pa) => some (s.ownerOf ctx, m, pa)
    | _ => none

/-- A sector has been read. -/
def State.hasFar (s : State) (x : Nat × Nat × Nat) : Bool := s.fabric.far.any fun y => decide (y.1 = x)

/-- Sectors that tell which others are needed, and those others once the first have been read. -/
def State.farThen (s : State) (first : List (Nat × Nat × Nat)) (more : Unit → List (Nat × Nat × Nat)) :
    List (Nat × Nat × Nat) :=
  if first.all s.hasFar then first ++ more () else first

/-- Sectors that are no longer kept. -/
def State.forgetFar (s : State) (l : List (Nat × Nat × Nat)) : State :=
  if l.isEmpty then s
  else
    let far := s.fabric.far.filter fun y => decide (y.1 ∉ l)
    { s with fabric := { s.fabric with far := far } }

/-- The number in n bytes of a context's memory; 0 where they do not translate. -/
def State.devNum (s : State) (ctx va n : Nat) : Nat := leValue ((s.devRead ctx va n).getD [])

/-- Guest copies of a line are recalled (R260). -/
def State.recallGuests (s : State) (line : Nat) : State :=
  let now := s.dieClk (homeOf line)
  s.mapMem fun m =>
    { m with recalls := m.recalls ++ ((m.gdir.filter fun d =>
        decide (d.2.1 = line) && m.recalls.all fun r => decide (r.1 ≠ d.1 ∨ r.2.1 ≠ line)).map fun d =>
          (d.1, line, now)) }

/-- A guest die may hold newer bytes of a line (R260). -/
def Mem.guestDirty (m : Mem) (line : Nat) : Bool := m.gdir.any fun d => decide (d.2.1 = line) && d.2.2

/-- The bytes at an address of memory that a write of the device may go to now: at once, past a lease or with a pending
version, and with no guest die that holds newer bytes of the lines (R63, R260, R375). -/
def State.ownReady (s : State) (floor key n : Nat) : Bool :=
  (linesFrom key n).all fun l => s.mem.ownFree l (s.dieClk (homeOf l)) floor && !s.mem.guestDirty l

/-- A write of the device that waits: guest dies that hold newer bytes of its lines are asked for them (R260). -/
def State.ownWait (s : State) (key n : Nat) : State :=
  (linesFrom key n).foldl (fun (s : State) (l : Nat) => if s.mem.guestDirty l then s.recallGuests l else s) s

/-- A write of the device to memory by key, with a write time no earlier than a floor (R375): guest copies of the line
are recalled, and what a guest die had written to these bytes comes before it, whenever its answer comes (R260). -/
def State.ownStoreFrom (s : State) (floor key : Nat) (bs : List Byte) : State :=
  let lines := linesFrom key bs.length
  let now := s.dieClk (homeOf (lineOf key))
  let dirty := lines.filter s.mem.guestDirty
  let s := lines.foldl (fun (s : State) (l : Nat) => s.recallGuests l) s
  s.mapMem fun m => { m.ownStore now floor key bs with
    staleLines := m.staleLines ++ ((upFrom key bs.length).filter fun k => decide (lineOf k ∈ dirty)).map fun k => (lineOf k, k) }

/-- A write of the device to memory by key (R375). -/
def State.ownStore (s : State) (key : Nat) (bs : List Byte) : State := s.ownStoreFrom 0 key bs

/-- Line by line, n lines at most, the bytes of a write to a context's memory. -/
def State.devLines (ctx : Nat) : Nat → State → Nat → List Byte → State
  | 0, s, _, _ => s
  | n + 1, s, va, bs =>
    if bs.isEmpty then s
    else
      let here := 256 - va % 256
      let s' := match s.devKey ctx va true with
        | some k => s.ownStore k (bs.take here)
        | none => s
      State.devLines ctx n s' (va + here) (bs.drop here)

/-- A write of the device to a context's memory; bytes that do not translate writable are not written. -/
def State.devWrite (s : State) (ctx va : Nat) (bs : List Byte) : State := State.devLines ctx (bs.length / 256 + 2) s va bs

/-- Bytes of a context's memory that the view pool gives out again (R80). -/
def State.freshStorage (s : State) (ctx va n : Nat) : State :=
  match s.devKey ctx va true with
  | some k => s.mapMem fun m => m.freshStorage k n
  | none => s

/-! ### View pool and views -/

/-- A range of the pool is free (R235, R236). -/
def Ctx.free (c : Ctx) (at_ size : Nat) : Bool :=
  decide (c.vpBase ≤ at_ ∧ at_ + size ≤ c.vpBase + c.vpSize) &&
  c.allocs.all fun a => decide (at_ + size ≤ a.1 ∨ a.1 + a.2 ≤ at_)

/-- The lowest free place of the pool for a size and alignment. -/
def Ctx.place (c : Ctx) (size align : Nat) : Option Nat :=
  let up := fun x => (x + align - 1) / align * align
  let cands := (up c.vpBase :: c.allocs.map fun a => up (a.1 + a.2)).filter fun x => c.free x size
  match cands with
  | [] => none
  | x :: rest => some (rest.foldl min x)

/-- Pool space taken for a context, holding nothing of an earlier use, its bytes zeroed where that is asked for; none when
the pool is full. -/
def State.poolTake (s : State) (ctx size align : Nat) (zero : Bool) : Option (State × Nat) :=
  match s.ctx? ctx with
  | none => none
  | some c => match c.place size align with
    | none => none
    | some a =>
      let s := (s.mapCtx ctx fun c => { c with allocs := (a, size) :: c.allocs }).freshStorage ctx a size
      some (if zero then s.devWrite ctx a (List.replicate size 0) else s, a)

/-- Pool space given back. -/
def State.poolGive (s : State) (ctx at_ : Nat) : State :=
  s.mapCtx ctx fun c => { c with allocs := c.allocs.filter fun a => decide (a.1 ≠ at_) }

/-- Element size in bytes of a view format (R232). -/
def viewElem (fmt : Nat) : Nat := if fmt = 2 then 8 else if fmt = 4 then 2 else 4

/-- The identity element of an operator and format (R234). -/
def identity (fmt op : Nat) : Nat :=
  match op, fmt with
  | 0, 3 => 0x80000000
  | 0, 4 => 0x8000
  | 0, _ => 0
  | 1, 0 => 0x7FFFFFFF
  | 1, 1 => 0xFFFFFFFF
  | 1, 2 => 0x7FFFFFFFFFFFFFFF
  | 1, 3 => 0x7F800000
  | 1, _ => 0x7F80
  | 2, 0 => 0x80000000
  | 2, 1 => 0
  | 2, 2 => 0x8000000000000000
  | 2, 3 => 0xFF800000
  | 2, _ => 0xFF80
  | 3, 2 => 0xFFFFFFFFFFFFFFFF
  | 3, _ => 0xFFFFFFFF
  | _, _ => 0

/-- Byte i of an element's repetition. -/
def identityByte (t : Tile) (i : Nat) : Byte := atD 0 (leBytes (viewElem t.fmt) (identity t.fmt t.op)) (i % viewElem t.fmt)

/-- Bytes of a view page without storage, read from an address on (R80). -/
def blankValue (element size va n : Nat) : Nat :=
  leValue ((upFrom va n).map fun a => atD 0 (leBytes size element) (a % size))

/-- The tile of a view declaration that holds an address. -/
def tileAt : List Tile → Nat → Nat → Option (Nat × Tile)
  | [], _, _ => none
  | t :: rest, n, va =>
    if t.base ≤ va ∧ va < t.base + t.pages * 4096 then some (n, t) else tileAt rest (n + 1) va

/-- The page map of a tile in a view-table record: VMAP (0) or HMAP (8) (R235). -/
def State.viewMap (s : State) (ctx vrec tile which : Nat) : Nat := s.devNum ctx (vrec + 0x40 + 32 * tile + which) 8

/-- A page map entry: storage page address and dirty bits (R235). -/
def State.mapEntry (s : State) (ctx vmap page : Nat) : Nat × Nat :=
  (s.devNum ctx (vmap + 16 * page) 8 % 2 ^ 57 / 4096 * 4096, s.devNum ctx (vmap + 16 * page + 8) 8)

/-- Watches of a task on a sector of its view that gets its storage are registered at that storage from then on (R80,
R186). -/
def State.watchSector (s : State) (ctx vrec va place : Nat) : State :=
  match s.devKey ctx place true with
  | none => s
  | some k =>
    let mine := fun (core : Nat) => match s.pad? core with
      | some p => decide (p.vrec = vrec)
      | none => false
    let t := s.dieClk (homeOf (lineOf k))
    s.mapMem fun m => { m with ops := m.ops.map fun o => match o.kind, o.loc with
      | .watch c d sc (some _), .blank _ _ =>
        if o.ctx = ctx ∧ va ≤ o.va ∧ o.va < va + 64 ∧ mine o.core = true then
          { o with loc := .mem (k + (o.va - va)), kind := .watch c d sc (some t) }
        else o
      | _, _ => o }

/-- Storage for a sector about to be written through a page map: the page is allocated, the sector filled with
identity elements and marked dirty (R236). None when the pool is full. The count field is VPAGES or HPAGES. -/
def State.viewSector (s : State) (ctx vrec tile which vmap page sector : Nat) (t : Tile) : Option (State × Nat) :=
  let e := s.mapEntry ctx vmap page
  let got : Option (State × Nat) :=
    if e.1 ≠ 0 then some (s, e.1)
    else match s.poolTake ctx 4096 4096 false with
      | none => none
      | some (s, a) =>
        let s := s.devWrite ctx (vmap + 16 * page) (leBytes 8 a)
        let count := vrec + 0x40 + 32 * tile + 0x10 + (if which = 0 then 0 else 4)
        some (s.devWrite ctx count (leBytes 4 (s.devNum ctx count 4 + 1)), a)
  match got with
  | none => none
  | some (s, a) =>
    if e.2.testBit sector then some (s, a)
    else
      -- the first sector of a line brings the line's other sectors with it, which no load has read before
      let first := (upFrom (sector / 4 * 4) 4).all fun k => !e.2.testBit k
      let s := if first then s.devWrite ctx (a + sector / 4 * 256) ((upFrom 0 256).map (identityByte t))
        else s.devWrite ctx (a + 64 * sector) ((upFrom 0 64).map (identityByte t))
      let s := s.devWrite ctx (vmap + 16 * page + 8) (leBytes 8 (e.2 + 2 ^ sector))
      some (if which = 0 then s.watchSector ctx vrec (t.base + 4096 * page + 64 * sector) (a + 64 * sector) else s, a)

/-! ### Addresses of lanes and engines -/

/-- The start of the scratchpad window (R57). -/
def spadWindow : Nat := 0x1FFFF0000000000

/-- The outcome of an address: where it lives, or the cause it meets. -/
inductive Res where
  | at_ (l : Loc)
  | bad (cause : Nat)
  deriving DecidableEq, Repr

/-- A page's outcome as a cause of R321. -/
def State.transRes (s : State) (va : Nat) : Trans → Res
  | .page p => .at_ (s.pageLoc p va)
  | .absent => .bad 0x0200
  | .denied => .bad 0x0201
  | .sealed_ => .bad 0x0202
  | .unanswered => .bad 0x0803

/-- Steps 3 and 5 of R321 for an address of a pad group's task: the scratchpad window, a view of the task, or the
context's tables. A write allocates view storage (R236). -/
def State.resolve (s : State) (p : Pad) (va : Nat) (write : Bool) : State × Res :=
  if spadWindow ≤ va then
    if va - spadWindow < p.top then (s, .at_ (.spad p.core (va - spadWindow))) else (s, .bad 0x0205)
  else match tileAt p.views 0 va with
    | some (n, t) =>
      let vmap := s.viewMap p.ctx p.vrec n 0
      let page := (va - t.base) / 4096
      let sector := (va - t.base) % 4096 / 64
      if write then
        match s.viewSector p.ctx p.vrec n 0 vmap page sector t with
        | none => (s, .bad 0x0400)
        | some (s, a) => match s.devKey p.ctx (a + (va - t.base) % 4096) true with
          | some k => (s, .at_ (.mem k))
          | none => (s, .bad 0x0200)
      else
        let e := s.mapEntry p.ctx vmap page
        if e.1 = 0 ∨ !e.2.testBit sector then (s, .at_ (.blank (identity t.fmt t.op) (viewElem t.fmt)))
        else match s.devKey p.ctx (e.1 + (va - t.base) % 4096) false with
          | some k => (s, .at_ (.mem k))
          | none => (s, .bad 0x0200)
    | none =>
      let r := s.translate p.core p.ctx va write
      (r.1, r.1.transRes va r.2)

/-- The cause an access meets in the order of R321, steps 1, 2, 3 and 5; none when it may be made. While the
host link is down an ATS translation has no answer (R367, log entry 16). -/
def State.accessFault (s : State) (p : Pad) (va align : Nat) (write : Bool) : Option Nat :=
  if va % align ≠ 0 then some 0x0203
  else if 2 ^ 57 ≤ va then some 0x0204
  else match (s.resolve p va write).2 with
    | .at_ (.mem k) => if isHost k && !s.service.linkUp then some 0x0803 else none
    | .at_ _ => none
    | .bad c => some c

end Sys2Proof.Machine
end

