-- ==== Sys2Proof/Machine/Report.lean ====
section
/-! DEFINITION. Completion of accesses for a lane (R69), event counters and the trigger table's condition (R214, R215),
fault records and their queues (R263, R299, R307, R308). -/

namespace Sys2Proof.Machine

/-! ### Completion -/

/-- An outstanding instruction of a thread is complete for the thread: the registers it still has to write are
written and no longer pending (R69, R136). -/
def Thread.finish (t : Thread) (inst : Nat) (writes : List (Nat × Word)) : Thread :=
  let due := (t.outs.filter fun o => decide (o.inst = inst)).flatMap (·.dsts)
  let t := writes.foldl (fun t w => if w.1 ∈ due then t.putReg w.1 w.2 else t) t
  { t with outs := t.outs.map fun o => if o.inst = inst then { o with ready := true, dsts := [] } else o }

/-- The registers of an outstanding instruction are written; it stays outstanding. -/
def Thread.fill (t : Thread) (inst : Nat) (writes : List (Nat × Word)) : Thread :=
  let due := (t.outs.filter fun o => decide (o.inst = inst)).flatMap (·.dsts)
  let t := writes.foldl (fun t w => if w.1 ∈ due then t.putReg w.1 w.2 else t) t
  { t with outs := t.outs.map fun o => if o.inst = inst then { o with dsts := [] } else o }

/-- `Thread.finish` for a thread of the machine. -/
def State.finishLane (s : State) (core fg lane inst : Nat) (writes : List (Nat × Word)) : State :=
  s.mapThread core fg lane fun t => t.finish inst writes

/-- `Thread.finish` for several threads. -/
def State.finishLanes (s : State) (core fg : Nat) (lanes : List Nat) (inst : Nat) (writes : List (Nat × Word)) : State :=
  s.mapLanes core fg lanes fun _ t => t.finish inst writes

/-- A thread's read floor raised (R62, R72). -/
def Thread.raiseFloor (t : Thread) (f : Nat) : Thread := { t with floor := max t.floor f }

/-- A thread's store mark raised (R65). -/
def Thread.raiseMark (t : Thread) (w : Nat) : Thread := { t with mark := max t.mark w }

/-- A value as the writes of a register or pair (R4). -/
def regWrites (d : Nat) (wide : Bool) (v : Nat) : List (Nat × Word) :=
  if wide then [(d, BitVec.ofNat 32 v), (pairHi d, BitVec.ofNat 32 (v / 2 ^ 32))] else [(d, BitVec.ofNat 32 v)]

/-! ### Counters and triggers -/

/-- The address of an event counter of a context (R214). -/
def State.counterVa (s : State) (ctx i : Nat) : Nat :=
  match s.ctx? ctx with
  | some c => c.counters + 8 * (i % 8192)
  | none => 0

/-- The key of an event counter of a context on this module (R214). -/
def State.counterKey (s : State) (ctx i : Nat) : Option Nat :=
  match s.ctx? ctx with
  | none => none
  | some c => s.devKey ctx (c.counters + 8 * (i % 8192)) true

/-- The value of an event counter. -/
def State.counterVal (s : State) (ctx i : Nat) : Nat :=
  match s.counterKey ctx i with
  | none => 0
  | some k => leValue (s.mem.latestBytes k 8)

/-- An armed entry whose counter has reached its threshold fires: its reads are an acquire of the counter's updates so
far, so they are made no earlier than the last of them (R215). -/
def State.fireOne (s : State) (e : Entry) : Entry :=
  match s.counterKey e.ctx e.tctr with
  | none => e
  | some k =>
    if !e.fired && decide (e.thresh ≤ s.counterVal e.ctx e.tctr) then
      { e with fired := true, floor := max e.floor (s.mem.latestWt k 8) }
    else e

/-- Armed entries whose counter has reached its threshold fire (R215). -/
def State.fire (s : State) : State := { s with triggers := s.triggers.map s.fireOne }

/-- A counter's home can update it: no lease is about to lapse (R63), and no guest die holds newer bytes of its line, which
come before the update (R260). -/
def State.counterReady (s : State) (ctx i : Nat) : Bool :=
  match s.counterKey ctx i with
  | none => true
  | some k => s.ownReady 0 k 8

/-- A counter update waits: guest copies of its line are recalled (R260). -/
def State.recallCounter (s : State) (ctx i : Nat) : State :=
  match s.counterKey ctx i with
  | none => s
  | some k => s.ownWait k 8

/-- A counter update: one read-modify-write at the counter's home, after which entries fire (R214, R215). -/
def State.counterAdd (s : State) (ctx i v : Nat) : State :=
  match s.counterKey ctx i with
  | none => s
  | some k => (s.ownStore k (leBytes 8 (leValue (s.mem.latestBytes k 8) + v))).fire

/-! ### Fault records -/

/-- INFO of a record about a group (R299). -/
def groupInfo (index length start : Nat) : Nat := index % 4 * 2 ^ 62 + (length - 1) % 4 * 2 ^ 60 + start % 2 ^ 57

/-- A fault record before its time is stamped (R263). -/
structure FaultRec where
  cause : Nat
  kind : Nat
  sub : Nat
  flags : Nat          -- bit 0 RESUMABLE, bit 1 PRECISE
  ctx : Nat
  owner : Nat
  addr : Nat
  info : Nat
  detail : Nat
  die : Option Nat := none   -- the reporting die, where DETAIL does not tell
  deriving DecidableEq, Repr

/-- The die that reports (R299): as DETAIL names it, the attach die of a guest, or else the fabric die, which keeps die 0's
clock (log entry 9). -/
def FaultRec.reporter (r : FaultRec) : Nat :=
  r.die.getD (if r.kind ∈ [0, 1, 2, 4] then r.detail / 2 ^ 20 % 32
    else if r.kind ∈ [3, 11] then r.detail % 32
    else if r.kind = 5 then attachDie r.sub else 0)

/-- The 32 bytes of a record (R263). -/
def FaultRec.value (r : FaultRec) (time : Nat) : BitVec 256 :=
  BitVec.ofNat 256 (r.cause % 2 ^ 16 + (r.kind % 16 * 16 + r.sub % 16) * 2 ^ 16 + r.flags % 256 * 2 ^ 24 +
    r.ctx % 2 ^ 16 * 2 ^ 32 + r.owner % 4096 * 2 ^ 48 + r.addr % 2 ^ 64 * 2 ^ 64 + r.info % 2 ^ 64 * 2 ^ 128 +
    time % 2 ^ 32 * 2 ^ 192 + r.detail % 2 ^ 32 * 2 ^ 224)

/-- A fault queue in memory: the key of its header and its size in records (R307). -/
def queueOf (base : Nat) (host : Bool) : Option (Nat × Nat) :=
  let page := base / 4096 % 2 ^ 42 * 4096
  if page = 0 then none else some (if host then hostKey page else page, 2 ^ (base % 16 + 5))

/-- A queue is full: TAIL - HEAD equals its size (R307). -/
def State.queueFull (s : State) (q : Nat × Nat) : Bool :=
  decide (q.2 ≤ countDiff (leValue (s.mem.latestBytes q.1 4)) (leValue (s.mem.latestBytes (q.1 + 4) 4)))

/-- A word of a DETAIL record counted up (R284). -/
def State.countDetail (s : State) (unit word : Nat) : State :=
  { s with service := { s.service with
      detail := tabSet 0 s.service.detail (unit * 8 + word) (tabGet 0 s.service.detail (unit * 8 + word) + 1) } }

/-- CTRSEL of a fault queue (R307). -/
def State.queueSel (s : State) (q : Nat × Nat) : Nat := leValue (s.mem.latestBytes (q.1 + 12) 2)

/-- The event counter that a context fault queue's CTRSEL names, bumped after a record (R307). -/
def State.queueCounter (s : State) (ctx : Nat) (q : Nat × Nat) : State :=
  if (s.queueSel q).testBit 15 then s.counterAdd ctx (s.queueSel q % 8192) 1 else s

/-- The counter that follows a TAIL can be updated (R260, R307). -/
def State.tailReady (s : State) (c : Option Nat) (q : Nat × Nat) : Bool :=
  match c with
  | some ctx => !(s.queueSel q).testBit 15 || s.counterReady ctx (s.queueSel q)
  | none => true

/-- The context fault queue of a context (R272, R307). -/
def State.ctxQueue (s : State) (ctx : Nat) : Option (Nat × Nat) :=
  match s.desc ctx with
  | none => none
  | some d => queueOf d.2.2 false

/-- The fault queue of a context, or the system's. -/
def State.queueAt (s : State) : Option Nat → Option (Nat × Nat)
  | some ctx => s.ctxQueue ctx
  | none => queueOf s.service.sfqBase true

/-- What waits for a fault queue. -/
def State.faultQ (s : State) (c : Option Nat) : FaultQ :=
  (s.faultQs.find? fun x => decide (x.ctx = c)).getD { ctx := c, held := [], writing := none }

/-- The state with what waits for a fault queue changed; a queue that nothing waits for is not listed. -/
def State.setFaultQ (s : State) (x : FaultQ) : State :=
  { s with faultQs := (s.faultQs.filter fun y => decide (y.ctx ≠ x.ctx)) ++
      if x.held.isEmpty && x.writing.isNone then [] else [x] }

/-- The line of the record that the next TAIL publishes. -/
def State.recordKey (s : State) (q : Nat × Nat) : Nat := q.1 + 64 + 32 * (leValue (s.mem.latestBytes q.1 4) % q.2)

/-- The tick at which a record or TAIL of a queue is written: the later of the two homes' clocks. -/
def State.queueClk (s : State) (q : Nat × Nat) : Nat :=
  min (s.dieClk (homeOf (lineOf q.1))) (s.dieClk (homeOf (lineOf (s.recordKey q))))

/-- TAIL follows its record with release at `system` scope: when the record is visible (R71, R307). A record of the
system fault queue then raises MSI-X vector 0 (R308); one of a context's adds to the counter that CTRSEL names. -/
def State.writeTail (s : State) (c : Option Nat) (q : Nat × Nat) : State :=
  let x := s.faultQ c
  match x.writing with
  | none => s
  | some wt =>
    if !s.tailReady c q then match c with
      | some ctx => s.recallCounter ctx (s.queueSel q)
      | none => s
    else if !s.ownReady 0 q.1 4 then s.ownWait q.1 4
    else if wt ≤ s.queueClk q then
      let s := (s.ownStore q.1 (leBytes 4 (leValue (s.mem.latestBytes q.1 4) + 1))).setFaultQ { x with writing := none }
      match c with
      | some ctx => s.queueCounter ctx q
      | none => { s with service := { s.service with msix := 0 :: s.service.msix } }
    else s

/-- The next held record is written into a queue with room, once the record before it has been published (R307). -/
def State.writeRecord (s : State) (c : Option Nat) (q : Nat × Nat) : State :=
  let x := s.faultQ c
  match x.held, x.writing with
  | v :: rest, none =>
    if s.queueFull q then s
    else
      let key := s.recordKey q
      if !s.ownReady 0 key 32 then s.ownWait key 32 else
      let wt := s.mem.ownStoreWt (s.dieClk (homeOf (lineOf key))) 0 key 32
      (s.ownStore key (leBytes 32 v.toNat)).setFaultQ { x with held := rest, writing := some wt }
  | _, _ => s

/-- The report engine serves a queue as far as it may, record after record (R307). -/
def State.drainQueue (s : State) (c : Option Nat) (q : Nat × Nat) : Nat → State
  | 0 => s.writeTail c q
  | n + 1 => ((s.writeTail c q).writeRecord c q).drainQueue c q n

/-- Every queue that records wait for is served (R307). -/
def State.drainAll (s : State) : State :=
  s.faultQs.foldl (fun (s : State) (x : FaultQ) =>
    match s.queueAt x.ctx with
    | none => s
    | some q => s.drainQueue x.ctx q (x.held.length + 1)) s

/-- A record for a fault queue: written, or held behind others and while the queue is full; with 64 held while it is full
it is dropped, and LOST counts it (R307). -/
def State.fileRecord (s : State) (c : Option Nat) (q : Nat × Nat) (v : BitVec 256) : State :=
  let s := s.drainQueue c q ((s.faultQ c).held.length + 1)
  let x := s.faultQ c
  if s.queueFull q && decide (64 ≤ x.held.length) then
    s.ownStore (q.1 + 8) (leBytes 4 (leValue (s.mem.latestBytes (q.1 + 8) 4) + 1))
  else (s.setFaultQ { x with held := x.held ++ [v] }).drainQueue c q 1

/-- A record for the system fault queue: dropped and counted when no queue is named (R307, R308). -/
def State.systemRecord (s : State) (v : BitVec 256) : State :=
  match queueOf s.service.sfqBase true with
  | none => s.countDetail 87 0
  | some q => s.fileRecord none q v

/-- A record for a context fault queue (R307). -/
def State.contextRecord (s : State) (ctx : Nat) (q : Nat × Nat) (v : BitVec 256) : State := s.fileRecord (some ctx) q v

/-- A fault record to the context fault queue, the system fault queue, or both; where the context names no queue the
system queue takes its place, once (R307). -/
def State.report (s : State) (r : FaultRec) (toCtx toSys : Bool) : State :=
  let v := r.value (s.dieClk r.reporter)
  match s.ctxQueue r.ctx with
  | none => if toCtx || toSys then s.systemRecord v else s
  | some q =>
    let s := if toCtx then s.contextRecord r.ctx q v else s
    if toSys then s.systemRecord v else s

/-- A report to the fabric manager (R308). -/
def State.tellManager (s : State) (cause arg : Nat) : State :=
  { s with fabric := { s.fabric with reports := s.fabric.reports ++ [{ cause := cause, arg := arg, clk := s.clk }] } }

/-- A record of class stalled about a context (R298). -/
def stalledRec (cause kind ctx owner addr info detail : Nat) : FaultRec :=
  { cause := cause, kind := kind, sub := 0, flags := 1, ctx := ctx, owner := owner, addr := addr, info := info,
    detail := detail }

/-- A record of class deferred or containment about a context (R298). -/
def plainRec (cause kind ctx owner addr info detail : Nat) : FaultRec :=
  { cause := cause, kind := kind, sub := 0, flags := 0, ctx := ctx, owner := owner, addr := addr, info := info,
    detail := detail }

/-! ### What follows an update of memory -/

/-- A watch completes with the version of its word that met it, or the current one, and raises F at slice scope or wider (R186);
a watch at a remote home becomes a read of the word there. -/
def State.completeWatch (s : State) (o : Op) : State :=
  match o.kind, o.loc with
  | .watch _ dst scope _, .mem k =>
    let now := s.dieClk (homeOf (lineOf k))
    let x := o.met.getD (leValue (s.mem.bytesAt k 4 now), greatest 0 ((upFrom k 4).map fun x => s.mem.wtAt x now))
    let s' := s.finishLanes o.core o.fg o.lanes o.inst (regWrites dst false x.1)
    let s' := if 3 ≤ scope then s'.mapLanes o.core o.fg o.lanes fun _ t => t.raiseFloor x.2 else s'
    s'.dropOp o.id
  | .watch _ dst _ _, .blank e size =>
    (s.finishLanes o.core o.fg o.lanes o.inst (regWrites dst false
      (leValue ((upFrom o.va 4).map fun a => atD 0 (leBytes size e) (a % size))))).dropOp o.id
  | .watch _ dst _ _, .remote _ _ =>
    s.mapOp o.id fun o => { o with kind := .load 4 dst false none, packet := none }
  | _, _ => s

/-- Watches whose word's current version differs, or differed as it became current, complete (R186). -/
def State.scanWatches (s : State) : State :=
  s.mem.ops.foldl (fun s o =>
    match o.kind, o.loc with
    | .watch c _ _ (some _), .mem k =>
      if o.met.isNone && decide (leValue (s.mem.bytesAt k 4 (s.dieClk (homeOf (lineOf k)))) = c) then s
      else s.completeWatch o
    | _, _ => s) s

/-- Something of a context is left on the module (R376). -/
def State.ctxInUse (s : State) (ctx : Nat) : Bool :=
  (s.pads.any fun p => decide (p.ctx = ctx)) || (s.triggers.any fun e => decide (e.ctx = ctx)) ||
    (s.mem.merges.any fun m => decide (m.ctx = ctx)) || s.mem.records.any fun r => decide (r.ctx = ctx)

/-- Context records whose descriptor counts no more, and of which nothing is left, end (R376). -/
def State.dropContexts (s : State) : State :=
  { s with ctxs := s.ctxs.filter fun c => (s.desc c.id).isSome || s.ctxInUse c.id }

/-- After versions became current: watches, triggers, held records, context records (R186, R215, R307, R376). -/
def State.afterUpdate (s : State) : State := s.scanWatches.fire.drainAll.dropContexts

end Sys2Proof.Machine
end

