-- ==== Sys2Proof/Machine/Ops.lean ====
section
/-! DEFINITION. Named operations shared by the meanings: queue ports (R135, R244, R245), taking a trap (R301, R305, R306),
the return from one (R304), efts (R50, R332), and the operands and results of lanes (R150). -/

namespace Sys2Proof.Machine

/-! ### Queue ports -/

/-- A port's binding: KIND, PEERFG, PEERPORT, LOGDEPTH, RING (R244). -/
structure Binding where
  kind : Nat
  peerFg : Nat
  peerPort : Nat
  log : Nat
  ring : Nat
  deriving DecidableEq, Repr

/-- The binding of port qpN, N = port register - 56, in k(24 + N) (R244). -/
def FileGroup.binding (g : FileGroup) (n : Nat) : Binding :=
  let w := (g.kreg (24 + n)).toNat
  { kind := w / 2 ^ 30, peerFg := w / 2 ^ 28 % 4, peerPort := w / 2 ^ 25 % 8, log := w / 2 ^ 20 % 32,
    ring := w % 2 ^ 20 / 4 * 4 }

/-- The first byte after a port ring (R244). -/
def Binding.end_ (b : Binding) (nt : Nat) : Nat := b.ring + 4 * nt + 4 * nt * 2 ^ b.log

/-- The cause a pop of a port meets (R322). -/
def Pad.popFault (p : Pad) (g : FileGroup) (n : Nat) : Option Nat :=
  let b := g.binding n
  if b.kind ≠ 1 then some 0x0500 else if p.top < b.end_ p.nt then some 0x0502 else none

/-- The cause a push through a port meets (R322). -/
def Pad.pushFault (p : Pad) (g : FileGroup) (n : Nat) : Option Nat :=
  let b := g.binding n
  if b.kind ≠ 1 then some 0x0500
  else match p.fgs[b.peerFg]? with
    | none => some 0x0503
    | some h =>
      if p.nf ≤ b.peerFg then some 0x0503
      else
        let q := h.binding b.peerPort
        if q.kind ≠ 1 ∨ q.log ≠ b.log then some 0x0501
        else if p.top < q.end_ p.nt then some 0x0502
        else if h.exited then some 0x0504 else none

/-- PUSHED and POPPED of a thread's ring (R244). -/
def Pad.portCounts (p : Pad) (b : Binding) (thread : Nat) : Nat × Nat :=
  let w := p.word (b.ring + 4 * thread)
  (w / 2 ^ 16, w % 2 ^ 16)

/-- Entries a thread may pop from a port. -/
def Pad.portHeld (p : Pad) (b : Binding) (thread : Nat) : Nat :=
  let c := p.portCounts b thread
  (c.1 + 2 ^ 16 - c.2) % 2 ^ 16

/-- Where entry s of a thread's ring lies (R244). -/
def Binding.slot (b : Binding) (nt thread s : Nat) : Nat := b.ring + 4 * nt + 4 * (thread * 2 ^ b.log + s % 2 ^ b.log)

/-- A pop by a thread of port n of its file group (R245): the entry and the pad group after it. -/
def Pad.pop (p : Pad) (g : FileGroup) (n thread now : Nat) : Pad × Word :=
  let b := g.binding n
  let c := p.portCounts b thread
  (p.setWord (b.ring + 4 * thread) (c.1 * 2 ^ 16 + (c.2 + 1) % 2 ^ 16) now,
   BitVec.ofNat 32 (p.word (b.slot p.nt thread c.2)))

/-- A push by a thread through port n of its file group (R245). -/
def Pad.push (p : Pad) (g : FileGroup) (n thread : Nat) (v : Word) (now : Nat) : Pad :=
  let b := g.binding n
  match p.fgs[b.peerFg]? with
  | none => p
  | some h =>
    let q := h.binding b.peerPort
    let c := p.portCounts q thread
    (p.setWord (q.slot p.nt thread c.1) v.toNat now).setWord (q.ring + 4 * thread)
      ((c.1 + 1) % 2 ^ 16 * 2 ^ 16 + c.2) now

/-! ### Pre-emption requests -/

/-- A pre-emption request for a context reaches the module: dispatch of it stops, its watches complete (R52, R186). -/
def State.requestPreempt (s : State) (ctx : Nat) : State :=
  if (s.preempt? ctx).isSome then s
  else
    let q : Preempt := { ctx := ctx, since := s.clk, step := 1, forced := false, stalled := none, parkedOn := 0,
                         resumeAt := 0, sent := [], written := [] }
    let s1 : State := { s with preempts := s.preempts ++ [q] }
    s1.mem.ops.foldl (fun (a : State) (o : Op) => if o.ctx = ctx then a.completeWatch o else a) s1

/-! ### The PC table -/

/-- A thread is in the PC table and may issue now: ready, not exited, not at a safe point, at the current level (R47,
R303). -/
def FileGroup.inTable (g : FileGroup) (t : Thread) : Bool :=
  decide (t.wait = .ready) && !t.exited && t.parked.isNone && decide (t.level = g.level) &&
  (match t.barrier with
   | .no => true
   | _ => false)

/-- The threads in the PC table, ascending. -/
def FileGroup.table (g : FileGroup) : List Nat := g.indices.filter fun i => g.inTable (g.thread i)

/-- The age of a run: the largest counter of its threads (R48). -/
def FileGroup.runAge (g : FileGroup) (lanes : List Nat) : Nat := greatest 0 (lanes.map fun i => (g.thread i).age)

/-- The threads of each run of the table with their run's counter: what splits from a run without its issuing keeps that
(R48). -/
def FileGroup.shareAges (g : FileGroup) : FileGroup :=
  let age := fun (i : Nat) (t : Thread) =>
    if i ∈ g.table then g.runAge (g.table.filter fun k => decide ((g.thread k).pc = t.pc)) else t.age
  { g with threads := mapFrom (fun i t => { t with age := age i t }) 0 g.threads }

/-- Threads that a phase has released while a handler held their level re-enter the PC table (R191, R303). -/
def FileGroup.wakeReleased (g : FileGroup) : FileGroup :=
  { g with threads := g.threads.map fun t =>
      if t.barrier = .released ∧ t.level = g.level then { t with barrier := .no, wait := .ready, waitSub := 0 } else t }

/-! ### Taking a trap -/

/-- The bank that registers 16-23 name: that of the current level (R302). -/
def FileGroup.bank (g : FileGroup) : TrapBank := if g.level = 2 then g.bank2 else g.bank1

/-- The file group with the bank of its current level changed. -/
def FileGroup.setBank (g : FileGroup) (b : TrapBank) : FileGroup :=
  if g.level = 2 then { g with bank2 := b } else { g with bank1 := b }

/-- TCAUSE of a trap (R302). -/
def TrapInfo.causeWord (t : TrapInfo) (level : Nat) : BitVec 32 :=
  BitVec.ofNat 32 (t.cause % 2 ^ 16 + (if t.precise then 2 ^ 16 else 0) + (if level = 2 then 2 ^ 18 else 0))

/-- TINFO of a trap (R302). -/
def TrapInfo.infoWord (t : TrapInfo) : BitVec 32 :=
  BitVec.ofNat 32 (t.index % 4 * 2 ^ 30 + (t.length - 1) % 4 * 2 ^ 28 + t.n % 512)

/-- INFO of a core's record (R299). -/
def TrapInfo.recInfo (t : TrapInfo) : Nat :=
  t.index % 4 * 2 ^ 62 + (t.length - 1) % 4 * 2 ^ 60 + t.start % 2 ^ 57

/-- The vector in k22:k23, bits [56:0] (R301). -/
def FileGroup.vector (g : FileGroup) : Nat := ((g.kreg 23).toNat * 2 ^ 32 + (g.kreg 22).toNat) % 2 ^ 57

/-- A file group halts (R306): it issues no more, a record 0x0B02 goes to both queues, and the context is
pre-empted. -/
def State.haltFg (s : State) (p : Pad) (fg : Nat) (lead : Nat) (t : TrapInfo) : State :=
  let tcause := match p.fgs[fg]? with
    | some g => g.bank2.cause.toNat % 2 ^ 16
    | none => 0
  let s := s.mapFg p.core fg fun g => { g with halted := true }
  let s := s.report { (plainRec 0x0B02 0 p.ctx (s.ownerOf p.ctx) t.addr t.recInfo tcause) with die := some (dieOf p.core) } true true
  let _ := lead
  s.requestPreempt p.ctx

/-- Taking a trap: the delivery of R301 to a set of threads at the file group's current level, with the escalation
of R305 and the halt of R306. -/
def State.trapEntry (s : State) (core fg : Nat) (set : List Nat) (t : TrapInfo) : State :=
  match s.pad? core with
  | none => s
  | some p => match p.fgs[fg]? with
    | none => s
    | some g =>
      let lead := leastD 0 set
      if set.isEmpty then s
      else if 2 ≤ g.level then s.haltFg p fg lead t
      else
        let new := g.level + 1
        let user := decide (new = 1 ∧ t.cause ≠ 0x0002 ∧ g.vector ≠ 0)
        let vector := if user then g.vector else s.service.sysEntry
        let bank : TrapBank :=
          { cause := t.causeWord new, epc := BitVec.ofNat 64 t.epc, addr := BitVec.ofNat 64 t.addr,
            info := t.infoWord, word := BitVec.ofNat 32 t.word, nht := set.length, pmode := (g.thread lead).system }
        let s := s.mapFg core fg fun g =>
          (FileGroup.setBank { g with level := new } bank).mapLanes set fun _ th =>
            { th with level := new, pc := BitVec.ofNat 57 vector, system := !user, wait := .ready, barrier := .no,
                      outs := th.outs.map fun o => { o with window := 0 } }
        if new = 2 then
          s.report { cause := 0x0B03, kind := 0, sub := 0, flags := 0, ctx := p.ctx, owner := s.ownerOf p.ctx,
                     addr := t.addr, info := t.recInfo, detail := whereWord s.tap.position core fg } true true
        else s

/-- A trap as it is delivered when its level is current: an imprecise one names the next word that its threads would issue
(R326, R347, R360). -/
def TrapInfo.now (t : TrapInfo) (pc : Nat) : TrapInfo := if t.precise then t else { t with epc := pc, start := pc }

/-- The threads of a trap that take it together: of an imprecise one those that would issue the same word next, since each
has its own as TEPC (R326, R347). -/
def FileGroup.trapMates (g : FileGroup) (lanes : List Nat) (t : TrapInfo) : List Nat :=
  if t.precise then lanes else lanes.filter fun i => decide ((g.thread i).pc = (g.thread (leastD 0 lanes)).pc)

/-- A trap of some threads at the current level, taken out of those that wait; the runs it takes threads from keep their
ageing counters (R48, R301). -/
def State.deliverOne (s : State) (core fg : Nat) (g : FileGroup) (pt : PendTrap) (lanes : List Nat) : State :=
  let now := g.trapMates lanes pt.info
  let rest := lanes.filter fun i => decide (i ∉ now)
  let left : List PendTrap := if rest.isEmpty then [] else [{ pt with lanes := rest }]
  (s.mapFg core fg fun g => { g.shareAges with pendTraps := left ++ g.pendTraps.erase pt }).trapEntry core fg now
    (pt.info.now (g.thread (leastD 0 now)).pc.toNat)

/-- Traps that waited for a level to end are delivered to threads at the current level (R300, R303, R347). -/
def State.deliverPending (s : State) (core fg : Nat) : State :=
  match s.fg? core fg with
  | none => s
  | some g =>
    g.pendTraps.foldl (fun s (pt : PendTrap) =>
      match s.fg? core fg with
      | none => s
      | some g =>
        let lanes := pt.lanes.filter fun i => !(g.thread i).exited
        if lanes.isEmpty then s.mapFg core fg fun g => { g with pendTraps := g.pendTraps.erase pt }
        else if lanes.all fun i => decide ((g.thread i).level = g.level) then s.deliverOne core fg g pt lanes
        else s) s

/-- A trap of some threads that no word of the current level raises: delivered now, or when their level is current again
(R301, R303). -/
def State.laterTrap (s : State) (core fg : Nat) (lanes : List Nat) (t : TrapInfo) : State :=
  (s.mapFg core fg fun g => { g with pendTraps := g.pendTraps ++ [{ lanes := lanes, info := t }] }).deliverPending core fg

/-- An imprecise trap of some threads (R347, R360, R326). -/
def State.impreciseTrap (s : State) (core fg : Nat) (lanes : List Nat) (cause addr : Nat) : State :=
  s.laterTrap core fg lanes
    { cause := cause, precise := false, epc := 0, addr := addr, index := 0, length := 1, n := 0, word := 0, start := 0 }

/-- A file group at a lower handler level: what split at a higher one is over (R303, R304). -/
def FileGroup.lowerLevel (g : FileGroup) (level : Nat) : FileGroup :=
  { g with level := level, splits := g.splits.filter fun sp => decide (sp.level ≤ level) }

/-- The return from a handler for a set of threads at the current level (R304). -/
def State.trapReturn (s : State) (core fg : Nat) (set : List Nat) : State :=
  let s := s.mapFg core fg fun g =>
    let b := g.bank
    let g := g.mapLanes set fun _ t =>
      { t with pc := BitVec.ofNat 57 (b.epc.toNat % 2 ^ 57), system := b.pmode, level := t.level - 1 }
    let g := g.setBank { b with nht := b.nht - set.length }
    (if b.nht ≤ set.length then g.lowerLevel (g.level - 1) else g).wakeReleased
  s.deliverPending core fg

/-- A bank whose level has lost a thread. -/
def TrapBank.lose (b : TrapBank) : TrapBank := { b with nht := b.nht - 1 }

/-- A thread that exits in a handler lowers NHT of its level, as `rti` does, and of the level below it, in which it was
counted too; a level that has lost its last thread ends (R304). A thread of another level leaves both as they are. -/
def FileGroup.leaveHandler (g : FileGroup) (level : Nat) : FileGroup :=
  let g1 := if 1 ≤ level then { g with bank1 := g.bank1.lose } else g
  let g2 := if 2 ≤ level then { g1 with bank2 := g1.bank2.lose } else g1
  let g3 := if level = 2 ∧ g2.level = 2 ∧ g2.bank2.nht = 0 then g2.lowerLevel 1 else g2
  (if 1 ≤ level ∧ g3.level = 1 ∧ g3.bank1.nht = 0 then g3.lowerLevel 0 else g3).wakeReleased

/-! ### Efts -/

/-- The number that a new eft takes, the lowest free one: R50 does not say which (DESIGN CHOICE, log entry 88). -/
def FileGroup.freeEft (g : FileGroup) : Option Nat :=
  (upFrom 0 16).find? fun n => g.efts.all fun e => decide (e.num ≠ n)

/-- Lanes that met a page fault leave the PC table as one eft at the word's address (R50), or are held at the word
when every eft number is in use (R332). A record is written unless the lanes only park again on what they parked on
(R330); for an unanswered ATS translation it is written when 1 ms has passed (R367). The other lanes of the run that complete their group stop at their next `reconv` until the eft's lanes are there (R51);
the eft's own lanes, and lanes that trap at the word, wait there for nobody of it (DEDUCED, log entry 89). -/
def State.formEft (s : State) (core fg : Nat) (lanes others : List Nat) (pc : BitVec 57) (cause va : Nat) (write : Bool)
    (info : Nat) : State :=
  match s.pad? core, s.fg? core fg with
  | some p, some g =>
    if lanes.isEmpty then s
    else
      let num := g.freeEft
      let quiet := lanes.all fun i => decide ((g.thread i).quiet = cause ∧ (g.thread i).quietPage = va / 65536)
      let at_ := num.getD (greatest 15 (g.efts.map (·.num)) + 1)
      let wait : WaitKind := if num.isSome then .eft else .ready
      let s := s.mapFg core fg fun g =>
        { g.mapLanes lanes (fun _ t => { t with wait := wait, waitSub := at_, pc := pc, quiet := cause, quietPage := va / 65536 }) with
          efts := g.efts ++ [{ num := at_, lanes := lanes, pc := pc, va := va, cause := cause, write := write,
                               held := num.isNone, retry := false }]
          splits := if others.isEmpty || num.isNone then g.splits else g.splits ++ [{ lanes := others, efts := lanes, reached := [], level := g.level }] }
      if cause = 0x0803 then
        s.addOp { id := 0, inst := 0, core := core, fg := fg, lanes := lanes, ctx := p.ctx, va := va, loc := .blank 0 1,
                  kind := .ats, afterAll := false, hold := none, packet := none,
                  atsSince := some s.clk, fresh := false, issued := s.clk, met := none }
      else if quiet then s
      else s.report { cause := cause, kind := 0, sub := 0, flags := 3, ctx := p.ctx, owner := s.ownerOf p.ctx, addr := va,
                      info := info, detail := whereWord s.tap.position core fg } true true
  | _, _ => s

/-! ### The issuing run -/

/-- The run that issues, with its pad group and file group. -/
def State.running (s : State) : Option (Run × Pad × FileGroup) :=
  match s.cur with
  | none => none
  | some r => match s.pad? r.core with
    | none => none
    | some p => match p.fgs[r.fg]? with
      | none => none
      | some g => some (r, p, g)

/-- The file group whose registers a word reads: as it stood before its chain group issued (R129). -/
def Run.source (r : Run) (g : FileGroup) : FileGroup := r.snap.getD g

/-- The threads of a run that execute a word (R133); an E-form word executes for all (R132). -/
def Run.executing (r : Run) (g : FileGroup) (i : Instr) : List Nat :=
  match i.guard with
  | none => r.lanes
  | some gd => r.lanes.filter fun l => guardHolds gd ((r.source g).thread l)

/-- Read the registers of a list for one lane, popping ports in order (R135). -/
def State.readRegs (s : State) (core fg lane : Nat) (t : Thread) : List Nat → State × List Word
  | [] => (s, [])
  | r :: rest =>
    if 56 ≤ r then
      match s.pad? core, s.fg? core fg with
      | some p, some g =>
        let (p', v) := p.pop g (r - 56) lane (s.coreClk core)
        let (s', vs) := (s.mapPad core fun _ => p').readRegs core fg lane t rest
        (s', v :: vs)
      | _, _ => (s, [])
    else
      let (s', vs) := s.readRegs core fg lane t rest
      (s', t.reg r :: vs)

/-- What a lane's word writes: registers, predicates, and its generator's state. -/
structure LaneWrite where
  regs : List (Nat × Word)
  preds : List (Nat × Bool)
  rng : Option (BitVec 64)
  deriving DecidableEq, Repr

/-- Writes of a lane's registers: g registers, and pushes through ports after the word's pops (R135). -/
def State.writeRegs (s : State) (core fg lane : Nat) : List (Nat × Word) → State
  | [] => s
  | (r, v) :: rest =>
    let s' :=
      if 56 ≤ r then
        match s.pad? core, s.fg? core fg with
        | some p, some g => s.mapPad core fun _ => p.push g (r - 56) lane v (s.coreClk core)
        | _, _ => s
      else s.mapThread core fg lane fun t => t.setReg s.seq r v
    s'.writeRegs core fg lane rest

/-- A lane's writes. -/
def State.applyWrite (s : State) (core fg lane : Nat) (w : LaneWrite) : State :=
  let s := s.mapThread core fg lane fun t =>
    let t := w.preds.foldl (fun t x => t.setPred x.1 x.2) t
    match w.rng with
    | some g => { t with rng := g }
    | none => t
  s.writeRegs core fg lane w.regs

/-- The thread a lane's word reads from: registers and predicates as before the chain group, the generator as it
stands. So of two words of one group that draw, the second draws from the state the first has left: R115 and R129 give no
order between them (DESIGN CHOICE, log entry 90). -/
def State.sourceThread (s : State) (r : Run) (lane : Nat) : Thread :=
  match s.fg? r.core r.fg with
  | none => Thread.gone
  | some g => { (r.source g).thread lane with rng := (g.thread lane).rng }

/-- The thread as before the chain group, its generator with it: what a word reads that draws nothing (R129). -/
def State.oldThread (s : State) (r : Run) (lane : Nat) : Thread :=
  match s.fg? r.core r.fg with
  | none => Thread.gone
  | some g => (r.source g).thread lane

/-- The pops of a lane's operands counted at its ports, whose entries have been read before (R129, R245). -/
def State.countPops (s : State) (core fg lane : Nat) : List Nat → State
  | [] => s
  | r :: rest =>
    let s' :=
      if 56 ≤ r then
        match s.pad? core, s.fg? core fg with
        | some p, some g => s.mapPad core fun _ => (p.pop g (r - 56) lane (s.coreClk core)).1
        | _, _ => s
      else s
    s'.countPops core fg lane rest

/-- The operand values of a lane's word, its ports popped (R135): in a group of several words, as they were read before
any word of the group wrote (R129). -/
def State.operands (s : State) (r : Run) (lane : Nat) (reads : List Nat) : State × List Word :=
  match r.ops.find? fun x => decide (x.1 = r.index ∧ x.2.1 = lane) with
  | some x => (s.countPops r.core r.fg lane reads, x.2.2)
  | none => s.readRegs r.core r.fg lane (s.sourceThread r lane) reads

/-- The operand values of each lane of a set, in order: every lane reads before any lane writes (R8). -/
def State.collect (s : State) (r : Run) (reads : List Nat) : List Nat → State × List (Nat × List Word)
  | [] => (s, [])
  | l :: rest =>
    let x := s.operands r l reads
    let y := x.1.collect r reads rest
    (y.1, (l, x.2) :: y.2)

/-- A word that works lane by lane: every lane reads its sources, then each writes what `f` gives for them (R8, R150). -/
def State.eachLane (s : State) (r : Run) (lanes : List Nat) (reads : List Nat)
    (f : Nat → Thread → List Word → LaneWrite) : State :=
  let x := s.collect r reads lanes
  x.2.foldl (fun (s : State) (y : Nat × List Word) => s.applyWrite r.core r.fg y.1 (f y.1 (s.sourceThread r y.1) y.2)) x.1

/-- Word n of a list of operand values. -/
def nth (vs : List Word) (n : Nat) : Word := atD 0 vs n

/-- Two words as a 64-bit value, the first low (R4). -/
def pairOf (vs : List Word) (n : Nat) : BitVec 64 := nth vs (n + 1) ++ nth vs n

/-- A register write and nothing else. -/
def writeOne (d : Nat) (v : Word) : LaneWrite := { regs := [(d, v)], preds := [], rng := none }

/-- A pair write and nothing else. -/
def writePair (d : Nat) (v : BitVec 64) : LaneWrite :=
  { regs := [(d, v.setWidth 32), (pairHi d, (v >>> 32).setWidth 32)], preds := [], rng := none }

/-- A predicate write and nothing else. -/
def writePred (d : Nat) (b : Bool) : LaneWrite := { regs := [], preds := [(d, b)], rng := none }

end Sys2Proof.Machine
end

