-- ==== Sys2Proof/Machine/Shapes.lean ====
section
/-! DEFINITION. Shape records (R201, R202), the rows of a tile (R203), compact matrix commands (R209), and the checks made
when an engine operation is accepted (R230). -/

namespace Sys2Proof.Machine

/-! ### Fields of a record -/

/-- n bytes of a record at an offset. -/
def shField (sh : Shape) (off n : Nat) : Nat := sh.toNat / 2 ^ (8 * off) % 2 ^ (8 * n)

/-- BASE, bits [56:0]. -/
def shBase (sh : Shape) : Nat := shField sh 0x00 8 % 2 ^ 57
/-- SCALE, bits [56:0]. -/
def shScale (sh : Shape) : Nat := shField sh 0x08 8 % 2 ^ 57
/-- MODE (R202). -/
def shMode (sh : Shape) : Nat := shField sh 0x10 4
/-- KIND. -/
def shKind (sh : Shape) : Nat := shMode sh / 2 ^ 30
/-- FMT. -/
def shFmt (sh : Shape) : Nat := shMode sh / 2 ^ 24 % 16
/-- RM. -/
def shRm (sh : Shape) : Nat := shMode sh / 2 ^ 22 % 4
/-- MWIN. -/
def shMwin (sh : Shape) : Nat := shMode sh / 2 ^ 12 % 2 ^ 10
/-- ROP. -/
def shRop (sh : Shape) : Nat := shMode sh / 2 ^ 8 % 16
/-- DPITCH. -/
def shDpitch (sh : Shape) : Nat := shField sh 0x14 4
/-- EXT0. -/
def shExt0 (sh : Shape) : Nat := shField sh 0x18 2
/-- EXTd for d = 1-4, with 0 read as 1; a dimension that the KIND lacks counts as 1 (R201, R203). -/
def shExt (sh : Shape) (d : Nat) : Nat :=
  let raw := match d with
    | 1 => shField sh 0x1A 2
    | 2 => if shKind sh = 2 then 1 else shField sh 0x1C 2
    | 3 => if shKind sh = 0 then shField sh 0x1E 2 else 1
    | _ => if shKind sh = 0 then shField sh 0x20 2 else 1
  if raw = 0 then 1 else raw
/-- STEPd for d = 1-4, a signed 48-bit stride. -/
def shStep (sh : Shape) (d : Nat) : Int :=
  match d with
  | 1 => signed 48 (shField sh 0x28 6)
  | 2 => if shKind sh = 2 then 0 else signed 48 (shField sh 0x2E 6)
  | 3 => if shKind sh = 0 then signed 48 (shField sh 0x34 6) else 0
  | _ => if shKind sh = 0 then signed 48 (shField sh 0x3A 6) else 0
/-- Grid extent of a collective (KIND 1), axis 0-2. -/
def shGrid (sh : Shape) (axis : Nat) : Nat := shField sh (0x1E + axis) 1
/-- Coordinate of a collective's member, axis 0-2. -/
def shCoord (sh : Shape) (axis : Nat) : Nat :=
  match axis with
  | 0 => shField sh 0x21 1
  | 1 => shField sh 0x34 1
  | _ => shField sh 0x35 1
/-- REPL of a collective. -/
def shRepl (sh : Shape) : Nat := shField sh 0x36 2
/-- RSTRIDE of a collective. -/
def shRstride (sh : Shape) : Int := signed 48 (shField sh 0x22 6)
/-- RECADDR of a collective or STAT of a matrix record, bits [56:0]. -/
def shAddr38 (sh : Shape) : Nat := shField sh 0x38 8 % 2 ^ 57

/-- The expected contributions of a window (R217). -/
def shExpect (sh : Shape) : Nat := shGrid sh 0 * shGrid sh 1 * shGrid sh 2

/-- A handle's record is valid (R204). -/
def shValid (sh : Shape) : Bool := decide (shExt0 sh ≠ 0)

/-- Bytes of n elements of a format; N4 elements are 4 bits (R202). -/
def fmtBytes (fmt n : Nat) : Nat :=
  match fmt with
  | 0 => n / 2
  | 1 => n
  | 8 => n
  | 2 => 2 * n
  | 3 => 4 * n
  | 4 => 4 * n
  | 5 => 4 * n
  | 6 => 8 * n
  | 7 => 8 * n
  | _ => 10 * n

/-- The alignment of a row's start (R203). -/
def fmtAlign (fmt : Nat) : Nat :=
  match fmt with
  | 0 => 1
  | 1 => 1
  | 8 => 1
  | 2 => 2
  | 9 => 2
  | 3 => 4
  | 4 => 4
  | 5 => 4
  | _ => 8

/-- Bytes of a row. -/
def shRowBytes (sh : Shape) : Nat := fmtBytes (shFmt sh) (shExt0 sh)

/-- Rows of a tile (R203). -/
def shRows (sh : Shape) : Nat := shExt sh 1 * shExt sh 2 * shExt sh 3 * shExt sh 4

/-- An address moved by a signed distance, modulo 2^64. -/
def moveAddr (a : Nat) (d : Int) : Nat := twos 64 ((a : Int) + d)

/-- Source address of row n of a tile (R203). -/
def shSrcRow (sh : Shape) (n : Nat) : Nat :=
  let i1 := n % shExt sh 1
  let i2 := n / shExt sh 1 % shExt sh 2
  let i3 := n / (shExt sh 1 * shExt sh 2) % shExt sh 3
  let i4 := n / (shExt sh 1 * shExt sh 2 * shExt sh 3)
  moveAddr (shBase sh) (i1 * shStep sh 1 + i2 * shStep sh 2 + i3 * shStep sh 3 + i4 * shStep sh 4)

/-- Destination address of row n (R203). -/
def shDstRow (sh : Shape) (da n : Nat) : Nat :=
  (da + n * (if shDpitch sh = 0 then shRowBytes sh else shDpitch sh)) % 2 ^ 64

/-! ### The record check (R201, R202, R230) -/

/-- An RSV bit of the record is set. -/
def shReserved (sh : Shape) : Bool :=
  decide (shField sh 0x00 8 / 2 ^ 57 ≠ 0 ∨ shField sh 0x08 8 / 2 ^ 57 ≠ 0 ∨ shMode sh / 2 ^ 28 % 4 ≠ 0 ∨
    shMode sh % 256 ≠ 0 ∨
    (shKind sh = 0 ∧ shField sh 0x22 6 ≠ 0) ∨
    (shKind sh = 1 ∧ shField sh 0x38 8 / 2 ^ 57 ≠ 0) ∨
    (shKind sh = 2 ∧ (shField sh 0x1C 6 ≠ 0 ∨ shField sh 0x22 6 ≠ 0 ∨ shField sh 0x2E 6 ≠ 0 ∨ shField sh 0x34 4 ≠ 0 ∨
      shField sh 0x38 8 / 2 ^ 57 ≠ 0)))

/-- The record passes the check that `shld` and `shmod` make (R230). -/
def shOk (sh : Shape) : Bool :=
  !shReserved sh &&
  decide (shKind sh < 3 ∧ shFmt sh < 10 ∧ shRop sh < 6 ∧ (shKind sh ≠ 1 → shRop sh = 0) ∧ shExt0 sh ≠ 0 ∧
    (shFmt sh = 0 → shExt0 sh % 2 = 0) ∧
    (shKind sh = 1 → shScale sh = 0 ∧ shGrid sh 0 ≠ 0 ∧ shGrid sh 1 ≠ 0 ∧ shGrid sh 2 ≠ 0 ∧ shExpect sh ≤ 4096 ∧
      shCoord sh 0 < shGrid sh 0 ∧ shCoord sh 1 < shGrid sh 1 ∧ shCoord sh 2 < shGrid sh 2) ∧
    (shKind sh = 2 → shDpitch sh = 0))

/-- The record with its 4-byte word n replaced (R205). -/
def shSetWord (sh : Shape) (n v : Nat) : Shape :=
  BitVec.ofNat 512 (sh.toNat - shField sh (4 * n) 4 * 2 ^ (32 * n) + v % 2 ^ 32 * 2 ^ (32 * n))

/-! ### Compact commands (R209) -/

/-- CMD. -/
def cmdKind (c : Nat) : Nat := c / 2 ^ 30 % 4
/-- SA. -/
def cmdA (c : Nat) : Nat := c / 2 ^ 26 % 16
/-- SB. -/
def cmdB (c : Nat) : Nat := c / 2 ^ 22 % 16
/-- ZS. -/
def cmdZs (c : Nat) : Bool := c.testBit 21
/-- BANK. -/
def cmdBank (c : Nat) : Nat := c / 2 ^ 20 % 2
/-- GOFF. -/
def cmdGoff (c : Nat) : Nat := c % 2 ^ 20

/-- The compact form of a command. -/
def cmdWord (kind a b : Nat) (zs : Bool) (bank goff : Nat) : Nat :=
  kind * 2 ^ 30 + a * 2 ^ 26 + b * 2 ^ 22 + (if zs then 2 ^ 21 else 0) + bank * 2 ^ 20 + goff % 2 ^ 20

/-! ### Acceptance (R230) -/

/-- The record in a handle of a pad group. -/
def Pad.shape (p : Pad) (h : Nat) : Shape := atD 0 p.shapes h

/-- Every row of the tile starts aligned, at source and destination (R203, R230). -/
def rowsAligned (sh : Shape) (da : Nat) : Bool :=
  let e := fmtAlign (shFmt sh)
  let okStep := fun d => decide (shExt sh d ≤ 1 ∨ shStep sh d % (e : Int) = 0)
  decide (shBase sh % e = 0 ∧ da % e = 0 ∧
    (shRows sh ≤ 1 ∨ (if shDpitch sh = 0 then shRowBytes sh else shDpitch sh) % e = 0)) &&
  okStep 1 && okStep 2 && okStep 3 && okStep 4

/-- n bytes from an address lie in the pad group's scratchpad. -/
def Pad.inScratch (p : Pad) (a n : Nat) : Bool := decide (spadWindow ≤ a ∧ a + n ≤ spadWindow + p.top)

/-- Block-scale containers of an N4 operand's rows (R203, R221). -/
def scaleBytes (sh : Shape) : Nat := 4 * shRows sh * (shExt0 sh / 32)

/-- An operand record of the matrix engine (R221): KIND 2, its format, K, its rows in the scratchpad, 16-byte aligned. -/
def operandOk (p : Pad) (sh : Shape) : Bool :=
  decide (shKind sh = 2 ∧ shFmt sh ≤ 2 ∧ shExt0 sh ≠ 0 ∧ shExt0 sh % 64 = 0 ∧
    (shRowBytes sh : Int) ≤ shStep sh 1 ∧ shBase sh % 16 = 0 ∧ shStep sh 1 % 16 = 0) &&
  p.inScratch (shBase sh) ((shExt sh 1 - 1) * (shStep sh 1).toNat + shRowBytes sh) &&
  (decide (shFmt sh ≠ 0) || (decide (shScale sh % 16 = 0) && p.inScratch (shScale sh) (scaleBytes sh)))

/-- A gather entry (R222). -/
def Pad.gatherEntry (p : Pad) (goff i : Nat) : Nat := leValue (p.scratchBytes (goff + 2 * i) 2)

/-- The gather offset and entries of a command (R222, R230). -/
def gatherOk (p : Pad) (a : Shape) (goff : Nat) : Bool :=
  decide (goff % 4 = 0 ∧ goff + 256 ≤ p.top) &&
  (upFrom 0 128).all fun i => decide (p.gatherEntry goff i = 0xFFFF ∨ p.gatherEntry goff i < shExt a 1)

/-- The matrix command passes (R221, R230): kind 1 `mma`, 2 `mma.gather`. -/
def mmaOk (p : Pad) (kind : Nat) (a b : Shape) (goff : Nat) : Bool :=
  operandOk p a && operandOk p b &&
  decide (shFmt a = shFmt b ∧ shExt0 a = shExt0 b ∧ shExt b 1 = 128 ∧ (kind = 1 → shExt a 1 = 128)) &&
  (decide (kind ≠ 2) || gatherOk p a goff)

/-- The cause a follow-on command fails with; none when it may follow (R230, R326). -/
def followFault (p : Pad) (c : Nat) : Option Nat :=
  if cmdKind c = 0 ∨ cmdKind c = 3 then some 0x0301
  else if !shValid (p.shape (cmdA c)) || !shValid (p.shape (cmdB c)) then some 0x0301
  else if mmaOk p (cmdKind c) (p.shape (cmdA c)) (p.shape (cmdB c)) (cmdGoff c) then none
  else some 0x0305

/-- The record of a copy passes (R230). -/
def copyOk (sh : Shape) (da : Nat) : Bool :=
  decide (shKind sh ≠ 1 ∧ (shFmt sh = 9 → shDpitch sh % 10 = 0)) && rowsAligned sh da

/-- The cause a copy of the tile in a handle fails with at acceptance (R230, R326). -/
def copyFault (p : Pad) (sh : Shape) (da : Nat) (follow : Bool) (c : Nat) : Option Nat :=
  if !copyOk sh da then some 0x0301
  else if follow then followFault p c else none

/-- The format and operator of a window or contribution are allowed (R217). -/
def collectiveOk (sh : Shape) : Bool :=
  decide (shKind sh = 1 ∧ 1 ≤ shFmt sh ∧ shFmt sh ≤ 7 ∧ (shRop sh ≤ 2 ∨ (4 ≤ shFmt sh ∧ shRop sh ≤ 5)))

/-- Elements of a window (R217). -/
def windowElems (sh : Shape) : Nat := shExt0 sh * shExt sh 1 * shExt sh 2

/-- A posting passes (R217, R230). -/
def postOk (sh : Shape) (va : Nat) : Bool :=
  collectiveOk sh &&
  decide (shDpitch sh = 0 ∧ windowElems sh ≤ 65536 ∧ fmtBytes (shFmt sh) (windowElems sh) ≤ 2 ^ 20 ∧
    shAddr38 sh ≠ 0 ∧ shAddr38 sh % 8 = 0 ∧ va % fmtAlign (shFmt sh) = 0 ∧ va < spadWindow)

/-- A contribution's own record passes (R217, R218, R230). -/
def contributionOk (sh : Shape) (va : Nat) : Bool := collectiveOk sh && rowsAligned sh va && decide (va < spadWindow)

/-- An accumulator tile passes (R226, R230). -/
def accTileOk (sh : Shape) : Bool :=
  decide (shKind sh = 2 ∧ shExt0 sh = 128 ∧ shExt sh 1 = 128 ∧ (shRowBytes sh : Int) ≤ shStep sh 1 ∧ shFmt sh ≠ 8 ∧
    shFmt sh < 10 ∧ (shFmt sh = 0 → shScale sh ≠ 0) ∧ shAddr38 sh % 8 = 0)

/-- The lowest cause in a list of conditions. -/
def firstCause : List (Nat × Bool) → Option Nat
  | [] => none
  | (c, b) :: rest => if b then some c else firstCause rest

end Sys2Proof.Machine
end

