-- ==== Sys2Proof/Machine/Control.lean ====
section
/-! DEFINITION. The control-memory replica (R94-R97): partitions, reads and the words that records change. -/

namespace Sys2Proof.Machine

/-- n bytes of the replica as a number (R4). -/
def State.cmRead (s : State) (at_ n : Nat) : Nat := leValue (tabGetMany 0 s.tap.cmem at_ n)

/-- The replica with n bytes written. -/
def State.cmWrite (s : State) (at_ n v : Nat) : State :=
  { s with tap := { s.tap with cmem := tabSetMany 0 s.tap.cmem at_ (leBytes n v) } }

/-- Entry i of the partition table: owner, first byte and length, when valid (R94). An entry whose BASE and LEN reach past
granule 63 counts up to the end of control memory (DESIGN CHOICE, log entry 69). -/
def State.partEntry (s : State) (i : Nat) : Option (Nat × Nat × Nat) :=
  let e := s.cmRead (8 * i) 8
  let base := e / 2 ^ 46 % 64
  if e.testBit 39 then some (e / 2 ^ 52 % 4096, base * 65536, min (e / 2 ^ 40 % 64 + 1) (64 - base) * 65536) else none

/-- First byte and length of an owner's partition (R94). -/
def State.partition (s : State) (owner : Nat) : Option (Nat × Nat) :=
  ((upFrom 0 64).filterMap s.partEntry).findSome? fun e => if e.1 = owner then some e.2 else none

/-- Where w bytes at an offset of an owner's partition lie, when they lie wholly in it (R95, R96). Owner 0 has none: only
management records change granule 0 (R94), and a context whose descriptor does not count has no owner (R272). -/
def State.cmPlace (s : State) (owner off w : Nat) : Option Nat :=
  if owner = 0 then none
  else match s.partition owner with
    | none => none
    | some (base, len) => if off + w ≤ len then some (base + off) else none

/-- The cause that a byte offset meets in a `cm.` word (R325). -/
def State.cmFault (s : State) (owner off w : Nat) : Option Nat :=
  if off % w ≠ 0 then some 0x0203
  else if (s.cmPlace owner off w).isNone then some 0x0206 else none

end Sys2Proof.Machine
end

