-- ==== Sys2Proof/Machine/Faults.lean ====
section
/-! DEFINITION. When a chain group may issue (the interlocks of R136, R206, R207, R222, R319) and the fault each lane of a
word meets (R300, R321-R327). -/

namespace Sys2Proof.Machine

/-! ### Interlocks -/

/-- Registers that a thread still has to receive and whose lookahead window is over when a word issues that comes behind n
words of its chain group (R136, R137). -/
def Thread.pendingRegs (t : Thread) (n : Nat) : List Nat :=
  (t.outs.filter fun o => decide (o.window ≤ n)).flatMap (·.dsts)

/-- Instructions outstanding on a token (R136). -/
def Thread.onToken (t : Thread) (k : Nat) : Nat :=
  (t.outs.filter fun o => decide (o.token = k)).length + (t.tokHeld.filter fun h => h.1.testBit k).length

/-- A token is clear (R69). -/
def Thread.clear (t : Thread) (k : Nat) : Bool := decide (t.onToken k = 0)

/-- The register interlock for one thread (R136) at a word behind n words of its group; shape handle h stands as
register 64 + h (R206). -/
def Thread.registersFree (t : Thread) (n : Nat) (i : Instr) : Bool :=
  (i.reads ++ i.writes ++ (i.shapeReads ++ i.shapeWrites).map (· + 64)).all fun r =>
    decide (r = 0 ∨ r ∉ t.pendingRegs n)

/-- How often a number stands in a list. -/
def countOf (x : Nat) (l : List Nat) : Nat := (l.filter fun y => decide (y = x)).length

/-- The ring that a push through port n goes to: its file group and its binding there (R244). -/
def Pad.peerRing (p : Pad) (g : FileGroup) (n : Nat) : Option (Nat × Binding) :=
  (p.fgs[(g.binding n).peerFg]?).map fun h => ((g.binding n).peerFg, h.binding (g.binding n).peerPort)

/-- The queue interlock for one thread and the words of a group that it executes (R136, R245): every port popped holds an
entry for each pop, and every ring pushed has room for each push. A port that faults does not hold. -/
def Pad.portsReady (p : Pad) (g : FileGroup) (is : List Instr) (lane : Nat) : Bool :=
  let pops := is.flatMap (·.pops)
  let pushes := is.flatMap (·.pushes)
  (pops.all fun r => (p.popFault g (r - 56)).isSome ||
    decide (countOf r pops ≤ p.portHeld (g.binding (r - 56)) lane)) &&
  (pushes.all fun r => (p.pushFault g (r - 56)).isSome ||
    (match p.peerRing g (r - 56) with
     | none => true
     | some q =>
       let n := (pushes.filter fun x => decide (p.peerRing g (x - 56) = some q)).length
       decide (p.portHeld q.2 lane + n ≤ 2 ^ q.2.log)))

/-- A handle is held by an operation of the pad group that has not copied it, or whose command runs (R206). -/
def Pad.handleBusy (p : Pad) (h : Nat) : Bool :=
  (p.mq.any fun m => decide (m.aSh = h ∨ m.bSh = h)) ||
  (p.ring.any fun e => e.follow && decide (cmdA e.arg = h ∨ cmdB e.arg = h)) ||
  ((upFrom 0 (countDiff p.notify p.head)).any fun k =>
    let off := p.slotOff (p.head + k)
    let sh := (tabGet 0 p.scratch (off + 1)).toNat % 16
    let arg := p.word (off + 16)
    decide (sh = h) || ((tabGet 0 p.scratch (off + 2)).toNat.testBit 0 && decide (cmdA arg = h ∨ cmdB arg = h)))

/-- Engine words of a core that have not published their entry yet (R212). -/
def State.unpublished (s : State) (core : Nat) : List Op :=
  s.mem.ops.filter fun o => decide (o.core = core) &&
    (match o.kind with
     | .publish _ _ _ _ _ _ => true
     | _ => false)

/-- The ring has room for one more entry (R207). -/
def State.ringRoom (s : State) (p : Pad) : Bool :=
  decide (countDiff p.notify p.done + (s.unpublished p.core).length < 64)

/-- The guest queue of a socket. -/
def State.guestQueue (s : State) (sock q : Nat) : GQueue := tabGet GQueue.zero (atD Socket.zero s.sockets sock).queues q

/-- Packets a guest queue holds at most (R254, R256). -/
def State.guestRoom (s : State) (sock q : Nat) : Bool :=
  match (atD Socket.zero s.sockets sock).cap with
  | none => true
  | some _ =>
    let waiting := s.mem.ops.filter fun o => match o.kind with
      | .guest k n _ => decide (k = sock ∧ n = q)
      | _ => false
    decide ((s.guestQueue sock q).fifo.length + waiting.length < 16)

/-- The core's memory issue queue accepts a word (R136): one with nothing in flight does, another as the free value of the
step has it (log entry 51). -/
def State.memAccepts (s : State) (core : Nat) : Bool :=
  decide (core ∉ s.memBusy) || s.mem.ops.all fun o => decide (o.core ≠ core)

/-- The broadcast queue has room for n records (R89). -/
def State.queueRoom (s : State) (n : Nat) : Bool := decide (s.tap.queue.length + n ≤ 1024)

/-- A word that sends records. -/
def sendsRecord : Instr → Bool
  | .cmSt _ _ _ _ _ _ _ _ => true
  | .cmAdd _ _ _ _ _ _ _ _ => true
  | .cmClaim _ _ _ _ _ _ _ => true
  | .cmLaunch _ _ _ _ _ _ _ => true
  | .cmPte _ _ _ _ _ _ _ => true
  | _ => false

/-- Unit interlocks of a word that do not depend on a lane (R206, R207, R222, R228, R319). A full broadcast queue holds a
word that sends records at issue (R319); records that find no room, or may not go yet, once their word has issued wait
outside the queue (R89; DEDUCED, log entry 60). -/
def State.unitReady (s : State) (p : Pad) : Instr → Bool
  | .shld _ h _ _ _ => !p.handleBusy h.toNat
  | .shmod _ h _ _ _ _ => !p.handleBusy h.toNat
  | .tcp _ _ _ _ _ _ => s.ringRoom p
  | .tcpRed _ _ _ _ _ _ => s.ringRoom p
  | .tcpPost _ _ _ _ _ _ => s.ringRoom p
  | .ringArm _ _ _ _ _ => (s.unpublished p.core).isEmpty
  | .mma _ _ _ _ _ _ _ => decide (p.mq.length < 2)
  | .mmaGather _ _ _ _ _ _ _ _ => decide (p.mq.length < 2)
  | .accClr _ _ _ _ => decide (p.mq.length < 2)
  | .accLd _ _ _ _ _ _ => decide (p.mq.length < 2)
  | .accSt _ _ _ _ _ _ => decide (p.mq.length < 2)
  | .gsend _ k _ q _ _ => s.guestRoom k.toNat q.toNat
  | .qfence _ k q _ _ _ => s.guestRoom k.toNat q.toNat
  | i => !i.isControlMemory || (s.readyBit 83 && (!sendsRecord i || s.queueRoom 1))

/-- Ring entries with a revision that a file group has not been told of (R338). -/
def Pad.lateEntries (p : Pad) (g : FileGroup) : List Entry :=
  p.ring.filter fun e => decide (tabGet 0 g.delivered e.count < e.revisions)

/-- A ring entry holds a token of a mask for a thread: its own word set it, or the token was held at a save by the entries
then in the ring, of which it is one (R54, R338). -/
def Thread.heldBy (t : Thread) (mask : Nat) (e : Entry) : Bool :=
  (decide (e.inst ≠ 0) && t.outs.any fun o => decide (o.inst = e.inst) && mask.testBit o.token) ||
  t.tokHeld.any fun h => decide (h.1 &&& mask ≠ 0) && decide (0 < countDiff h.2 e.count ∧ countDiff h.2 e.count ≤ 64)

/-- The late entry that a `wait` of a thread on a token mask names: the lowest-counted one that holds such a token
(R338). -/
def Pad.lateFor (p : Pad) (g : FileGroup) (lane mask : Nat) : Option Entry :=
  if g.vector = 0 then none
  else (p.lateEntries g).find? ((g.thread lane).heldBy mask)

/-- The wait interlock of the lanes of a word (R136, R187): their tokens are clear, or some lane has a late promise to be
told of (R338). -/
def Pad.waitReady (p : Pad) (g : FileGroup) (lanes : List Nat) : Instr → Bool
  | .wait _ m => (lanes.any fun l => (p.lateFor g l m.toNat).isSome) ||
      lanes.all fun l => (setBits m.toNat 8).all fun k => (g.thread l).clear k
  | _ => true

/-- A word of a run, behind n words of its group, passes its interlocks but for the ports (R136, R319). Only the lanes that
execute the word are tested, and a word that ends the lookahead windows is tested while they are still open (DEDUCED, log
entry 93). -/
def State.wordFree (s : State) (r : Run) (p : Pad) (g : FileGroup) (n : Nat) (i : Instr) : Bool :=
  let lanes := r.executing g i
  lanes.isEmpty ||
  (s.unitReady p i && (decide (i.pipe ≠ .M) || s.memAccepts p.core) &&
   (lanes.all fun l =>
    (g.thread l).registersFree n i &&
    (match i.token with
     | none => true
     | some (k, _) => decide ((g.thread l).onToken k < 64))) &&
   p.waitReady g lanes i)

/-- The words of a group with the number of words before them. -/
def numbered (is : List Instr) : List (Nat × Instr) := mapFrom (fun n i => (n, i)) 0 is

/-- The words of a chain group pass their interlocks, all of them together (R136). -/
def State.groupReady (s : State) (r : Run) (p : Pad) (g : FileGroup) (is : List Instr) : Bool :=
  ((numbered is).all fun x => s.wordFree r p g x.1 x.2) &&
  r.lanes.all fun l => p.portsReady g (is.filter fun i => decide (l ∈ r.executing g i)) l

/-- A word that is a group of its own passes its interlocks (R136, R319). -/
def State.wordReady (s : State) (r : Run) (p : Pad) (g : FileGroup) (i : Instr) : Bool := s.groupReady r p g [i]

/-! ### Faults of a lane -/

/-- A fault that a lane meets at a word: cause, address for TADDR, and whether the access writes. -/
structure LaneFault where
  lane : Nat
  cause : Nat
  addr : Nat
  write : Bool
  index : Nat          -- word of the chain group
  n : Nat              -- the number of trap, sysc and brk
  deriving DecidableEq, Repr

/-- Causes of class eft: page not present (R332), view pool full (R343), host translation (R367). -/
def eftCause (c : Nat) : Bool := decide (c = 0x0200 ∨ c = 0x0400 ∨ c = 0x0803)

/-- The lowest of two causes. -/
def lowest (a b : Option (Nat × Nat × Bool)) : Option (Nat × Nat × Bool) :=
  match a, b with
  | none, b => b
  | a, none => a
  | some x, some y => if y.1 < x.1 then b else a

/-- A cause without an address. -/
def plain (c : Option Nat) : Option (Nat × Nat × Bool) := c.map fun c => (c, 0, false)

/-- The lowest port fault of a word (R322). -/
def Pad.portFault (p : Pad) (g : FileGroup) (i : Instr) : Option Nat :=
  (i.pops.map fun r => p.popFault g (r - 56)) ++ (i.pushes.map fun r => p.pushFault g (r - 56)) |>.foldl
    (fun a c => match a, c with
      | none, c => c
      | a, none => a
      | some x, some y => some (min x y)) none

/-- The cause of a lane access (R321). -/
def State.dataFault (s : State) (p : Pad) (va size : Nat) (write : Bool) : Option (Nat × Nat × Bool) :=
  (s.accessFault p va size write).map fun c => (c, va, write)

/-- The cause of an engine destination tested at its word: like a write, but a view tile is left to the engine,
which allocates when it reaches the page (R236, R321, R326). -/
def State.destFault (s : State) (p : Pad) (va : Nat) : Option (Nat × Nat × Bool) :=
  if 2 ^ 57 ≤ va then some (0x0204, va, true)
  else if va < spadWindow ∧ (tileAt p.views 0 va).isSome then none
  else s.dataFault p va 1 true

/-- A page of the range is missing, or the scope does not fit it (R325); `pages` counts 64 KiB pages to go. -/
def State.rangeBad (s : State) (ctx : Nat) (podWide : Bool) : Nat → Nat → Nat → Bool
  | 0, _, _ => false
  | fuel + 1, va, end_ =>
    if end_ ≤ va then false
    else match s.walk ctx va with
      | none => true
      | some pg =>
        if pg.pod && !podWide then true
        else s.rangeBad ctx podWide fuel (va / pg.size * pg.size + pg.size) end_

/-- The cause of a `seal` or `unseal` (R185, R325). -/
def State.sealFault (s : State) (p : Pad) (base len : Nat) (scope : Nat) : Option (Nat × Nat × Bool) :=
  if 2 ^ 57 ≤ base then some (0x0204, base, true)
  else if base % 65536 ≠ 0 ∨ len = 0 ∨ spadWindow < base + len * 65536 then some (0x0209, base, true)
  else if s.rangeBad p.ctx (decide (scope = 6)) len base (base + len * 65536) then some (0x0209, base, true)
  else none

/-- The cause of a `watch` (R186, R325). -/
def State.watchFault (s : State) (p : Pad) (va : Nat) : Option (Nat × Nat × Bool) :=
  if va % 4 ≠ 0 then some (0x0203, va, false)
  else if 2 ^ 57 ≤ va then some (0x0204, va, false)
  else if spadWindow ≤ va then some (if va - spadWindow < p.top then 0x020A else 0x0205, va, false)
  else s.dataFault p va 4 false

/-- The thread has the mode that a system instruction needs (R247). -/
def sysFault (t : Thread) : Option Nat := if t.system then none else some 0x0106

/-- The cause of `rdsr` of register n (R248, R302, R327). -/
def rdsrFault (g : FileGroup) (t : Thread) (n : Nat) : Option Nat :=
  if n ≤ 11 then none
  else if n < 16 then some 0x0108
  else if n < 30 then (if t.level = 0 then some 0x0108 else none)
  else if n < 32 then (if t.level = 0 ∨ g.level ≠ 2 ∨ !t.system then some 0x0108 else none)
  else if n ≤ 35 then (if t.system then none else some 0x0106)
  else some 0x0108

/-- The cause of `wrsr` of register n (R248, R302, R327). -/
def wrsrFault (g : FileGroup) (t : Thread) (n : Nat) : Option Nat :=
  if n = 7 ∨ n = 8 then none
  else if n < 16 then some 0x0108
  else if n ≤ 18 ∨ (24 ≤ n ∧ n < 30) then (if t.level = 0 then some 0x0108 else none)
  else if n < 23 then some 0x0108
  else if n = 23 then (if t.level = 0 ∨ !t.system then some 0x0108 else none)
  else if n < 32 then (if t.level = 0 ∨ g.level ≠ 2 ∨ !t.system then some 0x0108 else none)
  else if n = 32 ∨ n = 35 then (if t.system then none else some 0x0106)
  else if n = 33 ∨ n = 34 then (if t.system then some 0x0108 else some 0x0106)
  else some 0x0108

/-- The cause of a barrier word (R189, R303, R322). -/
def State.barFault (s : State) (p : Pad) (t : Thread) (level : Nat) : Option Nat :=
  if t.level ≠ 0 then some 0x0109
  else
    let dom := match s.launch? p.launch with
      | some l => l.dom
      | none => false
    if 2 ≤ level ∧ (p.slot.isSome ∨ (level = 2 ∧ p.grain = 0) ∨ (level = 3 ∧ p.grain ≠ 2) ∨
        (level = 4 ∧ (p.grain ≠ 2 ∨ !dom))) then some 0x0510
    else none

/-- The cause of `qbind` with a binding word (R251, R322). -/
def State.qbindFault (s : State) (w : Nat) : Option Nat :=
  if w / 2 ^ 48 ≠ 0 ∨ w / 2 ^ 18 % 2 ^ 14 ≠ 0 ∨ w / 2 ^ 32 % 2 ^ 16 = 0 then some 0x0520
  else if (s.desc (w % 2 ^ 16)).isNone then some 0x0524 else none

/-- The cause of `gbind` of a queue to a context (R252, R322). -/
def State.gbindFault (s : State) (sock q ctx : Nat) : Option Nat :=
  let so := atD Socket.zero s.sockets sock
  let nq := match so.cap with
    | some c => c.2.1
    | none => 0
  let held := match (s.guestQueue sock q).bound, (s.guestQueue sock q).binding with
    | some b, _ => decide (b.1 ≠ ctx)
    | none, some b => decide (b.1 ≠ ctx)
    | none, none => false
  if so.cap.isSome ∧ nq ≤ q then some 0x0521
  else if !s.readyBit (80 + sock) then some 0x0522
  else if (s.desc ctx).isNone then some 0x0524
  else if held then some 0x0525 else none

/-- The cause of a guest-queue word of a context (R228-R230). -/
def State.guestFaultOf (s : State) (ctx sock q : Nat) : Option Nat :=
  match (s.guestQueue sock q).bound with
  | some b => if b.1 = ctx then none else some 0x0523
  | none => some 0x0523

/-- The first lane that executes a word. -/
def Run.lead (r : Run) (g : FileGroup) (i : Instr) : Nat := leastD 0 (r.executing g i)

/-- The operand values of a lane's word, its pops looked at but not taken. -/
def State.peek (s : State) (r : Run) (lane : Nat) (i : Instr) : List Word :=
  (s.operands r lane i.reads).2

/-- A handle that an engine word names is invalid: a decode fault (R314). -/
def handleFault (p : Pad) (i : Instr) : Bool :=
  match i with
  | .shmod _ _ _ _ _ _ => false
  | i => i.shapeReads.any fun h => !shValid (p.shape h)

/-- A control-memory offset's cause, whose port, if it is one, can be popped (R325). -/
def State.offsetFault (s : State) (p : Pad) (g : FileGroup) (a : BitVec 6) (off w : Nat) : Option (Nat × Nat × Bool) :=
  if 56 ≤ a.toNat ∧ (p.popFault g (a.toNat - 56)).isSome then none
  else (s.cmFault (s.ownerOf p.ctx) off w).map fun c => (c, off, false)

/-- An address of two operand words. -/
def addrOf (vs : List Word) : Nat := (pairOf vs 0).toNat

/-- The number that `trap`, `sysc` and `brk` carry (R250). -/
def trapNumber : Instr → Nat
  | .trap _ n => n.toNat
  | .sysc _ n => n.toNat
  | .brk _ n => n.toNat
  | _ => 0

/-- The window of a posting lies within one page, as far as its page is present (R217). -/
def State.windowInPage (s : State) (ctx : Nat) (sh : Shape) (va : Nat) : Bool :=
  match s.walk ctx va with
  | some p => decide (va % p.size + fmtBytes (shFmt sh) (windowElems sh) ≤ p.size)
  | none => true

/-- The fault that a word's own rule gives a lane, besides its ports (R321-R327); an E-form word's operands are its
leader's (R199). -/
def State.ownFault (s : State) (r : Run) (p : Pad) (g : FileGroup) (lane : Nat) (i : Instr) :
    Option (Nat × Nat × Bool) :=
  let lane := if i.isEngine then r.lead g i else lane
  let t := s.sourceThread r lane
  let vs := s.peek r lane i
  let va := addrOf vs
  match i with
  | .ld _ _ _ _ z _ _ => s.dataFault p va (2 ^ z.toNat) false
  | .lds _ _ _ _ z _ _ => s.dataFault p va (2 ^ z.toNat) false
  | .ldRo _ _ _ _ z _ _ => s.dataFault p va (2 ^ z.toNat) false
  | .ldAcq _ _ _ _ _ z _ => s.dataFault p va (2 ^ z.toNat) false
  | .st _ _ _ _ z _ _ => s.dataFault p va (2 ^ z.toNat) true
  | .stRel _ _ _ _ _ z _ => s.dataFault p va (2 ^ z.toNat) true
  | .atomAdd _ _ _ _ w _ => s.dataFault p va (4 * 2 ^ w.toNat) true
  | .atomMins _ _ _ _ w _ => s.dataFault p va (4 * 2 ^ w.toNat) true
  | .atomMaxs _ _ _ _ w _ => s.dataFault p va (4 * 2 ^ w.toNat) true
  | .atomMinu _ _ _ _ w _ => s.dataFault p va (4 * 2 ^ w.toNat) true
  | .atomMaxu _ _ _ _ w _ => s.dataFault p va (4 * 2 ^ w.toNat) true
  | .atomAnd _ _ _ _ w _ => s.dataFault p va (4 * 2 ^ w.toNat) true
  | .atomOr _ _ _ _ w _ => s.dataFault p va (4 * 2 ^ w.toNat) true
  | .atomXor _ _ _ _ w _ => s.dataFault p va (4 * 2 ^ w.toNat) true
  | .atomXchg _ _ _ _ w _ => s.dataFault p va (4 * 2 ^ w.toNat) true
  | .atomCas _ _ _ _ w _ => s.dataFault p va (4 * 2 ^ w.toNat) true
  | .atomFadd _ _ _ _ _ => s.dataFault p va 4 true
  | .atomFmin _ _ _ _ _ => s.dataFault p va 4 true
  | .atomFmax _ _ _ _ _ => s.dataFault p va 4 true
  | .seal _ _ _ _ sc _ =>
    let ws := s.peek r (r.lead g i) i
    s.sealFault p (addrOf ws) (nth ws 2).toNat sc.toNat
  | .unseal _ _ _ _ sc _ =>
    let ws := s.peek r (r.lead g i) i
    s.sealFault p (addrOf ws) (nth ws 2).toNat sc.toNat
  | .watch _ _ _ _ _ _ => s.watchFault p va
  | .barArrive _ l _ => plain (s.barFault p t l.toNat)
  | .barWait _ l _ => plain (s.barFault p t l.toNat)
  | .barArriveExp _ _ l _ => plain (s.barFault p t l.toNat)
  | .cmLd _ _ _ a z _ => s.offsetFault p g a (nth vs 0).toNat (4 * 2 ^ z.toNat)
  | .cmSt _ _ _ a z _ _ _ => s.offsetFault p g a (nth vs 0).toNat (4 * 2 ^ z.toNat)
  | .cmAdd _ _ _ a z _ _ _ => s.offsetFault p g a (nth vs 0).toNat (4 * 2 ^ z.toNat)
  | .cmClaim _ _ _ a _ _ _ => s.offsetFault p g a (nth vs 0).toNat 8
  | .cmWait _ _ _ a z _ => s.offsetFault p g a (nth vs 0).toNat (4 * 2 ^ z.toNat)
  | .cmLaunch _ _ _ _ _ _ _ =>
    if va % 256 ≠ 0 then some (0x0203, va, false) else if 2 ^ 57 ≤ va then some (0x0204, va, false) else none
  | .cmPte _ _ _ _ _ _ _ =>
    let entry := (pairOf vs 2).toNat
    if !t.system then some (0x0106, 0, false)
    else if va / 2 ^ 57 ≠ 0 ∨ va / 4 % 2 ^ 14 ≠ 0 ∨ va % 4 = 3 ∨ entry / 2 % 2 ^ 7 ≠ 0 then some (0x020B, va, false)
    else none
  | .shld _ _ _ _ _ => s.dataFault p va 64 false
  | .shst _ _ _ _ _ => s.dataFault p va 64 true
  | .shmod _ h _ n _ _ =>
    plain (if shOk (shSetWord (p.shape h.toNat) n.toNat (nth vs 0).toNat) then none else some 0x0300)
  | .tcp _ h _ _ _ _ =>
    lowest (s.destFault p va)
      (plain (copyFault p (p.shape h.toNat) va (decide (nth vs 2 ≠ 0)) (nth vs 2).toNat))
  | .tcpRed _ h _ _ _ _ =>
    if 2 ^ 57 ≤ va then some (0x0204, va, true)
    else plain (if contributionOk (p.shape h.toNat) va then none else some 0x0302)
  | .tcpPost _ h _ _ _ _ =>
    if 2 ^ 57 ≤ va then some (0x0204, va, true)
    else plain (if postOk (p.shape h.toNat) va && s.windowInPage p.ctx (p.shape h.toNat) va then none else some 0x0302)
  | .ringArm _ _ _ _ _ =>
    plain (if (nth vs 0).toNat ≠ p.notify % 64 ∨ 64 ≤ countDiff p.notify p.done then some 0x0303 else none)
  | .mma _ h _ _ n _ _ => plain (if mmaOk p 1 (p.shape h.toNat) (p.shape n.toNat) 0 then none else some 0x0305)
  | .mmaGather _ h _ _ n _ _ _ =>
    plain (if mmaOk p 2 (p.shape h.toNat) (p.shape n.toNat) (nth vs 0).toNat then none else some 0x0305)
  | .accLd _ h _ _ _ _ =>
    if 2 ^ 57 ≤ va then some (0x0204, va, false)
    else plain (if accTileOk (p.shape h.toNat) then none else some 0x0306)
  | .accSt _ h _ _ _ _ =>
    if 2 ^ 57 ≤ va then some (0x0204, va, true)
    else plain (if accTileOk (p.shape h.toNat) then none else some 0x0306)
  | .gsend _ k _ q _ _ => plain (s.guestFaultOf p.ctx k.toNat q.toNat)
  | .qfence _ k q _ _ _ => plain (s.guestFaultOf p.ctx k.toNat q.toNat)
  | .jmp _ _ => if 2 ^ 57 ≤ va ∨ va % 2 ^ 57 % 12 ≠ 0 then some (0x0208, va, false) else none
  | .jmpl _ _ => if 2 ^ 57 ≤ va ∨ va % 2 ^ 57 % 12 ≠ 0 then some (0x0208, va, false) else none
  | .trap _ _ => some (0x0000, 0, false)
  | .sysc _ _ => some (0x0002, 0, false)
  | .brk _ _ => some (0x0001, 0, false)
  | .rti _ => if t.level = 0 then some (0x0107, 0, false) else none
  | .rdsr _ _ _ n => plain (rdsrFault g t n.toNat)
  | .wrsr _ _ _ n => plain (wrsrFault g t n.toNat)
  | .dcwb _ _ _ _ => if 2 ^ 57 ≤ va then some (0x0204, va, false) else none
  | .icinv _ _ _ _ => if 2 ^ 57 ≤ va then some (0x0204, va, false) else none
  | .qbind _ _ _ _ => lowest (plain (sysFault t)) (plain (s.qbindFault (pairOf vs 0).toNat))
  | .qunbind _ _ _ => plain (sysFault t)
  | .gbind _ _ _ k q => lowest (plain (sysFault t)) (plain (s.gbindFault k.toNat q.toNat ((nth vs 0).toNat % 2 ^ 16)))
  | .gunbind _ _ _ _ => plain (sysFault t)
  | _ => none

/-- The cause of a control-memory word on a fenced partition (R352). -/
def State.fencedFault (s : State) (p : Pad) (i : Instr) : Option Nat :=
  match i with
  | .cmLsn _ _ _ _ => none
  | i => if i.isControlMemory && decide (s.ownerOf p.ctx ∈ s.tap.fenced) then some 0x0604 else none

/-- The fault a lane meets at a word: the lowest cause (R300, R321). An invalid handle is found before the guard and
before everything else (R314). -/
def State.laneFault (s : State) (r : Run) (p : Pad) (g : FileGroup) (index : Nat) (i : Instr) (lane : Nat) :
    Option LaneFault :=
  let c := if handleFault p i then some (0x0105, 0, false)
    else lowest (lowest (s.ownFault r p g lane i) (plain (p.portFault g i))) (plain (s.fencedFault p i))
  c.map fun c => { lane := lane, cause := c.1, addr := c.2.1, write := c.2.2, index := index, n := trapNumber i }

/-- The faults of a word's lanes. -/
def State.laneFaults (s : State) (r : Run) (p : Pad) (g : FileGroup) (index : Nat) (i : Instr) : List LaneFault :=
  (r.executing g i).filterMap (s.laneFault r p g index i)

end Sys2Proof.Machine
end

