-- ==== Sys2Proof/Machine/Flow.lean ====
section
/-! DEFINITION. How a chain group issues: the plan of which lanes complete it, park or trap (R298, R300, R321), the advance of
the program counters (R127), lookahead windows and tokens (R137), and the frame `runWord` that every meaning of a word
is written in. -/

namespace Sys2Proof.Machine

/-- The outcome of a step. -/
abbrev Result := Host.Outcome State Fault Refusal

/-- A word of a chain group. -/
structure GWord where
  instr : Instr
  index : Nat
  pc : Nat
  deriving DecidableEq, Repr

/-- What becomes of a run's lanes in a chain group. -/
structure Plan where
  normal : List Nat               -- complete the group
  efts : List LaneFault           -- park at the word of their fault (R50)
  trapped : List LaneFault        -- the set S (R300), lowest lane first
  deriving DecidableEq, Repr

/-- The fault of a lane that counts: the lowest cause, the earliest word on a tie (R300). -/
def bestFault : List LaneFault → Option LaneFault
  | [] => none
  | f :: rest => match bestFault rest with
    | none => some f
    | some h => if h.cause < f.cause then some h else some f

/-- The plan for a group whose words' lane faults are known: lanes without a fault are normal; a lane whose lowest
cause is of class eft parks; of the others only those with the lowest cause trap (R300). -/
def planOf (lanes : List Nat) (faults : List LaneFault) : Plan :=
  let best := fun l => bestFault (faults.filter fun f => decide (f.lane = l))
  let faulty := lanes.filterMap best
  let precise := faulty.filter fun f => !eftCause f.cause
  let low := leastD 0 (precise.map (·.cause))
  { normal := lanes.filter fun l => (best l).isNone
    efts := faulty.filter fun f => eftCause f.cause
    trapped := precise.filter fun f => decide (f.cause = low) }

/-- The plan for the words of a group. -/
def State.plan (s : State) (r : Run) (p : Pad) (g : FileGroup) (ws : List GWord) : Plan :=
  planOf r.lanes (ws.flatMap fun w =>
    s.laneFaults { r with pc := BitVec.ofNat 57 w.pc, index := w.index } p g w.index w.instr)

/-- The packet address of a word address (R126). -/
def packetOf (pc : Nat) : Nat := pc / 12 * 12

/-- The word address after a group whose last word is at pc: the next packet after a `safept` (R127, R243). -/
def afterWordPc (i : Instr) (pc : Nat) : Nat :=
  (match i with
   | .safept => packetOf pc + 12
   | _ => pc + 4) % 2 ^ 57

/-- The lanes of a set move on to a word address and their run's ageing counter is reset (R48, R127). -/
def State.advance (s : State) (r : Run) (lanes : List Nat) (pc : Nat) : State :=
  (s.mapLanes r.core r.fg r.lanes fun _ t => { t with age := 0 }).mapLanes r.core r.fg lanes
    fun _ t => { t with pc := BitVec.ofNat 57 pc, quiet := 0 }

/-- A lane issues a word of a run at a word address: the lookahead windows that earlier words opened shrink by one, or end
(R137). Words of one group take effect in an order of the model's, so a word later in the group keeps its window. -/
def Thread.tick (inst : Nat) (pc : BitVec 57) (ends : Bool) (t : Thread) : Thread :=
  { t with outs := t.outs.map fun o =>
      if o.inst = inst ∧ pc.toNat ≤ o.pc.toNat then o else { o with window := if ends then 0 else o.window - 1 } }

/-- Lanes set a word's token and open its window; the registers it will write are pending (R136, R137). -/
def State.addOuts (s : State) (r : Run) (lanes : List Nat) (i : Instr) : State :=
  match i.token with
  | none => s
  | some (k, la) =>
    let dsts := (i.writes.filter fun d => decide (d ≠ 0 ∧ d < 56)) ++ i.shapeWrites.map (· + 64)
    let out : Out := { inst := r.inst, token := k, dsts := dsts, window := la, ready := false, pc := r.pc,
                       index := r.index, length := r.words.length, level := 0 }
    s.mapLanes r.core r.fg lanes fun _ t => { t with outs := t.outs ++ [{ out with level := t.level }] }

/-- A word of a group takes effect: every thread of the run issues it (R133), the executing lanes set its token, and
its own effect follows. -/
def State.applyWord (s : State) (r : Run) (i : Instr) (eff : State → Run → List Nat → State) : State :=
  match s.fg? r.core r.fg with
  | none => s
  | some g =>
    let lanes := r.executing g i
    let s := s.mapLanes r.core r.fg r.lanes fun l t => t.tick r.inst r.pc (i.endsWindows && decide (l ∈ lanes))
    if lanes.isEmpty then s else eff (s.addOuts r lanes i) r lanes

/-- The trap that a set of lanes takes at a group (R301). -/
def trapOf (r : Run) (f : LaneFault) : TrapInfo :=
  let pc := (r.start.toNat + 4 * f.index) % 2 ^ 57
  { cause := f.cause, precise := true,
    epc := if f.cause = 0x0000 ∨ f.cause = 0x0002 then (packetOf pc + 12) % 2 ^ 57
      else if f.cause = 0x0001 then pc else r.start.toNat,
    addr := f.addr, index := f.index, length := r.words.length, n := f.n,
    word := (atD 0 r.words f.index).toNat, start := r.start.toNat }

/-- The lanes of a group that park, as one eft for each word and cause they met (R50, R332). -/
def State.parkLanes (s : State) (r : Run) (plan : Plan) : State :=
  [(0, 0x0200), (0, 0x0400), (0, 0x0803), (1, 0x0200), (1, 0x0400), (1, 0x0803), (2, 0x0200), (2, 0x0400),
    (2, 0x0803)].foldl (fun (s : State) (x : Nat × Nat) =>
      match plan.efts.filter fun f => decide (f.index = x.1 ∧ f.cause = x.2) with
      | [] => s
      | f :: rest => s.formEft r.core r.fg ((f :: rest).map (·.lane)) plan.normal
          (BitVec.ofNat 57 (r.start.toNat + 4 * f.index)) f.cause f.addr f.write
          (groupInfo f.index r.words.length r.start.toNat)) s

/-- The group's lanes that met a fault park or trap (R50, R300, R301). -/
def State.conclude (s : State) (r : Run) (plan : Plan) : State :=
  let s := s.parkLanes r plan
  match plan.trapped with
  | [] => s
  | f :: _ => s.trapEntry r.core r.fg (plan.trapped.map (·.lane)) (trapOf r f)

/-- The frame of a word's meaning. In a group of several words the issue unit has made the plan, and the word only
takes its effect. A group of one word is held at issue while an interlock fails (R136); else its lanes complete it,
park or trap. -/
def State.runWord (s : State) (i : Instr) (eff : State → Run → List Nat → State) : State :=
  match s.running with
  | none => s
  | some (r, p, g) =>
    match r.snap with
    | some _ => s.applyWord r i eff
    | none =>
      if s.wordReady r p g i then
        let plan := s.plan r p g [{ instr := i, index := 0, pc := r.pc.toNat }]
        let s := s.advance r plan.normal (afterWordPc i r.pc.toNat)
        let s := s.applyWord { r with lanes := plan.normal, snap := some g } i eff
        s.conclude r plan
      else s

/-! ### Shapes of effects -/

/-- A word that works lane by lane on g registers and predicates (R150). -/
def State.laneWord (s : State) (i : Instr) (f : Nat → Thread → List Word → LaneWrite) : State :=
  s.runWord i fun s r lanes => s.eachLane r lanes i.reads f

/-- A word with two g sources and a g destination. -/
def State.word2 (s : State) (i : Instr) (d : BitVec 6) (f : Word → Word → Word) : State :=
  s.laneWord i fun _ _ vs => writeOne d.toNat (f (nth vs 0) (nth vs 1))

/-- A word with one g source and a g destination. -/
def State.word1 (s : State) (i : Instr) (d : BitVec 6) (f : Word → Word) : State :=
  s.laneWord i fun _ _ vs => writeOne d.toNat (f (nth vs 0))

/-- A comparison: two g sources and a predicate. -/
def State.wordP (s : State) (i : Instr) (d : BitVec 3) (f : Word → Word → Bool) : State :=
  s.laneWord i fun _ _ vs => writePred d.toNat (f (nth vs 0) (nth vs 1))

/-- A word on pairs: a pair and a pair. -/
def State.word64 (s : State) (i : Instr) (d : BitVec 6) (f : BitVec 64 → BitVec 64 → BitVec 64) : State :=
  s.laneWord i fun _ _ vs => writePair d.toNat (f (pairOf vs 0) (pairOf vs 2))

/-- A word on a pair and a g register. -/
def State.word64g (s : State) (i : Instr) (d : BitVec 6) (f : BitVec 64 → Word → BitVec 64) : State :=
  s.laneWord i fun _ _ vs => writePair d.toNat (f (pairOf vs 0) (nth vs 2))

end Sys2Proof.Machine
end

