-- ==== Sys2Proof/Machine/Issue.lean ====
section
/-! DEFINITION. Fetching a chain group (R126, R129, R246, R316, R317), its decode faults (R131, R314, R315), and which run of a
file group may issue (R47, R48, R303). -/

namespace Sys2Proof.Machine

/-! ### Fetch -/

/-- What fetching a word gives. -/
inductive Fetched where
  | word (w : Word)
  | absent (pc : Nat)
  | notCode (pc : Nat)
  deriving DecidableEq, Repr

/-- The word at a key as a fetch by a core reads it: current, or as an L2 copy of the core's slice still holds it
(R246). -/
def State.memWord (s : State) (core key : Nat) : Word :=
  let new := leValue (s.mem.latestBytes key 4)
  let seen := match s.mem.copy? false (sliceOf core) (lineOf key) with
    | some c => leValue (s.mem.bytesAt key 4 c.asOf)
    | none => new
  BitVec.ofNat 32 (if seen = new then new else if Config.stale key s.seq then seen else new)

/-- The instruction-cache line of a core that holds an address of a context (R17, R128). -/
def State.icLine? (s : State) (core ctx pc : Nat) : Option ILine :=
  s.icache.find? fun x => decide (x.core = core ∧ x.ctx = ctx ∧ x.line = pc / 192)

/-- The key of an address of a line. -/
def ILine.key? (x : ILine) (pc : Nat) : Option Nat :=
  (x.segs.find? fun y => decide (y.1 ≤ pc ∧ y.1 / 65536 = pc / 65536)).map fun y => y.2 + (pc - y.1)

/-- The word that the instruction cache of a core holds at an address: as memory was when the line was filled (R246). -/
def State.icWord (s : State) (core ctx pc : Nat) : Option Word :=
  match s.icLine? core ctx pc with
  | none => none
  | some x => (x.key? pc).map fun k => BitVec.ofNat 32 (leValue (s.mem.bytesAt k 4 x.asOf))

/-- The word fetched ahead by a file group (R246). -/
def FileGroup.aheadWord (g : FileGroup) (pc : Nat) : Option Word :=
  (g.fetched.find? fun x => decide (x.1 = pc)).map (·.2)

/-- Of an older and a newer copy of a word, either (R246). -/
def staleOr (old : Option Word) (new : Word) (b : Bool) : Word :=
  match old with
  | none => new
  | some o => if o = new then new else if b then o else new

/-- The word at a key as a packet fetched ahead and not issued yet may hold it: as memory was when the file group last had
nothing fetched (R246). -/
def State.packetWord (s : State) (g : FileGroup) (key : Nat) : Word :=
  BitVec.ofNat 32 (leValue (s.mem.bytesAt key 4 (g.ahead + atD 0 s.skew (homeOf (lineOf key)))))

/-- A fetch of the word at an address, translated as the core TLB translates it, a view of the task included (R80,
R317). -/
def State.fetchWord (s : State) (p : Pad) (g : FileGroup) (pc : Nat) : Fetched :=
  let seen := fun (new : Word) (packet : Option Word) =>
    let ic := staleOr (s.icWord p.core p.ctx pc) new (Config.stale (pc / 192) s.seq)
    let ahead := staleOr packet ic (Config.stale (2 ^ 58 + pc) s.seq)
    Fetched.word (staleOr (g.aheadWord pc) ahead (Config.stale (2 ^ 57 + pc) s.seq))
  match (s.resolve p pc false).2 with
  | .at_ (.mem k) => seen (s.memWord p.core k) (some (s.packetWord g k))
  | .at_ (.blank e n) => seen (BitVec.ofNat 32 (blankValue e n pc 4)) none
  | .bad 0x0200 => .absent pc
  | _ => .notCode pc

/-- The words of the chain group at an address, to the first word with C = 0 or the end of the packet (R129, R316); n
is the number of words left in the packet. -/
def State.fetchFrom (s : State) (p : Pad) (g : FileGroup) : Nat → Nat → Except Fetched (List Word)
  | 0, _ => .ok []
  | n + 1, pc =>
    match s.fetchWord p g pc with
    | .word w =>
      if w.getLsbD 31 then
        match s.fetchFrom p g n ((pc + 4) % 2 ^ 57) with
        | .ok ws => .ok (w :: ws)
        | .error e => .error e
      else .ok [w]
    | e => .error e

/-- The index of a word address in its packet (R126). -/
def wordIndex (pc : Nat) : Nat := pc % 12 / 4

/-- The chain group at an address. -/
def State.fetchGroup (s : State) (p : Pad) (g : FileGroup) (pc : Nat) : Except Fetched (List Word) :=
  s.fetchFrom p g (3 - wordIndex pc) pc

/-- The key of an address of a task's code, where it is in this module's or the host's memory. -/
def State.codeKey (s : State) (p : Pad) (pc : Nat) : Option Nat :=
  match (s.resolve p pc false).2 with
  | .at_ (.mem k) => some k
  | _ => none

/-- The 192-byte line of an address as a fill finds it now: the keys of its first byte and of the page that begins in it,
where they translate (R128). -/
def State.fillLine (s : State) (p : Pad) (pc : Nat) : ILine :=
  let lo := pc / 192 * 192
  let page := (lo + 191) / 65536 * 65536
  let starts := if lo < page then [lo, page] else [lo]
  { core := p.core, ctx := p.ctx, line := pc / 192, asOf := s.clk
    segs := starts.filterMap fun a => (s.codeKey p a).map fun k => (a, k) }

/-- Lines of an instruction cache with the one at a place of a set gone. -/
def dropWay (core set : Nat) : Nat → List ILine → List ILine
  | _, [] => []
  | n, x :: rest =>
    if x.core = core ∧ x.line % 42 = set then
      match n with
      | 0 => rest
      | n + 1 => x :: dropWay core set n rest
    else x :: dropWay core set n rest

/-- A line put into a core's instruction cache of 42 sets of 8 ways (R17): in a full set some line makes room, by a free
choice (log entry 52). -/
def State.keepLine (s : State) (p : Pad) (pc : Nat) : State :=
  match s.icLine? p.core p.ctx pc with
  | some _ => s
  | none =>
    let full := (s.icache.filter fun x => decide (x.core = p.core ∧ x.line % 42 = pc / 192 % 42)).length
    let rest := if full < 8 then s.icache
      else dropWay p.core (pc / 192 % 42) (Config.pickAt s.seq 1 % 8) s.icache
    { s with icache := s.fillLine p pc :: rest }

/-- The words fetched, kept ahead of the file group (R246). -/
def State.keepAhead (s : State) (core fg pc : Nat) : List Word → State
  | [] => s
  | w :: rest =>
    (s.mapFg core fg fun g =>
      { g with fetched := (pc, w) :: (g.fetched.filter fun x => decide (x.1 ≠ pc)) }).keepAhead core fg (pc + 4) rest

/-- The words fetched, their line put into the instruction cache and they themselves ahead of the file group (R246). -/
def State.keepFetched (s : State) (p : Pad) (fg pc : Nat) (ws : List Word) : State :=
  (s.keepLine p pc).keepAhead p.core fg pc ws

/-! ### Decoding a group -/

/-- Register writes that count for rule 3 of R131. -/
def realWrites (i : Instr) : List Nat :=
  (i.writes.filter fun d => decide (d ≠ 0)) ++ (i.kWrites.map (· + 100)) ++
    ((i.predWrites.filter fun d => decide (d ≠ 7)).map (· + 200)) ++ i.shapeWrites.map (· + 300)

/-- A word breaks a rule of R131 behind the words before it (R315). -/
def chainBreak (before : List Instr) (i : Instr) (packetIndex : Nat) (c : Bool) : Bool :=
  (before.any fun b => decide (b.pipe = i.pipe)) ||
  (before.any fun b => (realWrites b).any fun d => decide (d ∈ realWrites i)) ||
  (decide (packetIndex = 2) && c) ||
  (i.standsAlone && (!before.isEmpty || c)) ||
  (i.isTransfer && c) ||
  (decide (i = .safept) && decide (packetIndex ≠ 0))

/-- The words of a group decoded, or the index and cause of the first faulting word (R314, R315). -/
def decodeGroup (p : Pad) (start : Nat) : Nat → List Instr → List Word → Except (Nat × Nat) (List Instr)
  | _, before, [] => .ok before
  | n, before, w :: rest =>
    let pi := wordIndex start + n
    match decodeWord w.toNat with
    | .reject f =>
      if decide (pi = 2) && w.getLsbD 31 && decide (0x0104 < f.cause) then .error (n, 0x0104) else .error (n, f.cause)
    | .instr i =>
      if chainBreak before i pi (w.getLsbD 31) then .error (n, 0x0104)
      else if handleFault p i then .error (n, 0x0105)
      else decodeGroup p start (n + 1) (before ++ [i]) rest

/-! ### Runs -/

/-- The runs of a file group in table order: one per word address, ascending (R47). All threads of the table have one
handler state, because only the current level issues (R303). -/
def FileGroup.runs (g : FileGroup) : List (Nat × List Nat) :=
  let pcs := sortUp (g.table.map fun i => (g.thread i).pc.toNat)
  let distinct := pcs.foldr (fun x acc => match acc with
    | y :: _ => if x = y then acc else x :: acc
    | [] => [x]) []
  distinct.map fun pc => (pc, g.table.filter fun i => decide ((g.thread i).pc.toNat = pc))

/-- The run {pc, lanes} as the issue unit would issue it. -/
def mkRun (core fg : Nat) (pc : Nat) (lanes : List Nat) (inst : Nat) (words : List Word) : Run :=
  { core := core, fg := fg, lanes := lanes, whole := lanes, ops := [], start := BitVec.ofNat 57 pc, pc := BitVec.ofNat 57 pc, index := 0,
    words := words, snap := none, inst := inst }

/-- Lanes held for want of an eft number keep their run from being ready (R332). -/
def FileGroup.heldRun (g : FileGroup) (lanes : List Nat) : Bool :=
  g.efts.any fun e => e.held && e.lanes.any fun l => decide (l ∈ lanes ∧ (g.thread l).pc = e.pc)

/-- The faulting word names a handle that an earlier `shld` of a lane has yet to write: it is held at issue, and is no fault
before the handle is written (R136, R206, R314). -/
def handleHeld (g : FileGroup) (lanes : List Nat) (ws : List Word) (n cause : Nat) : Bool :=
  decide (cause = 0x0105) &&
  (match decodeWord (atD 0 ws n).toNat with
   | .instr i => i.shapeReads.any fun h => lanes.any fun l => decide (h + 64 ∈ (g.thread l).pendingRegs n)
   | .reject _ => false)

/-- The run's next chain group passes its interlocks (R47, R136); a fetch fault or decode fault needs none, but for a handle
that is still to be written (R314). -/
def State.runReady (s : State) (p : Pad) (fg : Nat) (g : FileGroup) (run : Nat × List Nat) : Bool :=
  !g.heldRun run.2 &&
  (match s.fetchGroup p g run.1 with
   | .error _ => true
   | .ok ws => match decodeGroup p run.1 0 [] ws with
     | .error (n, cause) => !handleHeld g run.2 ws n cause
     | .ok is => s.groupReady (mkRun p.core fg run.1 run.2 0 ws) p g is)

/-- Issue cycles in which a `yield` still lowers the run (R174). -/
def FileGroup.runYielded (g : FileGroup) (lanes : List Nat) : Nat := greatest 0 (lanes.map fun i => (g.thread i).yielded)

/-- AGE_LIMIT of a context, held within its bounds (R346). -/
def State.ageLimit (s : State) (ctx : Nat) : Nat :=
  match s.ctx? ctx with
  | none => 65536
  | some c => min 65536 (max 256 c.ageLimit)

/-- The run that issues next (R47, R48, R174): the most aged of the aged runs; else the first ready run that has not
yielded; else the first ready run. -/
def State.chooseRun (s : State) (p : Pad) (fg : Nat) (g : FileGroup) : Option (Nat × List Nat) :=
  let ready := g.runs.filter (s.runReady p fg g)
  let aged := ready.filter fun r => decide (s.ageLimit p.ctx ≤ g.runAge r.2)
  let top := greatest 0 (aged.map fun r => g.runAge r.2)
  match aged.find? fun r => decide (g.runAge r.2 = top) with
  | some r => some r
  | none => match ready.find? fun r => decide (g.runYielded r.2 = 0) with
    | some r => some r
    | none => ready.head?

/-- A file group issues at all: resident, running, not halted, its context not past step 1 of a save (R46, R52,
R306, R311). -/
def Pad.issues (p : Pad) (g : FileGroup) : Bool := !p.stopped && !g.halted && !g.exited

/-- Cycles that a run of n threads takes to issue (R47). -/
def issueCycles (n : Nat) : Nat := (n + 31) / 32

/-- After a run is chosen: every other ready run of the file group grows older, up to AGE_LIMIT, and a `yield` wears
off (R48, R174, R346). -/
def State.ageOthers (s : State) (p : Pad) (fg : Nat) (g : FileGroup) (chosen : List Nat) : State :=
  let ready := (g.runs.filter (s.runReady p fg g)).flatMap (·.2)
  let n := issueCycles chosen.length
  let limit := s.ageLimit p.ctx
  s.mapFg p.core fg fun g => { g with threads := mapFrom (fun i t =>
    { t with yielded := t.yielded - n
             age := if i ∈ ready ∧ i ∉ chosen then min limit (t.age + n) else t.age }) 0 g.threads }

/-! ### Faults of a whole group -/

/-- The length of a group for a decode fault: to the first word with C = 0 or the end of the packet (R315). -/
def decodeTrapInfo (start : Nat) (ws : List Word) (index cause : Nat) : TrapInfo :=
  { cause := cause, precise := true, epc := start, addr := 0, index := index, length := ws.length, n := 0,
    word := (atD 0 ws index).toNat, start := start }

/-- A decode fault traps every thread of the run; nothing of the group takes effect (R315). -/
def State.decodeTrap (s : State) (r : Run) (ws : List Word) (index cause : Nat) : State :=
  s.trapEntry r.core r.fg r.lanes (decodeTrapInfo r.start.toNat ws index cause)

/-- A fetch that finds its page absent parks the run as one eft, and in a handler it is a precise trap, since no eft is
formed there; code that lies elsewhere than in this module's or the host's memory traps the run (R317). -/
def State.fetchTrap (s : State) (r : Run) (p : Pad) (g : FileGroup) : State :=
  match s.fetchGroup p g r.start.toNat with
  | .error (.absent pc) =>
    if g.level = 0 then s.formEft r.core r.fg r.lanes [] r.start 0x0200 pc false (groupInfo 0 1 r.start.toNat)
    else s.trapEntry r.core r.fg r.lanes
      { cause := 0x0200, precise := true, epc := pc, addr := pc, index := 0, length := 1, n := 0, word := 0,
        start := pc }
  | .error (.notCode pc) =>
    s.trapEntry r.core r.fg r.lanes
      { cause := 0x020A, precise := true, epc := pc, addr := pc, index := 0, length := 1, n := 0, word := 0,
        start := pc }
  | _ => s

end Sys2Proof.Machine
end

