-- ==== Sys2Proof/Machine/Alu.lean ====
section
/-! DEFINITION. Integer functions of R152-R158 and R168 that are more than one BitVec operation. -/

namespace Sys2Proof.Machine

/-- Bits 63-32 of a signed product (R152). -/
def mulHighS (x y : Word) : Word := BitVec.ofInt 32 (x.toInt * y.toInt / 2 ^ 32)

/-- Bits 63-32 of an unsigned product (R152). -/
def mulHighU (x y : Word) : Word := BitVec.ofNat 32 (x.toNat * y.toNat / 2 ^ 32)

/-- The smaller by the signed reading. -/
def minS (x y : Word) : Word := if x.toInt ≤ y.toInt then x else y
/-- The larger by the signed reading. -/
def maxS (x y : Word) : Word := if x.toInt ≤ y.toInt then y else x
/-- The smaller by the unsigned reading. -/
def minU (x y : Word) : Word := if x.toNat ≤ y.toNat then x else y
/-- The larger by the unsigned reading. -/
def maxU (x y : Word) : Word := if x.toNat ≤ y.toNat then y else x

/-- An integer clamped to a range. -/
def clampInt (lo hi v : Int) : Int := min hi (max lo v)

/-- Saturating signed sum (R152). -/
def addSat (x y : Word) : Word := BitVec.ofInt 32 (clampInt (-(2 ^ 31)) (2 ^ 31 - 1) (x.toInt + y.toInt))

/-- Left shift by a whole 32-bit amount (R154). -/
def shlWord (x y : Word) : Word := if y.toNat < 32 then x <<< y.toNat else 0
/-- Right shift by a whole 32-bit amount (R154). -/
def shrWord (x y : Word) : Word := if y.toNat < 32 then x >>> y.toNat else 0
/-- Arithmetic right shift by a whole 32-bit amount (R154). -/
def sarWord (x y : Word) : Word :=
  if y.toNat < 32 then x.sshiftRight y.toNat else if x.getLsbD 31 then BitVec.allOnes 32 else 0
/-- Rotate left by the amount modulo 32 (R154). -/
def rolWord (x y : Word) : Word := x.rotateLeft (y.toNat % 32)
/-- Rotate right by the amount modulo 32 (R154). -/
def rorWord (x y : Word) : Word := x.rotateRight (y.toNat % 32)

/-- Leading zeros below bit n. -/
def clzFrom (x : Word) : Nat → Nat
  | 0 => 0
  | n + 1 => if x.getLsbD n then 0 else clzFrom x n + 1

/-- Number of leading zero bits; 32 for 0 (R154). -/
def clzWord (x : Word) : Word := BitVec.ofNat 32 (clzFrom x 32)

/-- Set bits below bit n. -/
def popcFrom (x : Word) : Nat → Nat
  | 0 => 0
  | n + 1 => popcFrom x n + (if x.getLsbD n then 1 else 0)

/-- Number of set bits (R154). -/
def popcWord (x : Word) : Word := BitVec.ofNat 32 (popcFrom x 32)

/-- Bit i moved to bit 31 - i (R154). -/
def brevWord (x : Word) : Word := x.reverse

/-- Immediate sext(IMM9, 9) as a word (R156). -/
def imm9 (i : BitVec 9) : Word := i.signExtend 32

/-- A 5-bit shift amount as a word (R156). -/
def amount5 (i : BitVec 5) : Word := i.setWidth 32

/-- `div` (R168). -/
def divS (x y : Word) : Word :=
  if y = 0 then BitVec.allOnes 32
  else if x = 0x80000000#32 ∧ y = BitVec.allOnes 32 then 0x80000000#32
  else BitVec.ofInt 32 (x.toInt.tdiv y.toInt)

/-- `divu` (R168). -/
def divU (x y : Word) : Word := if y = 0 then BitVec.allOnes 32 else BitVec.ofNat 32 (x.toNat / y.toNat)

/-- `rem` (R168). -/
def remS (x y : Word) : Word :=
  if y = 0 then x
  else if x = 0x80000000#32 ∧ y = BitVec.allOnes 32 then 0
  else BitVec.ofInt 32 (x.toInt - y.toInt * x.toInt.tdiv y.toInt)

/-- `remu` (R168). -/
def remU (x y : Word) : Word := if y = 0 then x else BitVec.ofNat 32 (x.toNat % y.toNat)

/-- A 64-bit left shift by the low 6 bits (R158). -/
def shl64Val (x : BitVec 64) (y : Word) : BitVec 64 := x <<< (y.toNat % 64)
/-- A 64-bit right shift by the low 6 bits (R158). -/
def shr64Val (x : BitVec 64) (y : Word) : BitVec 64 := x >>> (y.toNat % 64)
/-- A 64-bit arithmetic right shift by the low 6 bits (R158). -/
def sar64Val (x : BitVec 64) (y : Word) : BitVec 64 := x.sshiftRight (y.toNat % 64)

/-- The target of a packet-relative displacement: packet address + 12 × d (R159, R170). -/
def packetRel (pc : Nat) (d : Int) (width : Nat) : Nat := twos width ((packetOf pc : Int) + 12 * d)

end Sys2Proof.Machine
end

