-- ==== Sys2Proof/Machine/Flags.lean ====
section
/-! DEFINITION. The five exception flags of R121, as matrix steps, store-out and collectives report them. -/

namespace Sys2Proof.Machine

/-- NV, invalid operation. -/
def flagNV : Nat := 16
/-- DZ, division by zero. -/
def flagDZ : Nat := 8
/-- OF, overflow or saturation. -/
def flagOF : Nat := 4
/-- UF, tiny and inexact. -/
def flagUF : Nat := 2
/-- NX, inexact. -/
def flagNX : Nat := 1

/-- A flag when a condition holds. -/
def flagIf (b : Bool) (f : Nat) : Nat := if b then f else 0

/-- Flags ORed. -/
def orFlags (l : List Nat) : Nat := l.foldl (· ||| ·) 0

end Sys2Proof.Machine
end

