-- ==== Sys2Proof/Machine/Fp.lean ====
section
/-! DEFINITION. Floating-point formats, exact values and rounding (R106, R107, R113-R115, R119). -/

namespace Sys2Proof.Machine

/-- A format of R106: fraction bits, bias, largest finite magnitude code, whether the code above it is an infinity,
and the canonical NaN. -/
structure Fmt where
  width : Nat
  frac : Nat
  bias : Nat
  maxCode : Nat
  hasInf : Bool
  nan : Nat
  deriving DecidableEq, Repr

/-- FP32. -/
def fp32 : Fmt := { width := 32, frac := 23, bias := 127, maxCode := 0x7F7FFFFF, hasInf := true, nan := 0x7FC00000 }
/-- BF16. -/
def bf16 : Fmt := { width := 16, frac := 7, bias := 127, maxCode := 0x7F7F, hasInf := true, nan := 0x7FC0 }
/-- E4M3. -/
def e4m3 : Fmt := { width := 8, frac := 3, bias := 7, maxCode := 0x7E, hasInf := false, nan := 0x7F }
/-- A80. -/
def a80 : Fmt :=
  { width := 80, frac := 67, bias := 2047, maxCode := 0xFFF * 2 ^ 67 - 1, hasInf := true,
    nan := 0xFFF * 2 ^ 67 + 2 ^ 66 }

/-- A float operand or exact result: a NaN, an infinity, or the number (−1)^neg × n / d, where a zero keeps its sign. -/
inductive FVal where
  | nan
  | inf (neg : Bool)
  | num (neg : Bool) (n d : Nat)
  deriving DecidableEq, Repr

/-- n × 2^e as a value. -/
def dyadic (neg : Bool) (n : Nat) (e : Int) : FVal :=
  match e with
  | .ofNat k => .num neg (n * 2 ^ k) 1
  | .negSucc k => .num neg n (2 ^ (k + 1))

/-- The value of an encoding (R106). -/
def Fmt.value (f : Fmt) (bits : Nat) : FVal :=
  let bits := bits % 2 ^ f.width
  let neg := bits.testBit (f.width - 1)
  let mag := bits % 2 ^ (f.width - 1)
  if mag ≤ f.maxCode then
    if mag < 2 ^ f.frac then dyadic neg mag (1 - f.bias - f.frac)
    else dyadic neg (2 ^ f.frac + mag % 2 ^ f.frac) ((mag / 2 ^ f.frac : Nat) - f.bias - f.frac)
  else if f.hasInf && decide (mag = f.maxCode + 1) then .inf neg
  else .nan

/-- The fraction n / d rounded to an integer magnitude by a mode of R113; `draw` is the 32-bit draw of SR (R115). -/
def roundMag (mode : Nat) (neg : Bool) (draw n d : Nat) : Nat :=
  let q := n / d
  let r := n % d
  if r = 0 then q
  else match mode with
    | 0 => if 2 * r < d then q else if d < 2 * r then q + 1 else if q % 2 = 0 then q else q + 1
    | 1 => q
    | 2 => if neg then q else q + 1
    | 3 => if neg then q + 1 else q
    | _ => if draw * d < r * 2 ^ 32 then q + 1 else q

/-- The exponent of a positive fraction: the largest e with 2^e not above n / d. -/
def expOf (n d : Nat) : Int :=
  let e : Int := (Nat.log2 n : Int) - Nat.log2 d
  let below := match e with
    | .ofNat k => decide (n < d * 2 ^ k)
    | .negSucc k => decide (n * 2 ^ (k + 1) < d)
  if below then e - 1 else e

/-- n / d over 2^q, as a fraction. -/
def scaleDown (n d : Nat) (q : Int) : Nat × Nat :=
  match q with
  | .ofNat k => (n, d * 2 ^ k)
  | .negSucc k => (n * 2 ^ (k + 1), d)

/-- The magnitude code of a positive fraction rounded with an unbounded range above (R114). -/
def Fmt.roundCode (f : Fmt) (mode : Nat) (neg : Bool) (draw n d : Nat) : Nat :=
  let e := max (expOf n d) (1 - (f.bias : Int))
  let x := scaleDown n d (e - f.frac)
  (e + f.bias - 1).toNat * 2 ^ f.frac + roundMag mode neg draw x.1 x.2

/-- The magnitude code that an overflow gives (R114). -/
def Fmt.overflowCode (f : Fmt) (mode : Nat) (neg : Bool) : Nat :=
  if !f.hasInf then f.maxCode
  else match mode with
    | 1 => f.maxCode
    | 2 => if neg then f.maxCode else f.maxCode + 1
    | 3 => if neg then f.maxCode + 1 else f.maxCode
    | _ => f.maxCode + 1

/-- A rounded result with its flags (R121). -/
structure Rounded where
  bits : Nat
  flags : Nat
  sat : Bool        -- a narrowing that saturated
  deriving DecidableEq, Repr

/-- The sign bit of a format. -/
def Fmt.signBit (f : Fmt) (neg : Bool) : Nat := if neg then 2 ^ (f.width - 1) else 0

/-- The result is tiny: rounded as though the exponent were unbounded, it is below the least normal (R114). -/
def Fmt.tiny (f : Fmt) (mode : Nat) (neg : Bool) (draw n d : Nat) : Bool :=
  let e := expOf n d
  let x := scaleDown n d (e - f.frac)
  let m := roundMag mode neg draw x.1 x.2
  decide (e < 1 - (f.bias : Int)) && !(decide (e = -(f.bias : Int)) && decide (m = 2 ^ (f.frac + 1)))

/-- round(v, fmt, mode) (R114, R115). Under SR a magnitude above the largest finite rounds as by RNE. -/
def Fmt.round (f : Fmt) (mode draw : Nat) : FVal → Rounded
  | .nan => { bits := f.nan, flags := 0, sat := false }
  | .inf neg =>
    if f.hasInf then { bits := f.signBit neg + (f.maxCode + 1), flags := 0, sat := false }
    else { bits := f.signBit neg + f.maxCode, flags := flagOF + flagNX, sat := true }
  | .num neg n d =>
    if n = 0 then { bits := f.signBit neg, flags := 0, sat := false }
    else
      let big := match f.value f.maxCode with
        | .num _ a b => decide (a * d < n * b)
        | _ => false
      let mode := if decide (4 ≤ mode) && big then 0 else mode
      let code := f.roundCode mode neg draw n d
      let past := decide (f.maxCode < code)
      let code' := if past then f.overflowCode mode neg else code
      let exact := match f.value code' with
        | .num _ a b => decide (a * d = n * b)
        | _ => false
      let uf := !exact && !past && f.tiny mode neg draw n d
      { bits := f.signBit neg + code', sat := past && !f.hasInf,
        flags := flagIf past flagOF ||| flagIf (past || !exact) flagNX ||| flagIf uf flagUF }

/-! ### Exact arithmetic -/

/-- The sign of a value. -/
def FVal.neg? : FVal → Bool
  | .nan => false
  | .inf s => s
  | .num s _ _ => s

/-- The value with its sign changed. -/
def FVal.negate : FVal → FVal
  | .nan => .nan
  | .inf s => .inf !s
  | .num s n d => .num (!s) n d

/-- Exact product; 0 × ∞ is NaN (R160). -/
def FVal.mul : FVal → FVal → FVal
  | .nan, _ => .nan
  | _, .nan => .nan
  | .inf s, .inf t => .inf (s != t)
  | .inf s, .num t n _ => if n = 0 then .nan else .inf (s != t)
  | .num s n _, .inf t => if n = 0 then .nan else .inf (s != t)
  | .num s n d, .num t m e => .num (s != t) (n * m) (d * e)

/-- Exact sum; opposite infinities give NaN; a zero sum takes the sign of R114 for the mode. -/
def FVal.add (mode : Nat) : FVal → FVal → FVal
  | .nan, _ => .nan
  | _, .nan => .nan
  | .inf s, .inf t => if s = t then .inf s else .nan
  | .inf s, .num _ _ _ => .inf s
  | .num _ _ _, .inf t => .inf t
  | .num s n d, .num t m e =>
    let a := n * e
    let b := m * d
    if s = t then .num s (a + b) (d * e)
    else if a = b then .num (decide (mode = 3)) 0 1
    else if b < a then .num s (a - b) (d * e)
    else .num t (b - a) (d * e)

/-- Exact quotient with the special cases of IEEE 754 (R168). -/
def FVal.div : FVal → FVal → FVal
  | .nan, _ => .nan
  | _, .nan => .nan
  | .inf _, .inf _ => .nan
  | .inf s, .num t _ _ => .inf (s != t)
  | .num s _ _, .inf t => .num (s != t) 0 1
  | .num s n d, .num t m e =>
    if m = 0 then (if n = 0 then .nan else .inf (s != t)) else .num (s != t) (n * e) (d * m)

/-- The value times 2^k. -/
def FVal.scale (k : Int) : FVal → FVal
  | .num s n d => match k with
    | .ofNat j => .num s (n * 2 ^ j) d
    | .negSucc j => .num s n (d * 2 ^ (j + 1))
  | v => v

/-- An integer as a value. -/
def FVal.ofInt (v : Int) : FVal := .num (decide (v < 0)) v.natAbs 1

/-- A value rounded to an integer and clamped; NaN gives 0 (R119). -/
def FVal.toInt (mode draw : Nat) (lo hi : Int) : FVal → Int
  | .nan => 0
  | .inf s => if s then lo else hi
  | .num s n d =>
    let m : Int := roundMag mode s draw n d
    clampInt lo hi (if s then -m else m)

/-- FP32 value of a word. -/
def f32 (w : Word) : FVal := fp32.value w.toNat

/-- A rounded FP32 word. -/
def toF32 (mode draw : Nat) (v : FVal) : Word := BitVec.ofNat 32 (fp32.round mode draw v).bits

/-- Element e of a BF16 pair (R161). -/
def bfElem (w : Word) (e : Nat) : FVal := bf16.value (w.toNat / 2 ^ (16 * e))

/-- A NaN encoding of FP32. -/
def isNan32 (w : Word) : Bool := decide (0x7F800000 < w.toNat % 2 ^ 31)

/-- The order of two FP32 numbers as integers: −0 below +0 (R162). -/
def key32 (w : Word) : Int := if w.getLsbD 31 then -((w.toNat % 2 ^ 31 : Nat) : Int) - 1 else (w.toNat % 2 ^ 31 : Nat)

/-- `fmin` (R162). -/
def fmin32 (x y : Word) : Word :=
  if isNan32 x && isNan32 y then 0x7FC00000#32
  else if isNan32 x then y else if isNan32 y then x
  else if key32 x ≤ key32 y then x else y

/-- `fmax` (R162). -/
def fmax32 (x y : Word) : Word :=
  if isNan32 x && isNan32 y then 0x7FC00000#32
  else if isNan32 x then y else if isNan32 y then x
  else if key32 x ≤ key32 y then y else x

/-- The one-hot class of R162. -/
def fclass32 (x : Word) : Word :=
  let neg := x.getLsbD 31
  let mag := x.toNat % 2 ^ 31
  let bit :=
    if isNan32 x then (if neg then 9 else 8)
    else if mag = 0x7F800000 then (if neg then 0 else 7)
    else if mag = 0 then (if neg then 3 else 4)
    else if mag < 0x800000 then (if neg then 2 else 5)
    else if neg then 1 else 6
  BitVec.ofNat 32 (2 ^ bit)

/-- The two numbers compare equal, −0 with +0 (R163). -/
def feq32 (x y : Word) : Bool := decide (x = y ∨ (x.toNat % 2 ^ 31 = 0 ∧ y.toNat % 2 ^ 31 = 0))

/-- The first number is less (R163). -/
def flt32 (x y : Word) : Bool := !feq32 x y && decide (key32 x < key32 y)

/-! ### The generator (R116) -/

/-- One step of xorshift64*: the new state. -/
def rngStep (s : BitVec 64) : BitVec 64 :=
  let a := s ^^^ (s >>> 12)
  let b := a ^^^ (a <<< 25)
  b ^^^ (b >>> 27)

/-- The output of a state just stepped to. -/
def rngOut (s : BitVec 64) : BitVec 64 := s * 0x2545F4914F6CDD1D#64

/-- r of R115: bits 63-32 of the output. -/
def rngDraw (s : BitVec 64) : Nat := (rngOut s).toNat / 2 ^ 32

/-- A state that would be 0 is 1 (R116). -/
def rngSeed (s : BitVec 64) : BitVec 64 := if s = 0 then 1 else s

/-- The state of a thread's generator at task entry (R117). -/
def threadSeed (base : BitVec 64) (fg thread ctx : Nat) : BitVec 64 :=
  rngSeed ((0x9E3779B97F4A7C15#64 * (base * 1024 + BitVec.ofNat 64 (fg * 256 + thread + 1))) ^^^
    BitVec.ofNat 64 (ctx * 2 ^ 32))

/-- The base of a spawned task's seeds (R117). -/
def spawnBase (seed : BitVec 64) (slot : Nat) : BitVec 64 := seed ^^^ BitVec.ofNat 64 ((slot + 1) * 2 ^ 56)

end Sys2Proof.Machine
end

