-- ==== Sys2Proof/Machine/Send.lean ====
section
/-! DEFINITION. Packets that leave the module over the fabric (R277, R357-R359), and the end of an access that fails after
issue (R341, R347, R360). -/

namespace Sys2Proof.Machine

/-! ### Packets -/

/-- The ports of a destination's route (R276). -/
def State.routePorts (s : State) (dest : Nat) : List Nat := (tabGet ([], 0) s.fabric.routes dest).1.map (·.1)

/-- Some port of a destination's route is up: its ready bit is set (R284, R358). -/
def State.routeUp (s : State) (dest : Nat) : Bool := (s.routePorts dest).any fun p => s.readyBit (48 + p)

/-- The owner may send: its id is in the module owner set (R277, R359). -/
def State.maySend (s : State) (owner : Nat) : Bool := decide (owner ∈ s.fabric.owners)

/-- A packet enters the fabric: its flow's next sequence number, and a place in the retry buffer until it is
acknowledged (R277, R357). Its kind is 0 read, 1 write, 2 atomic, 3 answer, 4 contribution, 5 counter add, 6 watch, 7 post,
8 completion record, 10 root merge, and of the answers that fail 11 REVOKED, 12 OWNERREJECT, 14 poisoned. -/
def State.sendPacket (s : State) (dest owner kind ref addr : Nat) (data : List Nat) : State :=
  let seqNo := tabGet 0 s.fabric.nextSeq dest
  let pk : Packet :=
    { id := s.nextId, dest := dest, seqNo := seqNo, owner := owner, kind := kind, ref := ref, addr := addr, data := data,
      sentAt := s.clk, acked := false, stalledSince := if s.routeUp dest then none else some s.clk, saidStall := false }
  State.bump { s with fabric := { s.fabric with
    packets := s.fabric.packets ++ [pk]
    nextSeq := tabSet 0 s.fabric.nextSeq dest ((seqNo + 1) % 2 ^ 32) } }

/-- A packet of an engine's access to n bytes at an address of a context enters the fabric (R271). -/
def State.sendUser (s : State) (ctx va n dest owner kind ref addr : Nat) (data : List Nat) : State :=
  let t := s.sendPacket dest owner kind ref addr data
  { t with fabric := { t.fabric with packets := t.fabric.packets.map fun k =>
      if k.id = s.nextId then { k with user := some (ctx, va, n) } else k } }

/-- A refusal counted in a port's DETAIL record, and reported to the fabric manager (R359). -/
def State.countRefusal (s : State) (port owner : Nat) : State :=
  (s.countDetail (48 + port) 0).tellManager 0x0710 (port * 2 ^ 12 + owner)

/-- A packet whose owner id is not in the module owner set is not sent: the refusal is counted at the first port of its
route (R359). -/
def State.refuseSend (s : State) (dest owner : Nat) : State := s.countRefusal ((s.routePorts dest).headD 0) owner

/-- The name under which the front end and the dispatchers read other modules' memory: no unit's own. -/
def farRef : Nat := 2 ^ 64

/-- A sector of another module is kept, or with no bytes the failure of its read. -/
def State.keepFar (s : State) (x : Nat × Nat × Nat) (data : List Nat) : State :=
  { s with fabric := { s.fabric with far := s.fabric.far ++ [(x, data)] } }

/-- The front end or a dispatcher asks for the sectors it does not have and has not asked for (R39, R277). -/
def State.askFar (s : State) (l : List (Nat × Nat × Nat)) : State :=
  l.foldl (fun (s : State) (x : Nat × Nat × Nat) =>
    if s.hasFar x || s.fabric.packets.any (fun k => decide (k.kind = 0 ∧ k.ref = farRef ∧ k.owner = x.1 ∧ k.dest = x.2.1 ∧
        k.addr = x.2.2)) then s
    else if s.maySend x.1 then s.sendPacket x.2.1 x.1 0 farRef x.2.2 [64]
    else (s.refuseSend x.2.1 x.1).keepFar x []) s

/-! ### Accesses that fail after issue -/

/-- The instruction returns a value to its lanes, or to a handle. -/
def OpKind.returns : OpKind → Bool
  | .load _ _ _ _ => true
  | .loadRo _ _ => true
  | .watch _ _ _ _ => true
  | .atomic _ _ _ _ dst => decide (dst ≠ 0)
  | .shapeLoad _ => true
  | _ => false

/-- The lanes of an instruction are complete with 0 in every register it still had to write (R347). -/
def State.finishZero (s : State) (core fg : Nat) (lanes : List Nat) (inst : Nat) : State :=
  s.mapLanes core fg lanes fun _ t =>
    t.finish inst (((t.outs.filter fun o => decide (o.inst = inst)).flatMap (·.dsts)).map fun d => (d, 0))

/-- The word of an instruction that a lane has outstanding. -/
def Thread.outPc (t : Thread) (inst : Nat) : BitVec 57 :=
  match t.outs.find? fun o => decide (o.inst = inst) with
  | some o => o.pc
  | none => t.pc

/-- INFO of a record about an outstanding instruction: its word's place in its chain group (R299). -/
def Thread.outInfo (t : Thread) (inst : Nat) : Nat :=
  match t.outs.find? fun o => decide (o.inst = inst) with
  | some o => groupInfo o.index o.length ((o.pc.toNat + 2 ^ 57 - 4 * o.index) % 2 ^ 57)
  | none => groupInfo 0 1 t.pc.toNat

/-- The record of an access that failed, made while the access is outstanding: to the context's queue, and to both for a
soft error (R299, R347, R360). -/
def State.failRecord (s : State) (o : Op) (cause : Nat) : State :=
  let lead := (s.thread? o.core o.fg (leastD 0 o.lanes)).getD Thread.gone
  s.report (plainRec cause 0 o.ctx (s.ownerOf o.ctx) o.va (lead.outInfo o.inst) (whereWord s.tap.position o.core o.fg)) true
    (decide (cause / 2 ^ 8 = 9))

/-- The context's save has been forced (R311). -/
def State.forced (s : State) (ctx : Nat) : Bool :=
  match s.preempt? ctx with
  | some q => q.forced
  | none => false

/-- The handler level at which a lane issued an instruction it has outstanding; 3 for none. -/
def Thread.fromLevel (t : Thread) (inst : Nat) : Nat :=
  match t.outs.find? fun o => decide (o.inst = inst) with
  | some o => o.level
  | none => 3

/-- An access that faults after its context's save has been forced: a record with its word address, and the threads are
saved at that word, with every register live (R311). A thread that has entered a handler since leaves it for that, as by
`exit` (DEDUCED, log entry 91); one that has left its system handler since stays at the level-2 return word (R310). -/
def State.forcedFault (s : State) (o : Op) (cause : Nat) : State :=
  let lead := (s.thread? o.core o.fg (leastD 0 o.lanes)).getD Thread.gone
  let r := plainRec cause 0 o.ctx (s.ownerOf o.ctx) o.va (lead.outPc o.inst).toNat (whereWord s.tap.position o.core o.fg)
  let s := s.mapFg o.core o.fg fun g => (o.lanes.filter fun l => (g.thread l).fromLevel o.inst = 0 ∧ (g.thread l).level ≠ 0).foldl
    (fun (g : FileGroup) (l : Nat) => (g.mapLanes [l] fun _ t => { t with level := 0, system := g.bank1.pmode }).leaveHandler
      (g.thread l).level) g
  let s := s.mapLanes o.core o.fg o.lanes fun _ t =>
    if t.outs.any fun x => decide (x.inst = o.inst ∧ x.level = t.level) then
      { t with pc := t.outPc o.inst, wait := .ready, waitArg := 0, barrier := .no, parked := none }
    else t
  (s.finishLanes o.core o.fg o.lanes o.inst []).report r true (decide (cause / 2 ^ 8 = 9))

/-- An access ends without being performed: lanes that expect a value take the imprecise trap with destination 0, the
others only complete, with a deferred record (R341, R347, R360). A `pf` raises nothing (R181). -/
def State.failOp (s : State) (o : Op) (cause : Nat) : State :=
  let s := s.dropOp o.id
  match o.kind with
  | .prefetch => s.finishLanes o.core o.fg o.lanes o.inst []
  | k =>
    if s.forced o.ctx then s.forcedFault o cause
    else if k.returns then
      ((s.failRecord o cause).finishZero o.core o.fg o.lanes o.inst).impreciseTrap o.core o.fg o.lanes cause o.va
    else (s.failRecord o cause).finishLanes o.core o.fg o.lanes o.inst []

/-- The owner's TDI has left RUN and is not back, which cuts its contexts off from host memory (R366). -/
def State.ownerCut (s : State) (owner : Nat) : Bool := decide (owner ∈ s.service.cut)

/-- The cause with which an access to a byte of host memory ends (R365, R366). -/
def State.hostFault (s : State) (owner key : Nat) : Option Nat :=
  if !isHost key then none
  else if !s.service.linkUp then some 0x0800
  else if s.ownerCut owner then some 0x0802 else none

/-- A byte's stack is lost or offline, or its die is cut off, or no stack of the module holds it: no access to it is
performed (R16, R283, R368; DESIGN CHOICE, log entry 95, for an address beyond the stacks). -/
def State.stackGone (s : State) (key : Nat) : Bool :=
  !isHost key && (decide (hbmBytes ≤ key) || (atD DieState.zero s.dies (homeOf (lineOf key))).lost ||
    (atD DieState.zero s.dies (homeOf (lineOf key))).cut)

/-- A context's event counter lies on a stack that is gone (R283). -/
def State.counterGone (s : State) (ctx i : Nat) : Bool :=
  match s.counterKey ctx i with
  | none => false
  | some k => s.stackGone k

/-- A byte reads as poisoned: its sector is, or its stack is gone (R347, R368). -/
def State.poisonedAt (s : State) (key : Nat) : Bool := s.mem.poisoned key || s.stackGone key

end Sys2Proof.Machine
end

