-- ==== Sys2Proof/Machine/MemOps.lean ====
section
/-! DEFINITION. How a lane's access is performed at the scratchpad bank or the home agent: which earlier accesses hold it
(R70), loads and fetches (R62, R64, R75), stores (R63, R65, R71), atomics (R182, R183) and watches (R186). -/

namespace Sys2Proof.Machine

/-! ### Order within a thread -/

/-- Bytes that an access covers. -/
def OpKind.span : OpKind → Nat
  | .load size _ _ _ => size
  | .loadRo size _ => size
  | .store bytes _ => bytes.length
  | .atomic _ wide _ _ _ => if wide then 8 else 4
  | .watch _ _ _ _ => 4
  | .shapeLoad _ => 64
  | .counter _ _ _ => 8
  | _ => 0

/-- An access writes. -/
def OpKind.isStore : OpKind → Bool
  | .store _ _ => true
  | _ => false

/-- Two accesses name a common byte (R70 case 2). -/
def Op.overlaps (a b : Op) : Bool :=
  decide (a.va < b.va + b.kind.span ∧ b.va < a.va + a.kind.span)

/-- The threads whose accesses an operation counts among: each lane of a lane access, the leader of an engine word's
(R199). -/
def Op.orderLanes (o : Op) : List Nat :=
  match o.kind with
  | .atomic _ _ _ _ _ => o.lanes
  | _ => o.lanes.take 1

/-- An access may change what it names. -/
def OpKind.changes : OpKind → Bool
  | .store _ _ => true
  | .atomic _ _ _ _ _ => true
  | .counter _ (some _) _ => true
  | _ => false

/-- Ranges of n and m bytes meet. -/
def meetAt (a n b m : Nat) : Bool := decide (a < b + m ∧ b < a + n)

/-- The rows of an operand or tile whose first row is at an address meet a range. -/
def rowsMeet (sh : Shape) (base va n : Nat) : Bool :=
  (upFrom 0 (shExt sh 1)).any fun i => meetAt (moveAddr base (i * shStep sh 1)) (shRowBytes sh) va n

/-- A matrix command reads bytes of a range (R222, R225). -/
def MatCmd.readsAt (c : MatCmd) (va n : Nat) : Bool :=
  match c.kind with
  | 1 | 2 => rowsMeet c.a (shBase c.a) va n || rowsMeet c.b (shBase c.b) va n ||
      (decide (shFmt c.a = 0) && (meetAt (shScale c.a) (scaleBytes c.a) va n || meetAt (shScale c.b) (scaleBytes c.b) va n)) ||
      (decide (c.kind = 2) && meetAt (spadWindow + c.goff) 256 va n)
  | 4 => rowsMeet c.a c.addr va n || (decide (shFmt c.a = 0) && meetAt (shScale c.a) 2048 va n)
  | _ => false

/-- A matrix command writes bytes of a range (R225, R227). -/
def MatCmd.writesAt (c : MatCmd) (va n : Nat) : Bool :=
  (decide (c.kind = 5) && (rowsMeet c.a c.addr va n || (decide (shFmt c.a = 0) && meetAt (shScale c.a) 2048 va n))) ||
    (decide (c.kind ∈ [1, 2, 5] ∧ shAddr38 c.a ≠ 0) && meetAt (shAddr38 c.a) 8 va n)

/-- A matrix command's accesses are those of its leader's thread (R199): it stands against an access of that thread to
common bytes, where one of the two writes them (R70 case 2). -/
def MatCmd.against (core : Nat) (c : MatCmd) (o : Op) : Bool :=
  decide (0 < o.kind.span ∧ c.inst ≠ 0 ∧ o.core = core ∧ o.fg = c.fg ∧ leastD 0 c.lanes ∈ o.orderLanes) &&
    (c.writesAt o.va o.kind.span || (o.kind.changes && c.readsAt o.va o.kind.span))

/-- An access is held by an earlier matrix command of its thread (R70, R199). -/
def State.heldByMatrix (s : State) (o : Op) : Bool :=
  s.pads.any fun p => p.mq.any fun c => decide (c.id < o.id) && c.against p.core o

/-- A matrix command is held by earlier accesses of its leader's thread (R70, R199). -/
def State.matrixHeld (s : State) (core : Nat) (c : MatCmd) : Bool :=
  s.mem.ops.any fun o => decide (o.id < c.id) && c.against core o

/-- An access is held by an earlier one to an overlapping address: of the same thread (R70 case 2), or, for stores, of
a lower lane of the same instruction (R175). -/
def State.heldByEarlier (s : State) (o : Op) : Bool :=
  s.mem.ops.any fun e =>
    decide (e.id < o.id ∧ e.core = o.core ∧ e.fg = o.fg) && e.overlaps o &&
    ((e.orderLanes.any fun l => decide (l ∈ o.orderLanes)) ||
      (decide (e.inst = o.inst) && e.kind.isStore && o.kind.isStore))

/-- Every token-setting instruction that a thread issued before an instruction is complete (R70 case 4). -/
def Thread.earlierDone (t : Thread) (inst : Nat) : Bool :=
  t.tokHeld.isEmpty && (t.outs.takeWhile fun o => decide (o.inst ≠ inst)).all (·.ready)

/-- Every store of a thread to this module's or the host's memory is visible (R58, R71). -/
def State.allVisible (s : State) (t : Thread) : Bool :=
  t.own.all fun x => decide (x.2 ≤ s.dieClk (homeOf (lineOf x.1)))

/-- The access waits for earlier stores to be visible too (R71, R73, R82). -/
def OpKind.podWide : OpKind → Bool
  | .store _ (some sc) => decide (6 ≤ sc)
  | .fence sc => decide (6 ≤ sc)
  | .cmSend _ _ _ _ _ rel _ _ _ _ => rel
  | .counter _ (some _) _ => true
  | .guest _ _ _ => true
  | _ => false

/-- The instruction is an engine word: `tcp` and `ring.arm` do not wait for earlier ones (R212). -/
def State.engineInst (s : State) (core fg inst : Nat) : Bool :=
  (s.mem.ops.any fun o => decide (o.core = core ∧ o.fg = fg ∧ o.inst = inst) &&
    (match o.kind with
     | .publish _ _ _ _ _ _ => true
     | .ringPut _ _ _ => true
     | _ => false)) ||
  s.pads.any fun p => decide (p.core = core) &&
    ((p.ring.any fun e => decide (e.fg = fg ∧ e.inst = inst)) || p.mq.any fun c => decide (c.fg = fg ∧ c.inst = inst))

/-- An entry may be published: every earlier access of the leader's thread is complete (R212, R216). -/
def State.mayPublish (s : State) (o : Op) : Bool :=
  o.orderLanes.all fun l =>
    match s.thread? o.core o.fg l with
    | none => true
    | some t => (t.outs.takeWhile fun x => decide (x.inst ≠ o.inst)).all fun x =>
        x.ready || s.engineInst o.core o.fg x.inst

/-- An access that its own rule places after the earlier ones of its threads may be performed (R70 case 4). -/
def State.afterEarlier (s : State) (o : Op) : Bool :=
  !o.afterAll || o.orderLanes.all fun l =>
    match s.thread? o.core o.fg l with
    | none => true
    | some t => t.earlierDone o.inst && (!o.kind.podWide || s.allVisible t)

/-- An access may be performed now. -/
def State.mayPerform (s : State) (o : Op) : Bool := s.afterEarlier o && !s.heldByEarlier o && !s.heldByMatrix o

/-- The thread of a one-lane access. -/
def State.opThread (s : State) (o : Op) : Thread := (s.thread? o.core o.fg (leastD 0 o.lanes)).getD Thread.gone

/-! ### Loads -/

/-- The registers that a load writes (R177). -/
def loadWrites (size dst : Nat) (sx : Bool) (v : Nat) : List (Nat × Word) :=
  if sx then
    if size = 4 then regWrites dst true (twos 64 (signed 32 v)) else regWrites dst false (twos 32 (signed (8 * size) v))
  else regWrites dst (decide (size = 8)) v

/-- No byte's key: where a thread's table of earlier write times holds that of tile copies (R77, R192). -/
def copiesKey : Nat := 2 ^ 64

/-- A thread's own tile copy has completed, its last write with a write time: its later accesses come after it, and so do
those that it is ordered before by a barrier or a release, so W takes in the copy's writes too (R77, R192; DEDUCED, log entry
87). -/
def Thread.noteCopy (t : Thread) (wt : Nat) : Thread :=
  { (t.raiseFloor wt).raiseMark wt with seen := tabSet 0 t.seen copiesKey (max wt (tabGet 0 t.seen copiesKey)) }

/-- The read time of a byte for a thread: a thread's own store is never missed, nor one that a file or pad barrier put
before its accesses (R192), and a store of another thread of the core may be seen from its acknowledgement on (R64). -/
def State.readTime (s : State) (o : Op) (t : Thread) (rt key : Nat) : Nat :=
  let fwd := if Config.pick s.seq % 2 = 0 then 0 else
    greatest 0 ((s.mem.recent.filter fun x => decide (x.1 = o.core ∧ x.2.1 = key)).map (·.2.2))
  max (max rt (max (tabGet 0 t.seen key) (tabGet 0 t.seen copiesKey))) (max (tabGet 0 t.own key) fwd)

/-- n bytes of memory as a thread's load with read time rt returns them. -/
def State.loadBytes (s : State) (o : Op) (rt key n : Nat) : List Byte :=
  (upFrom key n).map fun k => s.mem.byteAt k (s.readTime o (s.opThread o) rt k)

/-- When the launch of an access's task began, in the clk of a line's home (R75, R180). -/
def State.launchStart (s : State) (o : Op) (line : Nat) : Nat :=
  match s.pad? o.core with
  | some p => ((s.launch? p.launch).map fun l => l.started + atD 0 s.skew (homeOf line)).getD 0
  | none => 0

/-- The largest write time of the stores those bytes come from (R72); 0 for a byte not stored since the launch began
(R180). -/
def State.loadWt (s : State) (o : Op) (rt key n : Nat) : Nat :=
  let start := s.launchStart o (lineOf key)
  greatest 0 (((upFrom key n).map fun k => s.mem.wtAt k (s.readTime o (s.opThread o) rt k)).filter fun wt => decide (start ≤ wt))

/-- A load is complete: its value is written, and an acquire at slice scope or wider raises the floor (R72, R180). -/
def State.finishLoad (s : State) (o : Op) (size dst : Nat) (sx : Bool) (acq : Option Nat) (v wt : Nat) : State :=
  let s := s.finishLanes o.core o.fg o.lanes o.inst (loadWrites size dst sx v)
  let s := match acq with
    | some sc => if 3 ≤ sc then s.mapLanes o.core o.fg o.lanes fun _ t => t.raiseFloor wt else s
    | none => s
  s.dropOp o.id

/-- A mark's seal has completed: that of a `seal` here takes its mark out when it completes, and the mark of a PTE record
counts once the record has been applied on every module (R74, R185). -/
def State.markDone (s : State) (k : SealMark) : Bool := decide (k.op = 0 ∧ k.lsn ≤ s.tap.horizon)

/-- The page at an address is sealed, and the seal has completed: its mark is set and does not wait for the rest of its
seal (R74, R185). -/
def State.sealedAt (s : State) (ctx va : Nat) : Bool :=
  match s.walk ctx va with
  | some p => entSeal p.entry && s.mem.marks.all fun k => decide (k.slot ≠ p.slot) || s.markDone k
  | none => false

/-- `ld.ro` reads the byte at an address as sealed: from the completion of the seal on, which another module may have seen
before this one where a PTE record set the mark (R75, R185). -/
def State.roSealed (s : State) (ctx va : Nat) : Bool :=
  match s.walk ctx va with
  | some p => entSeal p.entry && s.mem.marks.all fun k => decide (k.slot ≠ p.slot ∨ k.op = 0)
  | none => false

/-- A byte that `ld.ro` may return: of a sealed page the sealed value; else one of those held between the launch's start
and the load's issue, but none before the thread's own last store to it (R75). -/
def State.roByte (s : State) (o : Op) (key i : Nat) : Byte :=
  let skew := atD 0 s.skew (homeOf (lineOf key))
  let own := tabGet 0 (s.opThread o).own key
  if s.roSealed o.ctx o.va then s.mem.byteAt key (max (s.dieClk (homeOf (lineOf key))) own)
  else
    let vals := s.mem.valuesSince key (max (s.launchStart o (lineOf key)) own) (max (o.issued + skew) own)
    atD 0 vals (Config.pickAt s.seq i % vals.length)

/-- A copy may answer a load of a thread: its lease is after F + 2 and has not run out, or it needs none (R62, R68). -/
def Copy.serves (c : Copy) (floor now : Nat) : Bool :=
  match c.expiry with
  | none => true
  | some e => decide (floor + 2 < e ∧ now ≤ e)

/-- A line is read for a core (R61, R64, R68): l2 = 0 and l1 = 0 is a hit in the core's L1, l2 = 0 alone a hit in its L2
slice, else the home agent is asked; l2 and l1 are the leases asked for. The answer is the read time; none when no copy
serves. -/
def State.readLine (s : State) (o : Op) (key l2 l1 floor : Nat) : Option (State × Nat) :=
  let line := lineOf key
  let now := s.dieClk (homeOf line)
  let slice := sliceOf o.core
  if l2 = 0 ∧ l1 = 0 then
    match s.mem.copy? true o.core line with
    | some c => if c.serves floor now then some (s, c.asOf) else none
    | none => none
  else if l2 = 0 then
    match s.mem.copy? false slice line with
    | some c =>
      if c.serves floor now then
        let e := c.expiry.map fun e => min e (now + min l1 1024)
        some (s.mapMem fun m => m.addCopy s.seq { c with l1 := true, unit := o.core, expiry := e }, c.asOf)
      else none
    | none => none
  else
    let s := s.mapMem fun m => m.commitDue line now
    let rt := max now floor
    let want := max rt (now + min l2 4096)
    let e := match s.mem.pending line with
      | some p => if rt < p.wt then min want (p.wt - 1) else want
      | none => want
    let free := s.sealedAt o.ctx o.va && (s.mem.pending line).isNone
    let m := if free then s.mem else s.mem.grant line slice e
    let m := m.addCopy s.seq { l1 := false, unit := slice, line := line, asOf := rt, expiry := if free then none else some e }
    let m := if l1 = 0 then m
      else m.addCopy s.seq { l1 := true, unit := o.core, line := line, asOf := rt,
                             expiry := if free then none else some (min e (now + min l1 1024)) }
    some ({ s with mem := m }, rt)

/-- A read of scratchpad bytes by a lane: their value and the latest write time; none where a word of them has an
uncorrectable error (R347). -/
def Pad.laneRead (p : Pad) (off n : Nat) : Option (Nat × Nat) :=
  if p.spadBad.any fun w => decide (off / 4 ≤ w ∧ w ≤ (off + n - 1) / 4) then none
  else some (leValue (p.scratchBytes off n), greatest 0 (tabGetMany 0 p.scratchWt off n))

/-- A replica of a sealed line of another module that answers a load of a core, in its L1 or its slice (R68). -/
def State.replicaAt (s : State) (o : Op) (l2 l1 module pa : Nat) : Option Replica :=
  if l2 ≠ 0 ∨ s.sealedAt o.ctx o.va = false then none
  else s.mem.replica? (decide (l1 = 0)) (if l1 = 0 then o.core else sliceOf o.core) (s.ownerOf o.ctx) module (pa / 256)

/-- The number in n bytes of a replica from an address on. -/
def Replica.value (c : Replica) (pa n : Nat) : Nat := leValue ((c.bytes.drop (pa % 256)).take n)

/-- A load is performed (R178-R180). -/
def State.performLoad (s : State) (o : Op) (l2 l1 size dst : Nat) (sx : Bool) (acq : Option Nat) : State :=
  match o.loc with
  | .spad core off =>
    match s.pad? core with
    | none => s
    | some p => match p.laneRead off size with
      | none => s.failOp o 0x0900
      | some (v, wt) => s.finishLoad o size dst sx acq v wt
  | .blank e n => s.finishLoad o size dst sx acq (blankValue e n o.va size) 0
  | .remote m pa =>
    if o.packet.isSome then s
    else if let some c := s.replicaAt o l2 l1 m pa then s.finishLoad o size dst sx acq (c.value pa size) 0
    else if s.maySend (s.ownerOf o.ctx) then
      (s.sendPacket m (s.ownerOf o.ctx) 0 o.id pa [size]).mapOp o.id fun x => { x with packet := some s.nextId }
    else (s.refuseSend m (s.ownerOf o.ctx)).failOp o 0x0710
  | .mem key =>
    match s.hostFault (s.ownerOf o.ctx) key with
    | some c => s.failOp o c
    | none =>
      if s.poisonedAt key then s.failOp o 0x0911
      else match s.readLine o key l2 l1 (s.opThread o).floor with
        | none => s
        | some (s, rt) =>
          s.finishLoad o size dst sx acq (leValue (s.loadBytes o rt key size)) (s.loadWt o rt key size)

/-- A reads-only load is performed (R75, R179). -/
def State.performLoadRo (s : State) (o : Op) (l2 l1 size dst : Nat) : State :=
  match o.loc with
  | .mem key =>
    match s.hostFault (s.ownerOf o.ctx) key with
    | some c => s.failOp o c
    | none =>
      if s.poisonedAt key then s.failOp o 0x0911
      else s.finishLoad o size dst false none
        (leValue (mapFrom (fun i k => s.roByte o k i) 0 (upFrom key size))) 0
  | _ => s.performLoad o l2 l1 size dst false none

/-- A prefetch is performed: the slice takes the line with a lease, or a sealed line of another module without one (R68,
R181). -/
def State.performPrefetch (s : State) (o : Op) (l2 l1 : Nat) : State :=
  match o.loc with
  | .mem key =>
    if (s.hostFault (s.ownerOf o.ctx) key).isSome ∨ s.poisonedAt key then s.failOp o 0
    else match s.readLine o key (max 1 l2) l1 0 with
      | none => s
      | some (s, _) => (s.finishLanes o.core o.fg o.lanes o.inst []).dropOp o.id
  | .remote m pa =>
    if o.packet.isSome then s
    else if s.sealedAt o.ctx o.va && s.maySend (s.ownerOf o.ctx) then
      (s.sendPacket m (s.ownerOf o.ctx) 0 o.id (pa / 256 * 256) [256]).mapOp o.id fun x =>
        { x with packet := some s.nextId }
    else s.failOp o 0
  | _ => s.failOp o 0

/-- A watch reaches the home of its word: it completes at once where the word differs, and is registered else (R186). -/
def State.performWatch (s : State) (o : Op) (c dst scope : Nat) : State :=
  match o.loc with
  | .mem key =>
    match s.hostFault (s.ownerOf o.ctx) key with
    | some e => s.failOp o e
    | none =>
      if s.poisonedAt key then s.failOp o 0x0911
      else
        let now := s.dieClk (homeOf (lineOf key))
        let s := s.mapMem fun m => m.commitDue (lineOf key) now
        if leValue (s.mem.bytesAt key 4 now) = c then
          s.mapOp o.id fun x => { x with kind := .watch c dst scope (some now) }
        else s.completeWatch o
  | .blank e n =>
    let loc := match s.pad? o.core with
      | some p => match (s.resolve p o.va false).2 with
        | .at_ l => l
        | .bad _ => o.loc
      | none => o.loc
    if loc ≠ o.loc then s.mapOp o.id fun x => { x with loc := loc, kind := .watch c dst scope none }
    else if blankValue e n o.va 4 = c then
      s.mapOp o.id fun x => match x.kind with
        | .watch _ _ _ (some _) => x
        | _ => { x with kind := .watch c dst scope (some s.clk) }
    else s.completeWatch o
  | .remote m pa =>
    if o.packet.isSome then s
    else if s.maySend (s.ownerOf o.ctx) then
      (s.sendPacket m (s.ownerOf o.ctx) 6 o.id pa [c]).mapOp o.id fun x => { x with packet := some s.nextId }
    else (s.refuseSend m (s.ownerOf o.ctx)).failOp o 0x0710
  | .spad _ _ => s.failOp o 0x020A

/-! ### Stores -/

/-- A guest die holds a copy of the line (R260). -/
def Mem.guestHeld (m : Mem) (line : Nat) : Bool := m.gdir.any fun d => decide (d.2.1 = line)

/-- A thread notes an acknowledged store: W, and the write times of its own bytes (R64, R65). -/
def Thread.noteStore (t : Thread) (key n wt : Nat) : Thread :=
  { (t.raiseMark wt) with own := tabSetMany 0 t.own key (List.replicate n wt) }

/-- A core notes acknowledged stores that are not current yet (R64). -/
def Mem.noteRecent (m : Mem) (now core key n wt : Nat) : Mem :=
  { m with recent := (m.recent.filter fun x => decide (now < x.2.2)) ++ (upFrom key n).map fun k => (core, k, wt) }

/-- A store has its write time: it is acknowledged, and complete unless it is a release at pod or system scope, which
waits to be visible (R58, R63, R65, R69). -/
def State.ackStore (s : State) (o : Op) (key : Nat) (bytes : List Byte) (rel : Option Nat) (wt : Nat) : State :=
  let now := s.dieClk (homeOf (lineOf key))
  let s := s.mapMem fun m => (m.store now wt key bytes).noteRecent now o.core key bytes.length wt
  let s := s.mapLanes o.core o.fg o.orderLanes fun _ t => t.noteStore key bytes.length wt
  let late := match rel with
    | some sc => decide (6 ≤ sc)
    | none => false
  let s := if late then s.mapOp o.id fun x => { x with kind := .visible wt false, hold := none }
    else (s.finishLanes o.core o.fg o.lanes o.inst []).dropOp o.id
  s.afterUpdate

/-- The write time of a lane's write to scratchpad bytes: the bank's tick, but not before the store's floor or the write
times of what it overwrites, so that write times follow coherence order (R58, R63, R65). -/
def Pad.bankWt (p : Pad) (off n now floor : Nat) : Nat := max (max now floor) (greatest 0 (tabGetMany 0 p.scratchWt off n))

/-- The floor of a store: W when it has release semantics (R65). -/
def State.storeFloor (s : State) (o : Op) (rel : Option Nat) : Nat := if rel.isSome then (s.opThread o).mark else 0

/-- A lane's write of a scratchpad range that takes in NOTIFY publishes: the entries up to the count it leaves are read
with the thread's floor, and where it is a release at slice scope or wider not before the write's own time (R77, R213). -/
def Pad.notePublish (p : Pad) (off n floor : Nat) : Pad :=
  if off < p.ctl + 4 ∧ p.ctl < off + n then { p with published := p.published ++ [(p.notify, floor)] } else p

/-- The largest write time of the stores that the pad group's threads have had acknowledged. -/
def Pad.lastWrite (p : Pad) : Nat := greatest 0 (p.fgs.flatMap fun g => g.threads.map (·.mark))

/-- The read floor that a write to NOTIFY publishes with: where it is a release at slice scope or wider, sources that the
pad group's threads have written are read current (R72, R77). -/
def Pad.publishFloor (p : Pad) (floor wt : Nat) (rel : Option Nat) : Nat :=
  match rel with
  | some sc => if 3 ≤ sc then max (max floor wt) p.lastWrite else floor
  | none => floor

/-- A store reaches its bank or home agent (R58, R63, R65). -/
def State.performStore (s : State) (o : Op) (bytes : List Byte) (rel : Option Nat) : State :=
  match o.loc with
  | .spad core off =>
    match s.pad? core with
    | none => s
    | some p =>
    let wt := p.bankWt off bytes.length (s.coreClk core) (s.storeFloor o rel)
    let floor := p.publishFloor (s.opThread o).floor wt rel
    let s := s.mapPad core fun p => (p.setBytes off bytes wt).notePublish off bytes.length floor
    let s := s.mapLanes o.core o.fg o.orderLanes fun _ t => t.raiseMark wt
    (s.finishLanes o.core o.fg o.lanes o.inst []).dropOp o.id
  | .blank _ _ => s
  | .remote m pa =>
    if o.packet.isSome then s
    else if s.maySend (s.ownerOf o.ctx) then
      (s.sendPacket m (s.ownerOf o.ctx) 1 o.id pa (bytes.map (·.toNat))).mapOp o.id fun x =>
        { x with packet := some s.nextId }
    else (s.refuseSend m (s.ownerOf o.ctx)).failOp o 0x0710
  | .mem key =>
    match s.hostFault (s.ownerOf o.ctx) key with
    | some c => s.failOp o c
    | none =>
      let line := lineOf key
      let now := s.dieClk (homeOf line)
      if s.stackGone key then s.failOp o 0x0911
      else if s.mem.guestHeld line then s.recallGuests line
      else
        let s := s.mapMem fun m => m.commitDue line now
        match s.mem.arrive line now (s.storeFloor o rel) with
        | .hold e => s.mapOp o.id fun x => { x with hold := some e }
        | .behind _ => s.mapOp o.id fun x => { x with hold := none }
        | .at_ wt => s.ackStore o key bytes rel wt

/-! ### Atomics -/

/-- FP32 sum rounded to nearest even (R160). -/
def f32Sum (m x : Nat) : Nat :=
  (toF32 0 0 (FVal.add 0 (f32 (BitVec.ofNat 32 m)) (f32 (BitVec.ofNat 32 x)))).toNat

/-- The atomic functions of R182, on words of a width; the floating ones as R160 and R162 have them. Number 13 is the
matrix engine's update of a status word: the high half is added, the low half ORed (R227). -/
def atomOp (aop width m x y : Nat) : Nat :=
  match aop with
  | 0 => (m + x) % 2 ^ width
  | 1 => if signed width x < signed width m then x else m
  | 2 => if signed width m < signed width x then x else m
  | 3 => min m x
  | 4 => max m x
  | 5 => m &&& x
  | 6 => m ||| x
  | 7 => m ^^^ x
  | 8 => x
  | 9 => if m = x then y else m
  | 10 => f32Sum m x
  | 11 => (fmin32 (BitVec.ofNat 32 m) (BitVec.ofNat 32 x)).toNat
  | 13 => (m / 2 ^ 32 + x / 2 ^ 32) % 2 ^ 32 * 2 ^ 32 + (m % 2 ^ 32 ||| x % 2 ^ 32)
  | _ => (fmax32 (BitVec.ofNat 32 m) (BitVec.ofNat 32 x)).toNat

/-- A request applied to a value lane after lane: the value each lane receives, and the value left (R183). -/
def atomSeq (aop width : Nat) : Nat → List Nat → List Nat → List Nat × Nat
  | m, [], _ => ([], m)
  | m, x :: xs, ys =>
    let (olds, last) := atomSeq aop width (atomOp aop width m x (ys.headD 0)) xs (ys.drop 1)
    (m :: olds, last)

/-- The prefix sums of `fadd` (R183). -/
def faddSums : Nat → List Nat → List Nat
  | acc, [] => [acc]
  | acc, x :: xs => acc :: faddSums (f32Sum acc x) xs

/-- A request applied to a value (R183): `fadd` rounds the value plus each prefix sum. -/
def atomAll (aop width m : Nat) (xs ys : List Nat) : List Nat × Nat :=
  if aop = 10 then
    match xs with
    | [] => ([], m)
    | x :: rest =>
      let sums := faddSums x rest
      (m :: (sums.dropLast.map (f32Sum m)), f32Sum m (sums.getLast?.getD x))
  else atomSeq aop width m xs ys

/-- The lanes of a request receive their old values (R183). -/
def State.giveOlds (s : State) (core fg inst dst : Nat) (wide : Bool) : List Nat → List Nat → State
  | [], _ => s
  | l :: ls, olds =>
    (s.finishLane core fg l inst (if dst = 0 then [] else regWrites dst wide (olds.headD 0))).giveOlds core fg inst dst
      wide ls (olds.drop 1)

/-- An aggregated request is performed at the word's home, with its read time equal to its write time (R64, R182,
R183, R341). -/
def State.performAtomic (s : State) (o : Op) (aop : Nat) (wide : Bool) (xs ys : List Nat) (dst : Nat) : State :=
  let n := if wide then 8 else 4
  match o.loc with
  | .spad core off =>
    match s.pad? core with
    | none => s
    | some p => match p.laneRead off n with
      | none => s.failOp o 0x0900
      | some (m, _) =>
        let wt := p.bankWt off n (s.coreClk core) 0
        let r := atomAll aop (8 * n) m xs ys
        let s := s.mapPad core fun p => (p.setBytes off (leBytes n r.2) wt).notePublish off n (s.opThread o).floor
        let s := s.mapLanes o.core o.fg o.lanes fun _ t => t.raiseMark wt
        (s.giveOlds o.core o.fg o.inst dst wide o.lanes r.1).dropOp o.id
  | .blank _ _ => s
  | .remote mo pa =>
    if o.packet.isSome then s
    else if s.maySend (s.ownerOf o.ctx) then
      (s.sendPacket mo (s.ownerOf o.ctx) 2 o.id pa ([aop, if wide then 1 else 0, xs.length] ++ xs ++ ys)).mapOp o.id
        fun x => { x with packet := some s.nextId }
    else (s.refuseSend mo (s.ownerOf o.ctx)).failOp o 0x0710
  | .mem key =>
    match s.hostFault (s.ownerOf o.ctx) key with
    | some c => s.failOp o c
    | none =>
      let line := lineOf key
      let now := s.dieClk (homeOf line)
      if s.poisonedAt key then s.failOp o 0x0911
      else if s.mem.guestHeld line then s.recallGuests line
      else
        let s := s.mapMem fun m => m.commitDue line now
        match s.mem.arrive line now 0 with
        | .hold e => s.mapOp o.id fun x => { x with hold := some e }
        | .behind _ => s
        | .at_ wt =>
          let r := atomAll aop (8 * n) (leValue (s.mem.latestBytes key n)) xs ys
          let s := s.mapMem fun m => (m.store now wt key (leBytes n r.2)).noteRecent now o.core key n wt
          let s := s.mapLanes o.core o.fg o.lanes fun _ t => t.noteStore key n wt
          ((s.giveOlds o.core o.fg o.inst dst wide o.lanes r.1).dropOp o.id).afterUpdate

/-! ### Answers of other modules -/

/-- A sealed line of another module has come: the slice holds it without a lease, unless its seal has gone since (R68,
R181). -/
def State.keepReplica (s : State) (o : Op) (v : Nat) : State :=
  let s' := match o.loc with
    | .remote m pa =>
      if s.sealedAt o.ctx o.va then
        s.mapMem fun x => x.addReplica s.seq
          { l1 := false, unit := sliceOf o.core, owner := s.ownerOf o.ctx, module := m, line := pa / 256, bytes := leBytes 256 v }
      else s
    | _ => s
  (s'.finishLanes o.core o.fg o.lanes o.inst []).dropOp o.id

/-- The answer of another module's home to a lane access: the value, the old values, or that a write is visible there
(R58, R64). Remote write times are stamped in another module's clk: F and W stay (R65, R72). -/
def State.remoteDone (s : State) (o : Op) (data : List Nat) : State :=
  match o.kind with
  | .load size dst sx _ => s.finishLoad o size dst sx none (data.headD 0) 0
  | .loadRo size dst => s.finishLoad o size dst false none (data.headD 0) 0
  | .watch _ dst _ _ => s.finishLoad o 4 dst false none (data.headD 0) 0
  | .prefetch => s.keepReplica o (data.headD 0)
  | .atomic _ wide _ _ dst => (s.giveOlds o.core o.fg o.inst dst wide o.lanes data).dropOp o.id
  | _ => (s.finishLanes o.core o.fg o.lanes o.inst []).dropOp o.id

end Sys2Proof.Machine
end

