-- ==== Sys2Proof/Machine/Barrier.lean ====
section
/-! DEFINITION. Barriers (R27, R28, R34, R189-R192, R323, R342): who the members are, when an arrival counts, and how a phase
completes. Levels: 0 file, 1 pad, 2 slice, 3 stack, 4 domain. -/

namespace Sys2Proof.Machine

/-! ### Members -/

/-- A place of a thread: core, file group, thread index. -/
abbrev Place := Nat × Nat × Nat

/-- The threads of a file group as places. -/
def Pad.fgPlaces (p : Pad) (fg : Nat) : List Place :=
  match p.fgs[fg]? with
  | none => []
  | some g => g.indices.map fun i => (p.core, fg, i)

/-- The threads of a pad group as places. -/
def Pad.places (p : Pad) : List Place := (upFrom 0 p.fgs.length).flatMap p.fgPlaces

/-- The grid pad groups of a launch that satisfy a condition, by UNITPOS (R190). -/
def State.gridPads (s : State) (launch : Nat) (f : Pad → Bool) : List Pad :=
  let ps := s.pads.filter fun p => decide (p.launch = launch) && p.slot.isNone && f p
  (sortUp (ps.map (·.unitPos))).foldl (fun (acc : List Pad) (u : Nat) =>
    match ps.find? fun p => decide (p.unitPos = u) && acc.all fun q => decide (q.core ≠ p.core) with
    | some p => acc ++ [p]
    | none => acc) []

/-- The threads that a barrier of a level groups, seen from a pad group and file group (R28). -/
def State.groupPlaces (s : State) (p : Pad) (fg level : Nat) : List Place :=
  match level with
  | 0 => p.fgPlaces fg
  | 1 => p.places
  | 2 => (s.gridPads p.launch fun q => decide (q.unit = p.unit ∧ sliceOf q.core = sliceOf p.core)).flatMap Pad.places
  | 3 => (s.gridPads p.launch fun q => decide (q.unit = p.unit)).flatMap Pad.places
  | _ => (s.gridPads p.launch fun _ => true).flatMap Pad.places

/-- The member of a barrier of a level that a place belongs to (R28). -/
def memberOf (level : Nat) (x : Place) : Nat :=
  match level with
  | 0 => x.2.2
  | 1 => x.2.1
  | 2 => x.1
  | 3 => sliceOf x.1
  | _ => dieOf x.1

/-- The thread at a place. -/
def State.at_ (s : State) (x : Place) : Thread := (s.thread? x.1 x.2.1 x.2.2).getD Thread.gone

/-- The threads of a place's member that have not exited. -/
def State.memberPlaces (s : State) (p : Pad) (fg level : Nat) (x : Place) : List Place :=
  (s.groupPlaces p fg level).filter fun y => decide (memberOf level y = memberOf level x) && !(s.at_ y).exited

/-- The members that have not exited (R191). -/
def State.aliveMembers (s : State) (p : Pad) (fg level : Nat) : Nat :=
  ((s.groupPlaces p fg level).filter fun y => !(s.at_ y).exited).foldl
    (fun (acc : List Nat) y => if memberOf level y ∈ acc then acc else memberOf level y :: acc) [] |>.length

/-! ### Barrier words -/

/-- The unit whose barriers of a level a pad group uses. -/
def UnitBars.serves (u : UnitBars) (p : Pad) (level : Nat) : Bool :=
  decide (u.level = level ∧ u.launch = p.launch ∧ (level = 4 ∨ u.unit = p.unit) ∧
    (level ≠ 2 ∨ u.slice = sliceOf p.core))

/-- A barrier word. -/
def State.barWord (s : State) (p : Pad) (fg level bar : Nat) : BarWord :=
  match level with
  | 0 => match s.fg? p.core fg with
    | some g => atD (BarWord.fresh 0) g.bars bar
    | none => BarWord.fresh 0
  | 1 => match s.pad? p.core with
    | some q => atD (BarWord.fresh 0) q.bars bar
    | none => BarWord.fresh 0
  | _ => match s.units.find? fun u => u.serves p level with
    | some u => atD (BarWord.fresh 0) u.words bar
    | none => BarWord.fresh 0

/-- The state with a barrier word changed. -/
def State.mapBar (s : State) (p : Pad) (fg level bar : Nat) (f : BarWord → BarWord) : State :=
  match level with
  | 0 => s.mapFg p.core fg fun g => { g with bars := modifyAt g.bars bar f }
  | 1 => s.mapPad p.core fun q => { q with bars := modifyAt q.bars bar f }
  | _ =>
    let units := s.units.map fun u =>
      if u.serves p level then { u with words := modifyAt u.words bar f } else u
    { s with units := units }

/-- The barriers of a level are spilled to a home buffer (R342). -/
def State.barSpilled (s : State) (p : Pad) (level : Nat) : Bool :=
  s.units.any fun u => u.serves p level && u.spilled

/-! ### Phases -/

/-- The thread has executed an arrival word of this barrier, and its arrival has not been counted (R190). -/
def Thread.arrives (t : Thread) (level bar : Nat) : Bool :=
  match t.barrier with
  | .arriving l b _ _ => decide (l = level ∧ b = bar)
  | _ => false

/-- The thread waits behind its arrival word for the phase to complete. -/
def Thread.waitsAt (t : Thread) (level bar : Nat) : Bool :=
  match t.barrier with
  | .waiting l b => decide (l = level ∧ b = bar)
  | _ => false

/-- Write times by byte key, with those of a second table joined in: the later of the two stands. -/
def laterTimes (a b : Tab Nat) : Tab Nat :=
  b.foldl (fun (a : Tab Nat) x => tabSet 0 a x.1 (max x.2 (tabGet 0 a x.1))) a

/-- A thread released by a phase: back in the PC table, or while a handler holds its level when that is over (R303), and
ordered after the accesses before the arrivals: at slice
scope or wider F is raised to their largest W; in a file group or pad group, which shares one L1, its accesses see
their stores (R191, R192). -/
def Thread.release (t : Thread) (level : Nat) (w : BarWord) (current : Bool) : Thread :=
  let t := { t with seen := laterTimes t.seen w.seen }
  let t := if current then { t with barrier := .no, wait := .ready, waitSub := 0 } else { t with barrier := .released }
  if 2 ≤ level then t.raiseFloor w.maxMark else t

/-- A phase with no arrival left completes (R191). -/
def State.completePhase (s : State) (p : Pad) (fg level bar : Nat) : State :=
  let w := s.barWord p fg level bar
  if w.exp ≠ 0 then s
  else
    let alive := s.aliveMembers p fg level
    let freed := (s.groupPlaces p fg level).filter fun x => (s.at_ x).waitsAt level bar
    let s := s.mapBar p fg level bar fun w => 
      { exp := alive, phase := (w.phase + 1) % 2 ^ 16, maxMark := 0, seen := [] }
    freed.foldl (fun (s : State) (x : Place) => s.mapThread x.1 x.2.1 x.2.2 fun t =>
      t.release level w (decide ((s.fg? x.1 x.2.1).map (·.level) = some t.level))) s

/-- An arrived thread goes on: behind its word, waiting or back in the PC table (R190). -/
def Thread.passWord (t : Thread) (level bar : Nat) : Thread :=
  match t.barrier with
  | .arriving _ _ true _ => { t with pc := t.pc + 4, barrier := .waiting level bar }
  | _ => { t with pc := t.pc + 4, barrier := .no, wait := .ready, waitSub := 0 }

/-- The weight of a member's arrival (R190): what its lowest-ordered thread that executed `bar.arrive.exp` read from uD,
else 1. -/
def State.arrivalWeight (s : State) (members : List Place) : Nat :=
  ((members.findSome? fun x => match (s.at_ x).barrier with
    | .arriving _ _ _ w => w
    | _ => none)).getD 1

/-- The trap of the threads of a file group that stand at one arrival word whose weight is not allowed (R323). -/
def State.weightInfo (s : State) (core fg pc : Nat) : TrapInfo :=
  let word := match s.pad? core, s.fg? core fg with
    | some p, some g => match s.fetchWord p g pc with
      | .word w => w.toNat
      | _ => 0
    | _, _ => 0
  { cause := 0x0511, precise := true, epc := pc, addr := 0, index := 0, length := 1, n := 0, word := word, start := pc }

/-- The sets of threads that take one trap each: of one file group, and at one word (R301, R323). -/
def State.trapSets (s : State) (members : List Place) : List (Nat × Nat × Nat) :=
  members.foldl (fun (acc : List (Nat × Nat × Nat)) x =>
    let k := (x.1, x.2.1, (s.at_ x).pc.toNat)
    if k ∈ acc then acc else acc ++ [k]) []

/-- An arrival of a weight that is not allowed is not counted, and every thread of the member traps at its word (R323).
One delivery has one TEPC (R301): threads of a file group at another word trap when its level is theirs again
(DEDUCED, log entry 17). -/
def State.weightTrap (s : State) (members : List Place) : State :=
  let sets := (s.trapSets members).map fun k =>
    (k, (members.filter fun y => decide ((y.1, y.2.1, (s.at_ y).pc.toNat) = k)).map (·.2.2), s.weightInfo k.1 k.2.1 k.2.2)
  let s := members.foldl (fun (s : State) (x : Place) =>
    s.mapThread x.1 x.2.1 x.2.2 fun t => { t with barrier := .no, wait := .ready, waitSub := 0 }) s
  sets.foldl (fun (s : State) x => s.laterTrap x.1.1 x.1.2.1 x.2.1 x.2.2) s

/-- The arrival of a thread's member is complete (R190): every thread of it that has not exited has executed an arrival
word of the barrier, and what they issued before is complete. No thread of it is held below a handler (R303). -/
def State.arrivalDone (s : State) (members : List Place) (level bar : Nat) : Bool :=
  members.all fun y => (s.at_ y).arrives level bar && (s.at_ y).outs.all (·.ready) && (s.at_ y).tokHeld.isEmpty &&
    decide ((s.fg? y.1 y.2.1).map (·.level) = some (s.at_ y).level)

/-- The write times that a file or pad barrier puts before the accesses behind it: those of the stores of some threads, and
those their own accesses come after (R192). -/
def State.storeTimes (s : State) (level : Nat) (l : List Place) : Tab Nat :=
  if 2 ≤ level then []
  else l.foldl (fun (a : Tab Nat) x => laterTimes (laterTimes a (s.at_ x).own) (s.at_ x).seen) []

/-- The arrival of a thread's member is counted, when it is complete (R190, R191, R323). -/
def State.countArrival (s : State) (core fg thread : Nat) (spilled : Bool) : State :=
  match s.pad? core with
  | none => s
  | some p =>
    match (s.at_ (core, fg, thread)).barrier with
    | .arriving level bar _ _ =>
      let members := s.memberPlaces p fg level (core, fg, thread)
      if (decide (2 ≤ level) && s.barSpilled p level) ≠ spilled then s
      else if !s.arrivalDone members level bar then s
      else
        let w := s.arrivalWeight members
        if w = 0 ∨ (s.barWord p fg level bar).exp < w then s.weightTrap members
        else
          let mark := greatest 0 (members.map fun x => (s.at_ x).mark)
          let seen := s.storeTimes level members
          let s := s.mapBar p fg level bar fun b =>
            { b with exp := b.exp - w, maxMark := max b.maxMark mark, seen := laterTimes b.seen seen }
          let s := members.foldl (fun (s : State) (x : Place) =>
            s.mapThread x.1 x.2.1 x.2.2 fun t => t.passWord level bar) s
          s.completePhase p fg level bar
    | _ => s

/-- A member that has exited counts as one arrival of weight 1 at each barrier of its level (R191), with its threads' largest
W and the write times of their stores (R192). -/
def State.exitArrival (s : State) (p : Pad) (fg level mark : Nat) (seen : Tab Nat) : State :=
  let n := match level with
    | 0 => 8
    | 1 => 16
    | 2 => 8
    | _ => 4
  (upFrom 0 n).foldl (fun (s : State) (bar : Nat) =>
    (s.mapBar p fg level bar fun b =>
      { b with exp := b.exp - 1, maxMark := max b.maxMark mark, seen := laterTimes b.seen seen }).completePhase p fg
      level bar) s

/-- The largest W of a member that has exited (R192): of its threads still there, and at the levels whose members are more
than one pad group, of which some may have been freed, of what has exited of the launch. -/
def State.exitMark (s : State) (p : Pad) (level : Nat) (gone : List Place) : Nat :=
  let freed := if level < 3 then 0 else ((s.launch? p.launch).map (·.mark)).getD 0
  greatest freed (gone.map fun x => (s.at_ x).mark)

/-- A thread exited: every member that has thereby exited arrives at its barriers (R191, R192, R237). -/
def State.exitArrivals (s : State) (p : Pad) (fg thread : Nat) : State :=
  (upFrom 0 (if p.slot.isSome then 2 else 2 + p.grain * (p.grain + 1) / 2)).foldl (fun (s : State) (level : Nat) =>
    let x := (p.core, fg, thread)
    let gone := (s.groupPlaces p fg level).filter fun y => decide (memberOf level y = memberOf level x)
    if (s.memberPlaces p fg level x).isEmpty then
      s.exitArrival p fg level (s.exitMark p level gone) (s.storeTimes level gone)
    else s) s

/-- Lanes execute an arrival word: they read the weight they name, and wait at the word until their member's arrival
counts (R175, R190). -/
def State.barWordLanes (s : State) (r : Run) (lanes : List Nat) (level bar : Nat) (waits : Bool) (weight : List Nat) :
    State :=
  let x := s.collect r weight lanes
  x.2.foldl (fun (s : State) (y : Nat × List Word) => s.mapThread r.core r.fg y.1 fun t =>
    { t with pc := r.pc, wait := .barrier, waitSub := bar,
             barrier := .arriving level bar waits (y.2.head?.map (·.toNat)) }) x.1

end Sys2Proof.Machine
end

