-- ==== Sys2Proof/Machine/BarSync.lean ====
section
/-! DEFINITION. Barrier words, major 0x3D KIND 0-2 (R189, R190), and the two rows by which arrivals are counted. -/

namespace Sys2Proof.Machine

/-- R189, R190: arrives and does not wait for the phase. -/
def execBarArrive (g : BitVec 4) (l : BitVec 3) (b : BitVec 4) (s : State) : Result :=
  .next (s.runWord (.barArrive g l b) fun s r lanes => s.barWordLanes r lanes l.toNat b.toNat false [])

/-- R189, R190: arrives and waits for the phase. -/
def execBarWait (g : BitVec 4) (l : BitVec 3) (b : BitVec 4) (s : State) : Result :=
  .next (s.runWord (.barWait g l b) fun s r lanes => s.barWordLanes r lanes l.toNat b.toNat true [])

/-- R189, R190: arrives with the weight in D. -/
def execBarArriveExp (g : BitVec 4) (d : BitVec 6) (l : BitVec 3) (b : BitVec 4) (s : State) : Result :=
  .next (s.runWord (.barArriveExp g d l b) fun s r lanes =>
    s.barWordLanes r lanes l.toNat b.toNat false [d.toNat])

/-- R190: the arrival of the thread's member counts, at a barrier cell. -/
def execBarrierArrival (core : Nat) (fg : Nat) (thread : Nat) (s : State) : Result :=
  .next (s.countArrival core fg thread false)

/-- R342: the arrival of the thread's member counts, at a spilled barrier. -/
def execBarrierSpillArrival (core : Nat) (fg : Nat) (thread : Nat) (s : State) : Result :=
  .next (s.countArrival core fg thread true)

end Sys2Proof.Machine
end

