-- ==== Sys2Proof/Machine/CmOps.lean ====
section
/-! DEFINITION. Control-memory operations of threads (R81, R82, R89, R193-R198): entering the broadcast queue, reading the
replica, waiting for a word or an LSN, and completing when a record is applied or returns. -/

namespace Sys2Proof.Machine

/-! ### Records -/

/-- A record header (R91). -/
def headerWord (rtype owner srcmod : Nat) (rel : Bool) (size ctx aux : Nat) : BitVec 64 :=
  BitVec.ofNat 64 (rtype % 256 * 2 ^ 56 + owner % 4096 * 2 ^ 44 + srcmod % 64 * 2 ^ 38 + (if rel then 2 ^ 37 else 0) +
    size % 4 * 2 ^ 32 + ctx % 2 ^ 16 * 2 ^ 16 + aux % 2 ^ 16)

/-- An LSN above every record's: a SEAL mark of a loop that has started again (R87, R88). -/
def neverLsn : Nat := 2 ^ 64

/-- TYPE of a header. -/
def hdrType (h : BitVec 64) : Nat := h.toNat / 2 ^ 56
/-- OWNER. -/
def hdrOwner (h : BitVec 64) : Nat := h.toNat / 2 ^ 44 % 4096
/-- SRCMOD. -/
def hdrSrc (h : BitVec 64) : Nat := h.toNat / 2 ^ 38 % 64
/-- SIZE. -/
def hdrSize (h : BitVec 64) : Nat := h.toNat / 2 ^ 32 % 4
/-- CTX. -/
def hdrCtx (h : BitVec 64) : Nat := h.toNat / 2 ^ 16 % 2 ^ 16
/-- AUX. -/
def hdrAux (h : BitVec 64) : Nat := h.toNat % 2 ^ 16

/-- Bytes 8-15 of a record of a TYPE that the device makes of an operand: reserved bits are 0 (R5, R93). -/
def payload0 (rtype : Nat) (p : BitVec 64) : BitVec 64 :=
  if rtype ≤ 3 then p % 2 ^ 22
  else if rtype = 4 then p % 2 ^ 57
  else if rtype = 5 then BitVec.ofNat 64 (p.toNat % 2 ^ 57 / 2 ^ 16 * 2 ^ 16 + p.toNat % 4)
  else p

/-- Bytes 16-23: DATA and ADDEND of SIZE 0 have no upper half, and ENTRY no reserved bits (R5, R93, R270). -/
def payload1 (rtype size : Nat) (p : BitVec 64) : BitVec 64 :=
  if (rtype = 1 ∨ rtype = 2) ∧ size = 0 then p % 2 ^ 32
  else if rtype = 5 then BitVec.ofNat 64 (entClean p.toNat)
  else p

/-- A record enters the broadcast queue (R89). -/
def State.enqueueRecord (s : State) (hdr p0 p1 : BitVec 64) (origin ref : Nat) : State :=
  { s with tap := { s.tap with
      queue := s.tap.queue ++ [{ hdr := hdr, p0 := p0, p1 := p1, origin := origin, ref := ref, num := s.tap.nextNum }]
      nextNum := s.tap.nextNum + 1 } }

/-- A record of the front end enters the broadcast queue, or waits outside it behind those that wait already (R89). -/
def State.enqueueFront (s : State) (hdr p0 p1 : BitVec 64) : State :=
  if s.tap.outside.isEmpty && s.queueRoom 1 then s.enqueueRecord hdr p0 p1 1 0
  else { s with tap := { s.tap with
      outside := s.tap.outside ++ [{ hdr := hdr, p0 := p0, p1 := p1, origin := 1, ref := 0, num := 0 }] } }

/-- Records that wait outside enter the queue as far as there is room (R89). -/
def State.admitOutside (s : State) : State :=
  let n := 1024 - s.tap.queue.length
  let now := s.tap.outside.take n
  let s := now.foldl (fun (s : State) (r : Rec) => s.enqueueRecord r.hdr r.p0 r.p1 r.origin r.ref) s
  { s with tap := { s.tap with outside := s.tap.outside.drop now.length } }

/-! ### Broadcasts of threads -/

/-- Bytes of control memory that an operation names: offset and width. -/
def OpKind.cmBytes : OpKind → Option (Nat × Nat)
  | .cmLoad off size _ => some (off, size)
  | .cmWait off size _ _ => some (off, size)
  | .cmSend rtype p0 _ size _ _ _ _ _ _ =>
    if rtype ≤ 3 then some (p0.toNat, if rtype = 3 then 8 else 4 * 2 ^ size) else none
  | _ => none

/-- Two control-memory operations name a common byte (R70 case 2). -/
def Op.cmOverlaps (a b : Op) : Bool :=
  match a.kind.cmBytes, b.kind.cmBytes with
  | some x, some y => decide (x.1 < y.1 + y.2 ∧ y.1 < x.1 + x.2)
  | _, _ => false

/-- An earlier broadcast of the same thread to overlapping bytes that satisfies a condition (R81, R89). -/
def State.earlierBroadcast (s : State) (o : Op) (f : Bool → Bool) : Bool :=
  s.mem.ops.any fun e =>
    decide (e.id < o.id ∧ e.core = o.core ∧ e.fg = o.fg) && (e.lanes.any fun l => decide (l ∈ o.lanes)) &&
    e.cmOverlaps o &&
    (match e.kind with
     | .cmSend _ _ _ _ _ _ _ _ queued _ => f queued
     | _ => false)

/-- An earlier read of the same thread of overlapping bytes that has not been performed (R70 case 2). -/
def State.earlierCmRead (s : State) (o : Op) : Bool :=
  s.mem.ops.any fun e =>
    decide (e.id < o.id ∧ e.core = o.core ∧ e.fg = o.fg) && (e.lanes.any fun l => decide (l ∈ o.lanes)) &&
    e.cmOverlaps o &&
    (match e.kind with
     | .cmLoad _ _ _ => true
     | .cmWait _ _ _ _ => true
     | _ => false)

/-- A broadcast may enter the queue: a release after all of its thread that came before (R82), and after earlier
broadcasts (R89) and reads (R70) of the thread that name the same bytes. -/
def State.mayBroadcast (s : State) (o : Op) : Bool :=
  s.afterEarlier o && !s.earlierBroadcast o (fun queued => !queued) && !s.earlierCmRead o

/-- A broadcast of a lane enters the queue. -/
def State.broadcast (s : State) (o : Op) : State :=
  match o.kind with
  | .cmSend rtype p0 p1 size aux rel sys dst false lsn =>
    let hdr := headerWord rtype (s.ownerOf o.ctx) s.tap.position rel size o.ctx aux
    (s.enqueueRecord hdr (payload0 rtype p0) (payload1 rtype size p1) 0 o.id).mapOp o.id fun x =>
      { x with kind := .cmSend rtype p0 p1 size aux rel sys dst true lsn }
  | _ => s

/-- The broadcasts of an instruction that are still outside the queue. -/
def State.unqueued (s : State) (core fg inst : Nat) : List Op :=
  s.mem.ops.filter fun o => decide (o.core = core ∧ o.fg = fg ∧ o.inst = inst) &&
    (match o.kind with
     | .cmSend _ _ _ _ _ _ _ _ queued _ => !queued
     | _ => false)

/-- The records of an instruction's lanes enter the broadcast queue together, in lane order, when all of them may and
there is room (R89, R193). -/
def State.broadcastAll (s : State) (core fg inst : Nat) : State :=
  let os := s.unqueued core fg inst
  if s.queueRoom os.length && os.all s.mayBroadcast then os.foldl (fun s o => s.broadcast o) s else s

/-! ### Reading and waiting -/

/-- Lanes of a `cm.ld`, `cm.wait` or `fence.seq` raise F to the die's clk as it completes (R194). -/
def State.raiseClk (s : State) (core fg : Nat) (lanes : List Nat) : State :=
  s.mapLanes core fg lanes fun _ t => t.raiseFloor (s.coreClk core)

/-- The value at a place of the context's partition; all ones where the partition no longer holds the bytes, its entry
having changed since the word issued: R96 says so of records alone (DESIGN CHOICE, log entry 84). -/
def State.cmValue (s : State) (ctx off w : Nat) : Nat :=
  match s.cmPlace (s.ownerOf ctx) off w with
  | some a => s.cmRead a w
  | none => 2 ^ (8 * w) - 1

/-- `cm.ld` reads the replica once the thread's earlier broadcasts to the bytes are applied (R81, R194). -/
def State.performCmLoad (s : State) (o : Op) (off size dst : Nat) : State :=
  if s.earlierBroadcast o fun _ => true then s
  else
    let v := s.cmValue o.ctx off size
    ((s.finishLanes o.core o.fg o.lanes o.inst (regWrites dst (decide (size = 8)) v)).raiseClk o.core o.fg
      o.lanes).dropOp o.id

/-- `cm.wait` ends for its lane: the value is written and the thread is back in the PC table (R196). -/
def State.endCmWait (s : State) (o : Op) (size dst v : Nat) : State :=
  let s := s.finishLanes o.core o.fg o.lanes o.inst (regWrites dst (decide (size = 8)) v)
  let s := s.raiseClk o.core o.fg o.lanes
  (s.mapLanes o.core o.fg o.lanes fun _ t =>
    if t.wait = .cmWait then { t with wait := .ready, waitArg := 0 } else t).dropOp o.id

/-- `cm.wait` tests its word (R81, R196). -/
def State.performCmWait (s : State) (o : Op) (off size dst c : Nat) : State :=
  if s.earlierBroadcast o fun _ => true then s
  else
    let v := s.cmValue o.ctx off size
    if v = c then s else s.endCmWait o size dst v

/-- Every `cm.wait` tests its word after an apply (R196). -/
def State.scanCmWaits (s : State) : State :=
  s.mem.ops.foldl (fun (s : State) (o : Op) =>
    match o.kind with
    | .cmWait off size dst c => s.performCmWait o off size dst c
    | _ => s) s

/-- A record that this module's thread sent has been applied or passed over here: the instruction completes for the
lane with its fetch (R69, R97, R195, R351). -/
def State.recordDone (s : State) (ref fetch : Nat) : State :=
  match s.op? ref with
  | none => s
  | some o => match o.kind with
    | .cmSend rtype _ _ size _ _ _ dst _ _ =>
      let ws := if rtype = 2 then regWrites dst (decide (size = 1)) fetch
        else if rtype = 3 then regWrites dst true fetch else []
      (s.finishLanes o.core o.fg o.lanes o.inst ws).dropOp o.id
    | _ => s

/-- A thread's record has returned with its LSN (R90, R197). -/
def State.recordBack (s : State) (ref lsn : Nat) : State :=
  let s := s.mapThreads fun t => if t.lastSent = some ref then { t with lastLsn := some lsn } else t
  s.mem.ops.foldl (fun (s : State) (o : Op) =>
    match o.kind with
    | .cmLsn dst r =>
      if r = ref then (s.finishLanes o.core o.fg o.lanes o.inst (regWrites dst true lsn)).dropOp o.id else s
    | _ => s) s

/-! ### LSN fences -/

/-- The LSN that a `fence.seq` waits for is reached (R102, R198). -/
def State.lsnReached (s : State) (all : Bool) (n : Nat) : Bool :=
  decide (n ≤ if all then s.tap.horizon else s.tap.applied)

/-- The `fence.seq` operations of an instruction. -/
def State.seqOps (s : State) (core fg inst : Nat) : List (Op × Bool × Nat) :=
  s.mem.ops.filterMap fun o =>
    if o.core = core ∧ o.fg = fg ∧ o.inst = inst then
      match o.kind with
      | .fenceSeq all n => some (o, all, n)
      | _ => none
    else none

/-- A `fence.seq` completes when every lane's LSN is reached, and then raises F (R194, R198). -/
def State.performFenceSeq (s : State) (core fg inst : Nat) : State :=
  let os := s.seqOps core fg inst
  if os.all fun x => s.lsnReached x.2.1 x.2.2 then
    os.foldl (fun (s : State) (x : Op × Bool × Nat) =>
      ((s.finishLanes core fg x.1.lanes inst []).raiseClk core fg x.1.lanes).dropOp x.1.id) s
  else s

end Sys2Proof.Machine
end

