-- ==== Sys2Proof/Machine/MemInstr.lean ====
section
/-! DEFINITION. Lane loads and stores, acquire and release, prefetch, atomics, fences, seals and watches, majors 0x24-0x2B
(R175-R186). A word places its accesses, one for each lane or each aggregated request; they are performed later, by the
rows STORE_ARRIVAL, LINE_FETCH, ATOMIC_REQUEST and TOKEN_CLEAR. -/

namespace Sys2Proof.Machine

/-! ### Shared operations -/

/-- An access that a word of a run places. -/
def newOp (r : Run) (ctx : Nat) (lanes : List Nat) (va : Nat) (loc : Loc) (kind : OpKind) (afterAll : Bool) : Op :=
  { id := 0, inst := r.inst, core := r.core, fg := r.fg, lanes := lanes, ctx := ctx, va := va, loc := loc, kind := kind,
    afterAll := afterAll, hold := none, packet := none, atsSince := none, fresh := false,
    issued := 0, met := none }

/-- Lanes whose page found no storage, because lanes before them took the last of the view pool, park at the word as
one eft (R236, R332): what the word had set for them is taken back. Lanes that another lane's walk shows a newer entry
stand at the word again, and meet its fault when they issue. -/
def State.turnBack (s : State) (r : Run) (lanes : List Nat) (cause va : Nat) (write : Bool) : State :=
  let s := s.mapLanes r.core r.fg lanes fun _ t =>
    { t with pc := r.pc, outs := t.outs.filter fun o => decide (o.inst ≠ r.inst) }
  if eftCause cause then
    s.formEft r.core r.fg lanes (r.lanes.filter fun l => decide (l ∉ lanes)) r.pc cause va write
      (groupInfo r.index r.words.length r.start.toNat)
  else s

/-- A lane's access is translated and placed (R175, R236). -/
def State.laneAccess (s : State) (r : Run) (lane va : Nat) (write afterAll : Bool) (kind : OpKind) : State :=
  match s.pad? r.core with
  | none => s
  | some p =>
    match s.resolve p va write with
    | (s', .at_ loc) => s'.addOp (newOp r p.ctx [lane] va loc kind afterAll)
    | (s', .bad c) => s'.turnBack r [lane] c va write

/-- A word whose lanes each make one access to the address in its first two operands (R175). -/
def State.accessWord (s : State) (i : Instr) (write afterAll : Bool) (kind : List Word → OpKind) : State :=
  s.runWord i fun s r lanes => lanes.foldl (fun (s : State) (l : Nat) =>
    let x := s.operands r l i.reads
    x.1.laneAccess r l (addrOf x.2) write afterAll (kind (x.2.drop 2))) s

/-- The bytes that a store of 2^z bytes takes from its data words. -/
def storeBytes (z : Nat) (vs : List Word) : List Byte := leBytes (2 ^ z) (pairOf vs 0).toNat

/-- A lane's `pf` (R181): a lane whose address is in the scratchpad window, names an unsealed line of another module or
fails translation is complete at once. -/
def State.prefetchLane (s : State) (r : Run) (lane va : Nat) : State :=
  match s.pad? r.core with
  | none => s
  | some p =>
    match s.resolve p va false with
    | (s', .at_ (.mem k)) =>
      if va < spadWindow then s'.addOp (newOp r p.ctx [lane] va (.mem k) .prefetch false)
      else s'.finishLane r.core r.fg lane r.inst []
    | (s', .at_ (.remote m pa)) =>
      if s.sealedAt p.ctx va then s'.addOp (newOp r p.ctx [lane] va (.remote m pa) .prefetch false)
      else s'.finishLane r.core r.fg lane r.inst []
    | (s', _) => s'.finishLane r.core r.fg lane r.inst []

/-- A request that the aggregator forms: issue group, address, lanes and operands (R183). -/
structure AtomReq where
  group : Nat
  va : Nat
  lanes : List Nat
  xs : List Nat
  ys : List Nat
  deriving DecidableEq, Repr

/-- A lane joins the request of its issue group for its address, or opens one (R183). -/
def AtomReq.join : List AtomReq → AtomReq → List AtomReq
  | [], q => [q]
  | a :: rest, q =>
    if a.group = q.group ∧ a.va = q.va then
      { a with lanes := a.lanes ++ q.lanes, xs := a.xs ++ q.xs, ys := a.ys ++ q.ys } :: rest
    else a :: AtomReq.join rest q

/-- A request is translated and placed (R183). -/
def State.placeAtom (s : State) (r : Run) (aop : Nat) (wide : Bool) (dst : Nat) (q : AtomReq) : State :=
  match s.pad? r.core with
  | none => s
  | some p =>
    match s.resolve p q.va true with
    | (s', .at_ loc) => s'.addOp (newOp r p.ctx q.lanes q.va loc (.atomic aop wide q.xs q.ys dst) false)
    | (s', .bad c) => s'.turnBack r q.lanes c q.va true

/-- The operands of an atomic: x, and for `cas` the swap value (R182). -/
def atomOperands (aop : Nat) (wide : Bool) (vs : List Word) : Nat × Nat :=
  if wide then ((pairOf vs 0).toNat, (pairOf vs 2).toNat)
  else ((nth vs 0).toNat, if aop = 9 then (nth vs 1).toNat else 0)

/-- An `atom` word (R182, R183). -/
def State.atomWord (s : State) (i : Instr) (aop : Nat) (wide : Bool) (dst : Nat) : State :=
  s.runWord i fun s r lanes =>
    let x := lanes.foldl (fun (x : State × List AtomReq) (l : Nat) =>
      let y := x.1.operands r l i.reads
      let ops := atomOperands aop wide (y.2.drop 2)
      (y.1, AtomReq.join x.2
        { group := (r.whole.takeWhile fun k => decide (k ≠ l)).length / 32, va := addrOf y.2, lanes := [l],
          xs := [ops.1], ys := [ops.2] })) (s, [])
    x.2.foldl (fun s q => s.placeAtom r aop wide dst q) x.1

/-- An operation of each lane that names no address (R184, R196-R198). -/
def State.laneOp (s : State) (r : Run) (lane : Nat) (kind : OpKind) (afterAll : Bool) : State :=
  match s.pad? r.core with
  | none => s
  | some p => s.addOp (newOp r p.ctx [lane] 0 (.blank 0 1) kind afterAll)

/-- A `seal` or `unseal` word: one operation, of the first executing lane's operands (R185). -/
def State.sealWord (s : State) (i : Instr) (set : Bool) (scope : Nat) : State :=
  s.runWord i fun s r lanes =>
    let x := lanes.foldl (fun (x : State × List (List Word)) (l : Nat) =>
      let y := x.1.operands r l i.reads
      (y.1, x.2 ++ [y.2])) (s, [])
    match x.1.pad? r.core with
    | none => x.1
    | some p =>
      let vs := x.2.headD []
      x.1.addOp (newOp r p.ctx lanes (addrOf vs) (.blank 0 1)
        (.seal set (addrOf vs) (nth vs 2).toNat scope 0 0) false)

/-! ### Meanings -/

/-- R177, R178. -/
def execLd (c : Bool) (g : BitVec 4) (d : BitVec 6) (a : BitVec 6) (z : BitVec 2) (t : BitVec 3) (l : BitVec 4)
    (s : State) : Result :=
  .next (s.accessWord (.ld c g d a z t l) false false fun _ => .load (2 ^ z.toNat) d.toNat false none)

/-- R177, R178: sign-extended; `lds.b32` to a pair. -/
def execLds (c : Bool) (g : BitVec 4) (d : BitVec 6) (a : BitVec 6) (z : BitVec 2) (t : BitVec 3) (l : BitVec 4)
    (s : State) : Result :=
  .next (s.accessWord (.lds c g d a z t l) false false fun _ => .load (2 ^ z.toNat) d.toNat true none)

/-- R177, R178. -/
def execSt (c : Bool) (g : BitVec 4) (d : BitVec 6) (a : BitVec 6) (z : BitVec 2) (t : BitVec 3) (l : BitVec 4)
    (s : State) : Result :=
  .next (s.accessWord (.st c g d a z t l) true false fun vs => .store (storeBytes z.toNat vs) none)

/-- R177, R179. -/
def execLdRo (c : Bool) (g : BitVec 4) (d : BitVec 6) (a : BitVec 6) (z : BitVec 2) (t : BitVec 3) (l : BitVec 4)
    (s : State) : Result :=
  .next (s.accessWord (.ldRo c g d a z t l) false false fun _ => .loadRo (2 ^ z.toNat) d.toNat)

/-- R180. -/
def execLdAcq (c : Bool) (g : BitVec 4) (d : BitVec 6) (a : BitVec 6) (sf : BitVec 3) (z : BitVec 2) (t : BitVec 3)
    (s : State) : Result :=
  .next (s.accessWord (.ldAcq c g d a sf z t) false false fun _ =>
    .load (2 ^ z.toNat) d.toNat false (some sf.toNat))

/-- R180: performed after every earlier access of the thread, with floor W. -/
def execStRel (c : Bool) (g : BitVec 4) (d : BitVec 6) (a : BitVec 6) (sf : BitVec 3) (z : BitVec 2) (t : BitVec 3)
    (s : State) : Result :=
  .next (s.accessWord (.stRel c g d a sf z t) true true fun vs => .store (storeBytes z.toNat vs) (some sf.toNat))

/-- R181. -/
def execPf (c : Bool) (g : BitVec 4) (a : BitVec 6) (t : BitVec 3) (l : BitVec 4) (s : State) : Result :=
  .next (s.runWord (.pf c g a t l) fun s r lanes => lanes.foldl (fun (s : State) (k : Nat) =>
    let x := s.operands r k [a.toNat, pairHi a.toNat]
    x.1.prefetchLane r k (addrOf x.2)) s)

/-- R182, R183: `add`. -/
def execAtomAdd (c : Bool) (g : BitVec 4) (d : BitVec 6) (a : BitVec 6) (w : BitVec 1) (t : BitVec 3)
    (s : State) : Result :=
  .next (s.atomWord (.atomAdd c g d a w t) 0 (decide (w.toNat = 1)) d.toNat)

/-- R182, R183: `mins`. -/
def execAtomMins (c : Bool) (g : BitVec 4) (d : BitVec 6) (a : BitVec 6) (w : BitVec 1) (t : BitVec 3)
    (s : State) : Result :=
  .next (s.atomWord (.atomMins c g d a w t) 1 (decide (w.toNat = 1)) d.toNat)

/-- R182, R183: `maxs`. -/
def execAtomMaxs (c : Bool) (g : BitVec 4) (d : BitVec 6) (a : BitVec 6) (w : BitVec 1) (t : BitVec 3)
    (s : State) : Result :=
  .next (s.atomWord (.atomMaxs c g d a w t) 2 (decide (w.toNat = 1)) d.toNat)

/-- R182, R183: `minu`. -/
def execAtomMinu (c : Bool) (g : BitVec 4) (d : BitVec 6) (a : BitVec 6) (w : BitVec 1) (t : BitVec 3)
    (s : State) : Result :=
  .next (s.atomWord (.atomMinu c g d a w t) 3 (decide (w.toNat = 1)) d.toNat)

/-- R182, R183: `maxu`. -/
def execAtomMaxu (c : Bool) (g : BitVec 4) (d : BitVec 6) (a : BitVec 6) (w : BitVec 1) (t : BitVec 3)
    (s : State) : Result :=
  .next (s.atomWord (.atomMaxu c g d a w t) 4 (decide (w.toNat = 1)) d.toNat)

/-- R182, R183: `and`. -/
def execAtomAnd (c : Bool) (g : BitVec 4) (d : BitVec 6) (a : BitVec 6) (w : BitVec 1) (t : BitVec 3)
    (s : State) : Result :=
  .next (s.atomWord (.atomAnd c g d a w t) 5 (decide (w.toNat = 1)) d.toNat)

/-- R182, R183: `or`. -/
def execAtomOr (c : Bool) (g : BitVec 4) (d : BitVec 6) (a : BitVec 6) (w : BitVec 1) (t : BitVec 3)
    (s : State) : Result :=
  .next (s.atomWord (.atomOr c g d a w t) 6 (decide (w.toNat = 1)) d.toNat)

/-- R182, R183: `xor`. -/
def execAtomXor (c : Bool) (g : BitVec 4) (d : BitVec 6) (a : BitVec 6) (w : BitVec 1) (t : BitVec 3)
    (s : State) : Result :=
  .next (s.atomWord (.atomXor c g d a w t) 7 (decide (w.toNat = 1)) d.toNat)

/-- R182, R183: `xchg`. -/
def execAtomXchg (c : Bool) (g : BitVec 4) (d : BitVec 6) (a : BitVec 6) (w : BitVec 1) (t : BitVec 3)
    (s : State) : Result :=
  .next (s.atomWord (.atomXchg c g d a w t) 8 (decide (w.toNat = 1)) d.toNat)

/-- R182, R183: `cas`. -/
def execAtomCas (c : Bool) (g : BitVec 4) (d : BitVec 6) (a : BitVec 6) (w : BitVec 1) (t : BitVec 3)
    (s : State) : Result :=
  .next (s.atomWord (.atomCas c g d a w t) 9 (decide (w.toNat = 1)) d.toNat)

/-- R182, R183: `fadd`. -/
def execAtomFadd (c : Bool) (g : BitVec 4) (d : BitVec 6) (a : BitVec 6) (t : BitVec 3) (s : State) : Result :=
  .next (s.atomWord (.atomFadd c g d a t) 10 false d.toNat)

/-- R182, R183: `fmin`. -/
def execAtomFmin (c : Bool) (g : BitVec 4) (d : BitVec 6) (a : BitVec 6) (t : BitVec 3) (s : State) : Result :=
  .next (s.atomWord (.atomFmin c g d a t) 11 false d.toNat)

/-- R182, R183: `fmax`. -/
def execAtomFmax (c : Bool) (g : BitVec 4) (d : BitVec 6) (a : BitVec 6) (t : BitVec 3) (s : State) : Result :=
  .next (s.atomWord (.atomFmax c g d a t) 12 false d.toNat)

/-- R73, R184. -/
def execFence (c : Bool) (g : BitVec 4) (sf : BitVec 3) (t : BitVec 3) (s : State) : Result :=
  .next (s.runWord (.fence c g sf t) fun s r lanes =>
    lanes.foldl (fun (s : State) (l : Nat) => s.laneOp r l (.fence sf.toNat) true) s)

/-- R74, R185. -/
def execSeal (c : Bool) (g : BitVec 4) (d : BitVec 6) (a : BitVec 6) (sf : BitVec 3) (t : BitVec 3)
    (s : State) : Result :=
  .next (s.sealWord (.seal c g d a sf t) true sf.toNat)

/-- R74, R185. -/
def execUnseal (c : Bool) (g : BitVec 4) (d : BitVec 6) (a : BitVec 6) (sf : BitVec 3) (t : BitVec 3)
    (s : State) : Result :=
  .next (s.sealWord (.unseal c g d a sf t) false sf.toNat)

/-- R186. -/
def execWatch (c : Bool) (g : BitVec 4) (d : BitVec 6) (a : BitVec 6) (sf : BitVec 3) (t : BitVec 3)
    (s : State) : Result :=
  .next (s.accessWord (.watch c g d a sf t) false false fun vs => .watch (nth vs 0).toNat d.toNat sf.toNat none)

end Sys2Proof.Machine
end

