-- ==== Sys2Proof/Machine/CmInstr.lean ====
section
/-! DEFINITION. Control-memory words and LSN fences, majors 0x3A and 0x3B (R193-R198). A word places one operation for each
lane; the rows TOKEN_CLEAR, the record rows and RECORD_RETURN complete it. -/

namespace Sys2Proof.Machine

/-! ### Shared operations -/

/-- The lanes read their operands and each places an operation that `kind` gives (R193). -/
def State.cmWord (s : State) (i : Instr) (afterAll : Bool) (kind : State → Nat → List Word → OpKind) : State :=
  s.runWord i fun s r lanes =>
    lanes.foldl (fun (s : State) (l : Nat) =>
      let x := s.operands r l i.reads
      x.1.laneOp r l (kind x.1 l x.2) afterAll) s

/-- A broadcasting word: its lanes' records enter the queue at once where they may (R89, R193), and each thread notes
its last broadcast (R197). -/
def State.sendWord (s : State) (i : Instr) (rel : Bool) (kind : List Word → OpKind) : State :=
  s.runWord i fun s r lanes =>
    let s := lanes.foldl (fun (s : State) (l : Nat) =>
      let x := s.operands r l i.reads
      let ref := x.1.nextId
      (x.1.laneOp r l (kind x.2) rel).mapThread r.core r.fg l fun t =>
        { t with lastSent := some ref, lastLsn := none }) s
    s.broadcastAll r.core r.fg r.inst

/-- A width field: 4 or 8 bytes. -/
def cmWidth (z : BitVec 1) : Nat := 4 * 2 ^ z.toNat

/-- A value of 4 or 8 bytes from operand word n on. -/
def cmData (z : BitVec 1) (vs : List Word) (n : Nat) : BitVec 64 :=
  if z.toNat = 1 then pairOf vs n else (nth vs n).setWidth 64

/-- The operation of `cm.lsn` for a thread (R197); done at once where its last record has returned or it has sent
none. -/
def State.lsnLane (s : State) (r : Run) (dst lane : Nat) : State :=
  let t := (s.thread? r.core r.fg lane).getD Thread.gone
  match t.lastSent with
  | none => s.finishLane r.core r.fg lane r.inst (regWrites dst true 0)
  | some ref => match t.lastLsn with
    | some n => s.finishLane r.core r.fg lane r.inst (regWrites dst true n)
    | none => s.laneOp r lane (.cmLsn dst ref) false

/-! ### Meanings -/

/-- R193, R194. -/
def execCmLd (c : Bool) (g : BitVec 4) (d : BitVec 6) (a : BitVec 6) (z : BitVec 1) (t : BitVec 3)
    (s : State) : Result :=
  .next (s.cmWord (.cmLd c g d a z t) false fun _ _ vs => .cmLoad (nth vs 0).toNat (cmWidth z) d.toNat)

/-- R193, R195: a STORE record. -/
def execCmSt (c : Bool) (g : BitVec 4) (d : BitVec 6) (a : BitVec 6) (z : BitVec 1) (r : BitVec 1) (t : BitVec 3) (y : BitVec 1)
    (s : State) : Result :=
  .next (s.sendWord (.cmSt c g d a z r t y) (decide (r.toNat = 1)) fun vs =>
    .cmSend 1 (BitVec.ofNat 64 (nth vs 0).toNat) (cmData z vs 1) z.toNat 0 (decide (r.toNat = 1)) (decide (y.toNat = 1))
      d.toNat false 0)

/-- R193, R195: an ADD record. -/
def execCmAdd (c : Bool) (g : BitVec 4) (d : BitVec 6) (a : BitVec 6) (z : BitVec 1) (r : BitVec 1) (t : BitVec 3) (y : BitVec 1)
    (s : State) : Result :=
  .next (s.sendWord (.cmAdd c g d a z r t y) (decide (r.toNat = 1)) fun vs =>
    .cmSend 2 (BitVec.ofNat 64 (nth vs 0).toNat) (cmData z vs 1) z.toNat 0 (decide (r.toNat = 1)) (decide (y.toNat = 1))
      d.toNat false 0)

/-- R193, R195: a CLAIM record. -/
def execCmClaim (c : Bool) (g : BitVec 4) (d : BitVec 6) (a : BitVec 6) (r : BitVec 1) (t : BitVec 3) (y : BitVec 1)
    (s : State) : Result :=
  .next (s.sendWord (.cmClaim c g d a r t y) (decide (r.toNat = 1)) fun vs =>
    .cmSend 3 (BitVec.ofNat 64 (nth vs 0).toNat) 0 0 0 (decide (r.toNat = 1)) (decide (y.toNat = 1))
      d.toNat false 0)

/-- R193, R196: the thread leaves the PC table. -/
def execCmWait (c : Bool) (g : BitVec 4) (d : BitVec 6) (a : BitVec 6) (z : BitVec 1) (t : BitVec 3)
    (s : State) : Result :=
  .next (s.runWord (.cmWait c g d a z t) fun s r lanes =>
    lanes.foldl (fun (s : State) (l : Nat) =>
      let x := s.operands r l (Instr.cmWait c g d a z t).reads
      let off := nth x.2 0
      (x.1.laneOp r l (.cmWait off.toNat (cmWidth z) d.toNat (cmData z x.2 1).toNat) false).mapThread r.core r.fg l
        fun t => { t with wait := .cmWait, waitArg := off }) s)

/-- R193, R197. -/
def execCmLsn (c : Bool) (g : BitVec 4) (d : BitVec 6) (t : BitVec 3) (s : State) : Result :=
  .next (s.runWord (.cmLsn c g d t) fun s r lanes =>
    lanes.foldl (fun (s : State) (l : Nat) => s.lsnLane r d.toNat l) s)

/-- R193: a LAUNCH record with MASK D:D+1 and AUX D+2. -/
def execCmLaunch (c : Bool) (g : BitVec 4) (d : BitVec 6) (a : BitVec 6) (r : BitVec 1) (t : BitVec 3) (y : BitVec 1)
    (s : State) : Result :=
  .next (s.sendWord (.cmLaunch c g d a r t y) (decide (r.toNat = 1)) fun vs =>
    .cmSend 4 (pairOf vs 0) (pairOf vs 2) 0 ((nth vs 4).toNat % 2 ^ 16) (decide (r.toNat = 1)) (decide (y.toNat = 1))
      0 false 0)

/-- R193: a PTE record. -/
def execCmPte (c : Bool) (g : BitVec 4) (d : BitVec 6) (a : BitVec 6) (r : BitVec 1) (t : BitVec 3) (y : BitVec 1)
    (s : State) : Result :=
  .next (s.sendWord (.cmPte c g d a r t y) (decide (r.toNat = 1)) fun vs =>
    .cmSend 5 (pairOf vs 0) (pairOf vs 2) 0 0 (decide (r.toNat = 1)) (decide (y.toNat = 1)) 0 false 0)

/-- R198: waits for the applied LSN. -/
def execFenceSeq (c : Bool) (g : BitVec 4) (a : BitVec 6) (t : BitVec 3) (s : State) : Result :=
  .next (s.cmWord (.fenceSeq c g a t) false fun _ _ vs => .fenceSeq false (addrOf vs))

/-- R198: waits for the applied horizon. -/
def execFenceSeqAll (c : Bool) (g : BitVec 4) (a : BitVec 6) (t : BitVec 3) (s : State) : Result :=
  .next (s.cmWord (.fenceSeqAll c g a t) false fun _ _ vs => .fenceSeq true (addrOf vs))

end Sys2Proof.Machine
end

