-- ==== Sys2Proof/Machine/ControlOps.lean ====
section
/-! DEFINITION. Predicates, branches, rejoining and the k file, majors 0x36-0x39 (R169-R173), and the words that hold a
thread for tokens or time, `wait` and `sleep.until` (R187, R188, R338). -/

namespace Sys2Proof.Machine

/-! ### Shared operations -/

/-- A word on two predicates and a predicate destination (R169). -/
def State.predWord (s : State) (i : Instr) (d a b : BitVec 3) (f : Bool → Bool → Bool) : State :=
  s.laneWord i fun _ t _ => writePred d.toNat (f (t.pred a.toNat) (t.pred b.toNat))

/-- The value of `pget` (R169). -/
def predBits (t : Thread) : Word := BitVec.ofNat 32 (t.preds.toNat + 128)

/-- Lanes go on at an address (R127). -/
def State.goTo (s : State) (r : Run) (lane pc : Nat) : State :=
  s.mapThread r.core r.fg lane fun t => { t with pc := BitVec.ofNat 57 pc }

/-- The return address of a transfer in a packet: the next packet (R170). -/
def returnPc (pc : Nat) : BitVec 64 := BitVec.ofNat 64 (packetOf pc + 12)

/-- A direct transfer of the executing lanes (R170). -/
def State.branch (s : State) (r : Run) (lanes : List Nat) (disp : Int) : State :=
  s.mapLanes r.core r.fg lanes fun _ t => { t with pc := BitVec.ofNat 57 (packetRel r.pc.toNat disp 57) }

/-- The address pair of a lane of a transfer (R171), read as before the group. -/
def State.jumpTarget (s : State) (r : Run) (a : BitVec 6) (lane : Nat) : Nat :=
  ((s.sourceThread r lane).pair a.toNat).toNat % 2 ^ 57

/-- A thread still holds back a `reconv` above it: it is in the PC table at the same level with a lower PC (R172, R303). -/
def holdsBack (t : Thread) (level a : Nat) : Bool :=
  !t.exited && t.parked.isNone && decide (t.level = level) && decide (t.pc.toNat < a) &&
  (match t.wait with
   | .ready => true
   | .exiting _ _ => true
   | .saving _ => true
   | .cache _ _ => true
   | .binding _ _ => true
   | _ => false)

/-- Every eft lane of a split has reached the `reconv` at a since the split, or has exited (R51), or has left the handler
level of the split (R303). Of a split made at a
restore, only a lane that is still an eft below a is waited for (DESIGN CHOICE, log entry 58). -/
def FileGroup.eftArrived (g : FileGroup) (a : BitVec 57) (sp : Split) : Bool :=
  sp.efts.all fun l => (g.thread l).exited || decide ((l, a) ∈ sp.reached) || decide ((g.thread l).level < sp.level) ||
    (sp.restored && !decide ((g.thread l).wait = .eft ∧ (g.thread l).pc.toNat < a.toNat))

/-- Lanes have come to the `reconv` at a (R51). -/
def FileGroup.reach (g : FileGroup) (lanes : List Nat) (a : BitVec 57) : FileGroup :=
  { g with splits := g.splits.map fun sp =>
      { sp with reached := sp.reached ++ ((lanes.filter fun l => decide (l ∈ sp.efts)).map fun l => (l, a)) } }

/-- A thread waiting at the `reconv` at a may go on (R51, R172): while a handler runs, only one of its level, which waits
for the efts of its level (R303). -/
def FileGroup.mayRejoin (g : FileGroup) (l : Nat) : Bool :=
  let t := g.thread l
  decide (t.wait = .reconv) && decide (t.level = g.level) && g.threads.all (fun u => !holdsBack u t.level t.pc.toNat) &&
  g.splits.all fun sp => !decide (l ∈ sp.lanes) || decide (t.level ≠ sp.level) || g.eftArrived t.pc sp

/-- Threads that may leave their `reconv` re-enter the PC table behind it (R172); a split they waited for is over for
them. -/
def FileGroup.rejoin (g : FileGroup) : FileGroup :=
  let free := g.indices.filter g.mayRejoin
  let g' := g.mapLanes free fun _ t => { t with wait := .ready, pc := t.pc + 4 }
  let left := g'.splits.map fun sp =>
    { sp with lanes := sp.lanes.filter fun l => decide (l ∉ free ∨ (g.thread l).level ≠ sp.level) }
  { g' with splits := left.filter fun sp => !sp.lanes.isEmpty }

/-- The delivery of a late promise to the lanes of a `wait` (R338): they trap at the word, and the entry's revisions
count as delivered. -/
def State.lateTrap (s : State) (r : Run) (late : List (Nat × Entry)) : State :=
  match late, s.pad? r.core with
  | (_, e) :: _, some p =>
    let told := fun (d : Tab Nat) => late.foldl (fun d x => tabSet 0 d x.2.count x.2.revisions) d
    let s := s.mapFg r.core r.fg fun g => { g with delivered := told g.delivered }
    let lanes := late.map (·.1)
    let s := s.mapLanes r.core r.fg lanes fun _ t => { t with pc := r.pc }
    s.trapEntry r.core r.fg lanes
      { cause := 0x0310, precise := true, epc := r.pc.toNat, addr := spadWindow + p.slotOff e.count, index := 0,
        length := 1, n := 0, word := (atD 0 r.words 0).toNat, start := r.pc.toNat }
  | _, _ => s

/-- `wait` for its lanes: those with a late promise trap, those whose tokens are clear go on, the others stay (R187,
R338). -/
def State.waitLanes (s : State) (r : Run) (lanes : List Nat) (mask : Nat) : State :=
  match s.pad? r.core, s.fg? r.core r.fg with
  | some p, some g =>
    let late := lanes.filterMap fun l => (p.lateFor g l mask).map fun e => (l, e)
    let stay := lanes.filter fun l => !((setBits mask 8).all fun k => (g.thread l).clear k)
    (s.mapLanes r.core r.fg stay fun _ t => { t with pc := r.pc }).lateTrap r late
  | _, _ => s

/-- `sleep.until` for a lane (R188). -/
def sleepLane (clk : Nat) (v : Word) (t : Thread) : Thread :=
  if reached clk v.toNat then t else { t with wait := .sleep, waitArg := v }

/-! ### Meanings -/

/-- R169. -/
def execPand (c : Bool) (g : BitVec 4) (d : BitVec 3) (a : BitVec 3) (b : BitVec 3) (s : State) : Result :=
  .next (s.predWord (.pand c g d a b) d a b fun x y => x && y)

/-- R169. -/
def execPor (c : Bool) (g : BitVec 4) (d : BitVec 3) (a : BitVec 3) (b : BitVec 3) (s : State) : Result :=
  .next (s.predWord (.por c g d a b) d a b fun x y => x || y)

/-- R169. -/
def execPxor (c : Bool) (g : BitVec 4) (d : BitVec 3) (a : BitVec 3) (b : BitVec 3) (s : State) : Result :=
  .next (s.predWord (.pxor c g d a b) d a b fun x y => x != y)

/-- R169. -/
def execPandn (c : Bool) (g : BitVec 4) (d : BitVec 3) (a : BitVec 3) (b : BitVec 3) (s : State) : Result :=
  .next (s.predWord (.pandn c g d a b) d a b fun x y => x && !y)

/-- R169: p[D] := (A ≠ 0). -/
def execPnez (c : Bool) (g : BitVec 4) (d : BitVec 3) (a : BitVec 6) (s : State) : Result :=
  .next (s.laneWord (.pnez c g d a) fun _ _ vs => writePred d.toNat (decide (nth vs 0 ≠ 0)))

/-- R169: p0-p7 as bits 7-0. -/
def execPget (c : Bool) (g : BitVec 4) (d : BitVec 6) (s : State) : Result :=
  .next (s.laneWord (.pget c g d) fun _ t _ => writeOne d.toNat (predBits t))

/-- R169: p0-p6 := A [6:0]. -/
def execPset (c : Bool) (g : BitVec 4) (a : BitVec 6) (s : State) : Result :=
  .next (s.laneWord (.pset c g a) fun _ _ vs =>
    { regs := [], preds := (upFrom 0 7).map fun k => (k, (nth vs 0).getLsbD k), rng := none })

/-- R170. -/
def execBr (g : BitVec 4) (i : BitVec 21) (s : State) : Result :=
  .next (s.runWord (.br g i) fun s r lanes => s.branch r lanes i.toInt)

/-- R170: the return packet goes to g54:g55. -/
def execCall (g : BitVec 4) (i : BitVec 21) (s : State) : Result :=
  .next (s.runWord (.call g i) fun s r lanes =>
    (s.eachLane r lanes [] fun _ _ _ => writePair 54 (returnPc r.pc.toNat)).branch r lanes i.toInt)

/-- R171: lanes whose target is ill-formed take cause 0x0208 instead. -/
def execJmp (g : BitVec 4) (a : BitVec 6) (s : State) : Result :=
  .next (s.runWord (.jmp g a) fun s r lanes =>
    lanes.foldl (fun x l => x.goTo r l (s.jumpTarget r a l)) s)

/-- R171: A is read before g54 is written. -/
def execJmpl (g : BitVec 4) (a : BitVec 6) (s : State) : Result :=
  .next (s.runWord (.jmpl g a) fun s r lanes =>
    lanes.foldl (fun x l => (x.applyWrite r.core r.fg l (writePair 54 (returnPc r.pc.toNat))).goTo r l
      (s.jumpTarget r a l)) s)

/-- R172: the lanes wait at the word, and go on at once when nothing holds them back. -/
def execReconv (g : BitVec 4) (s : State) : Result :=
  .next (s.runWord (.reconv g) fun s r lanes =>
    (s.mapLanes r.core r.fg lanes fun _ t => { t with wait := .reconv, pc := r.pc }).mapFg r.core r.fg fun g =>
      (g.reach lanes r.pc).rejoin)

/-- R173: D := k[A]. -/
def execKget (c : Bool) (g : BitVec 4) (d : BitVec 6) (a : BitVec 6) (s : State) : Result :=
  .next (s.runWord (.kget c g d a) fun s r lanes =>
    match s.fg? r.core r.fg with
    | none => s
    | some fg => s.eachLane r lanes [] fun _ _ _ => writeOne d.toNat ((r.source fg).kreg a.toNat))

/-- R173: k[D] := A of the highest lane. -/
def execKset (c : Bool) (g : BitVec 4) (d : BitVec 6) (a : BitVec 6) (s : State) : Result :=
  .next (s.runWord (.kset c g d a) fun s r lanes =>
    let (s, vs) := lanes.foldl (fun (x : State × List Word) l =>
      x.1.operands r l [a.toNat]) (s, [])
    s.mapFg r.core r.fg fun fg => fg.setK d.toNat (nth vs 0))

/-- R187, R338. -/
def execWait (g : BitVec 4) (m : BitVec 8) (s : State) : Result :=
  .next (s.runWord (.wait g m) fun s r lanes => s.waitLanes r lanes m.toNat)

/-- R188: a lane whose time is not reached leaves the PC table. -/
def execSleepUntil (g : BitVec 4) (a : BitVec 6) (s : State) : Result :=
  .next (s.runWord (.sleepUntil g a) fun s r lanes =>
    lanes.foldl (fun s l =>
      let (s', vs) := s.operands r l [a.toNat]
      s'.mapThread r.core r.fg l (sleepLane (s.coreClk r.core) (nth vs 0))) s)

end Sys2Proof.Machine
end

