-- ==== Sys2Proof/Machine/RingOps.lean ====
section
/-! DEFINITION. The copy ring and the trigger table (R76, R77, R206-R216, R230, R335-R337): publishing, taking, moving a
tile, failing, stalling and retiring. -/

namespace Sys2Proof.Machine

/-! ### Entries -/

/-- An entry by name, in a ring or a trigger table. -/
def State.entry? (s : State) (id : Nat) : Option Entry :=
  match (s.pads.flatMap (·.ring)).find? fun e => decide (e.id = id) with
  | some e => some e
  | none => s.triggers.find? fun e => decide (e.id = id)

/-- The state with an entry changed. -/
def State.mapRing (s : State) (id : Nat) (f : Entry → Entry) : State :=
  let g := fun (e : Entry) => if e.id = id then f e else e
  { s with pads := s.pads.map fun p => { p with ring := p.ring.map g }
           triggers := s.triggers.map g }

/-- STATUS of an entry whose access ended with a cause (R335, R360). -/
def remoteStatus (cause : Nat) : Nat := if cause = 0x0207 then 11 else if cause = 0x0911 then 10 else 9

/-- STATUS of an entry's slot written (R208). -/
def State.setStatus (s : State) (e : Entry) (status : Nat) : State :=
  s.mapPad e.core fun p => p.setBytes (p.slotOff e.count) [BitVec.ofNat 8 (status * 16 + e.op)] (s.coreClk e.core)

/-- The pad group that published an entry, while it is resident (R215). -/
def State.entryPad (s : State) (e : Entry) : Option Pad :=
  s.pads.find? fun p => decide (p.core = e.core ∧ p.uid = e.pad)

/-- Where an engine's address lives (R213, R215): through the pad group's views while it is resident. -/
def State.engineRes (s : State) (e : Entry) (va : Nat) (write : Bool) : State × Res :=
  if 2 ^ 57 ≤ va then (s, .bad 0x0204)
  else
    let r := match s.entryPad e with
      | some p => s.resolve p va write
      | none =>
        if spadWindow ≤ va then (s, .bad 0x020A)
        else
          let t := s.translate e.core e.ctx va write
          (t.1, t.1.transRes va t.2)
    match r.2 with
    | .at_ (.mem k) => if isHost k && !s.service.linkUp then (r.1, .bad 0x0803) else r
    | _ => r

/-- The record of an entry (R335, R337): its ring count is INFO. -/
def State.entryRecord (s : State) (e : Entry) (cause kind : Nat) (stall : Bool) (va : Nat) (sys : Bool) : State :=
  let detail := whereWord s.tap.position e.core e.fg
  s.report (if stall then stalledRec cause kind e.ctx (s.ownerOf e.ctx) va e.count detail
    else plainRec cause kind e.ctx (s.ownerOf e.ctx) va e.count detail) true (sys || decide (cause / 2 ^ 8 = 9))

/-- An entry fails with a status (R335, R336); bytes already written stay. -/
def State.failEntry (s : State) (id status cause va : Nat) : State :=
  match s.entry? id with
  | none => s
  | some e => (s.mapRing id fun e => { e with fail := status, stalled := none }).entryRecord e cause 1 false va false

/-- An engine's operation waits for an ATS answer, from its first request on (R367). -/
def State.awaitAts (s : State) (id core fg ctx va : Nat) : State :=
  if s.mem.ops.any fun o => decide (o.inst = id ∧ o.kind = .ats) then s
  else s.addOp { id := 0, inst := id, core := core, fg := fg, lanes := [], ctx := ctx, va := va, loc := .blank 0 1,
                 kind := .ats, afterAll := false, hold := none, packet := none, atsSince := some s.clk, fresh := false,
                 issued := s.clk, met := none }

/-- An engine's operation waits for no ATS answer any more. -/
def State.gotAts (s : State) (id : Nat) : State :=
  s.mapMem fun m => { m with ops := m.ops.filter fun o => decide (o.inst ≠ id ∨ o.kind ≠ .ats) }

/-- An entry stalls (R335, R336, R339): no record where it only meets again the cause on the page that its last record
named (R330). -/
def State.stallEntry (s : State) (id cause va : Nat) : State :=
  match s.entry? id with
  | none => s
  | some e =>
    if e.finished ∨ e.fail ≠ 0 then s else
    let s := s.mapRing id fun e => { e with stalled := some cause, stallVa := va, parkedOn := cause }
    if e.parkedOn = cause ∧ e.stallVa / 65536 = va / 65536 then s else s.entryRecord e cause 4 true va true

/-- An address that an engine met is not usable: stalled for a page that is not there, waiting for an ATS answer, else failed
with STATUS 9, or 8 beyond the scratchpad (R230, R335, R367). -/
def State.badAddress (s : State) (id cause va : Nat) : State :=
  if cause = 0x0803 then match s.entry? id with
    | some e => s.awaitAts id e.core e.fg e.ctx va
    | none => s
  else if eftCause cause then s.stallEntry id cause va
  else s.failEntry id (if cause = 0x0205 then 8 else 9) cause va

/-! ### Publishing -/

/-- An entry written into its slot by the device (R212, R216), and NOTIFY. -/
def Pad.publish (p : Pad) (op h arg va thresh : Nat) (arm : Bool) (now : Nat) : Pad :=
  let n := p.notify
  let off := p.slotOff n
  let p :=
    if arm then
      let flags := leValue (p.scratchBytes (off + 2) 2)
      let st := (tabGet 0 p.scratch off).toNat % 16
      ((p.setBytes off [BitVec.ofNat 8 st] now).setBytes (off + 2) (leBytes 2 (flags ||| 2)) now).setWord
        (off + 0x18) thresh now
    else
      p.setBytes off ([BitVec.ofNat 8 op, BitVec.ofNat 8 h] ++ leBytes 2 (if arg = 0 then 0 else 1) ++ leBytes 4 0 ++
        leBytes 8 va ++ leBytes 8 arg ++ leBytes 8 0) now
  p.setWord p.ctl ((n + 1) % 2 ^ 32) now

/-- The first waiting entry of a core is published when its leader's earlier accesses are complete and the ring has
room (R207, R212). -/
def State.publishNext (s : State) (core : Nat) : State :=
  match s.unpublished core, s.pad? core with
  | o :: _, some p =>
    match o.kind with
    | .publish op h arg thresh arm dst =>
      if s.mayPublish o && decide (countDiff p.notify p.done < 64) then
        let now := s.coreClk core
        let s := s.mapPad core fun p => p.publish op h arg o.va thresh arm now
        s.mapOp o.id fun x => { x with kind := .ringPut p.notify dst (s.opThread o).floor }
      else s
    | _ => s
  | _, _ => s

/-- Entries of a core are published in issue order as far as they may be. -/
def State.publishDue (s : State) (core : Nat) : State :=
  (s.unpublished core).foldl (fun s _ => s.publishNext core) s

/-- The waiting instruction of a ring count. -/
def State.ringOp (s : State) (core count : Nat) : Option Op :=
  s.mem.ops.find? fun o => decide (o.core = core) &&
    (match o.kind with
     | .ringPut n _ _ => decide (n = count)
     | _ => false)

/-! ### Taking -/

/-- The read floor that a store to NOTIFY published entry n with (R77, R213). -/
def Pad.publishedFloor (p : Pad) (n : Nat) : Nat :=
  match p.published.find? fun x => decide (0 < countDiff x.1 n ∧ countDiff x.1 n < 2 ^ 31) with
  | some x => x.2
  | none => 0

/-- An entry as the engine reads it from its slot (R208). -/
def State.readEntry (s : State) (p : Pad) (n : Nat) : Entry :=
  let off := p.slotOff n
  let flags := leValue (p.scratchBytes (off + 2) 2)
  let op := (tabGet 0 p.scratch off).toNat % 16
  let h := (tabGet 0 p.scratch (off + 1)).toNat % 16
  let arg := p.word (off + 0x10)
  let at_ := s.ringOp p.core n
  let dreg := match at_ with
    | some o => match o.kind with
      | .ringPut _ d _ => d
      | _ => 0
    | none => 0
  let floor := match at_ with
    | some o => match o.kind with
      | .ringPut _ _ f => f
      | _ => 0
    | none => p.publishedFloor n
  { id := s.nextId, core := p.core, pad := p.uid, ctx := p.ctx, launch := p.launch, count := n, op := op,
    cnt := flags.testBit 2, follow := flags.testBit 0, dst := leValue (p.scratchBytes (off + 8) 8), arg := arg,
    thresh := p.word (off + 0x18), tctr := leValue (p.scratchBytes (off + 0x1C) 2) % 8192,
    cctr := leValue (p.scratchBytes (off + 0x1E) 2) % 8192, shape := p.shape h, followA := p.shape (cmdA arg),
    followB := p.shape (cmdB arg), floor := floor, promise := 0, revisions := 0, rows := 0, started := false,
    finished := false, marks := [], followId := 0, counted := false, fail := 0, stalled := none, stallVa := 0,
    retryAt := 0, retryGap := 0, firstTry := 0, parkedOn := 0, fired := false, armedDie := none, slot := 0, maxWt := 0,
    inst := match at_ with
      | some o => o.inst
      | none => 0
    fg := match at_ with
      | some o => o.fg
      | none => 0
    lanes := match at_ with
      | some o => o.lanes
      | none => []
    dreg := dreg }

/-- A destination row of a tile lies in a sealed page (R230). -/
def State.destSealed (s : State) (ctx : Nat) (sh : Shape) (da : Nat) : Bool :=
  (upFrom 0 (shRows sh)).any fun n =>
    let a := shDstRow sh da n
    (upFrom (a / 65536) ((a % 65536 + shRowBytes sh + 65535) / 65536)).any fun g =>
      decide (65536 * g < spadWindow) &&
      match s.walk ctx (65536 * g) with
      | some p => entW p.entry && entSeal p.entry
      | none => false

/-- The lowest cause that a COPY, RED or POST entry meets by itself (R208, R217, R230, R326). -/
def State.entryFault (s : State) (e : Entry) : Option Nat :=
  match e.op with
  | 1 => firstCause [(0x0202, decide (e.dst < 2 ^ 57) && s.destSealed e.ctx e.shape e.dst), (0x0204, decide (2 ^ 57 ≤ e.dst)),
      (0x0301, !shValid e.shape || !copyOk e.shape e.dst)]
  | 2 => firstCause [(0x0204, decide (2 ^ 57 ≤ e.dst)), (0x0302, !(contributionOk e.shape e.dst && shValid e.shape))]
  | 3 => firstCause [(0x0204, decide (2 ^ 57 ≤ e.dst)),
      (0x0302, !(postOk e.shape e.dst && shValid e.shape && s.windowInPage e.ctx e.shape e.dst))]
  | 4 => none
  | 5 => none
  | _ => some 0x0307

/-- The acceptance test of a taken entry (R208, R215, R230, R326). -/
def State.acceptFault (s : State) (p : Pad) (e : Entry) (armed : Bool) : Option Nat :=
  if armed && e.follow then some 0x0304
  else match s.entryFault e with
    | some c => some c
    | none => if decide (e.op = 1) && e.follow then followFault p e.arg else none

/-- The STATUS that an entry fails with at its acceptance test (R335). -/
def acceptStatus (cause : Nat) : Nat := if cause / 2 ^ 8 = 2 then 9 else 8

/-- The packets in a context's guest queues of a socket (R208, R229). -/
def State.guestMarks (s : State) (ctx sock : Nat) (but : Option Nat) : List Nat :=
  ((atD Socket.zero s.sockets sock).queues.filter fun q =>
    decide (some q.1 ≠ but) && decide ((q.2.bound.map (·.1)) = some ctx)).flatMap fun q =>
      (q.2.fifo ++ q.2.pulled).map fun i => match i with
        | .packet id _ _ => id
        | .join id _ _ _ => id

/-- What a join waits for has gone (R76, R229). -/
def State.joinMet (s : State) (marks : List Nat) : Bool :=
  marks.all fun m =>
    (s.pads.all fun p => (p.mq.all fun c => decide (c.id ≠ m)) && p.ring.all fun e => decide (e.id ≠ m)) &&
    s.sockets.all fun so => so.queues.all fun q => (q.2.fifo ++ q.2.pulled).all fun i => match i with
      | .packet id _ _ => decide (id ≠ m)
      | .join id _ _ _ => decide (id ≠ m)

/-- What a QFENCE ring entry joins (R229). -/
def State.entryMarks (s : State) (p : Pad) (e : Entry) : List Nat :=
  if e.op ≠ 4 then []
  else (if e.arg.testBit 0 then p.mq.map (·.id) else []) ++
    (if e.arg.testBit 1 then s.guestMarks e.ctx 0 none else []) ++
    (if e.arg.testBit 2 then s.guestMarks e.ctx 1 none else [])

/-- A free slot of a die's trigger table, within the context's share (R215, R336). -/
def State.freeSlot (s : State) (die ctx : Nat) : Option Nat :=
  let here := s.triggers.filter fun e => decide (e.armedDie = some die)
  if 256 ≤ (here.filter fun e => decide (e.ctx = ctx)).length then none
  else (upFrom 0 512).find? fun n => here.all fun e => decide (e.slot ≠ n)

/-- The engine may take an entry of this pad group (R52, R210, R229). -/
def State.mayTake (s : State) (p : Pad) : Bool :=
  decide (p.notify ≠ p.head ∧ countDiff p.notify p.head ≤ 64) &&
  (match s.preempt? p.ctx with
   | some q => decide (q.step < 2)
   | none => !p.stopped) &&
  p.ring.all fun e => decide (e.op ≠ 4) || e.finished || decide (e.fail ≠ 0)

/-- HEAD moves over a taken entry. -/
def Pad.takeHead (p : Pad) (n now : Nat) : Pad :=
  let left := p.published.filter fun x => decide (0 < countDiff x.1 (n + 1) ∧ countDiff x.1 (n + 1) < 2 ^ 31)
  { (p.setWord (p.ctl + 4) ((n + 1) % 2 ^ 32) now) with published := left }

/-- An entry runs: STATUS 1, the promise in its slot and in D (R210-R212). -/
def State.runEntry (s : State) (e : Entry) (promise : Nat) : State :=
  let now := s.coreClk e.core
  let s := s.mapPad e.core fun p =>
    ((p.setWord (p.slotOff e.count + 4) (promise % 2 ^ 32) now).takeHead e.count now)
  let s := (s.mapPad e.core fun p => 
    { p with ring := p.ring ++ [{ e with promise := promise }], promised := max p.promised promise }).setStatus e 1
  s.mapLanes e.core e.fg e.lanes fun _ t =>
    if e.inst = 0 then t else t.fill e.inst [(e.dreg, BitVec.ofNat 32 promise)]

/-- An armed entry moves to the trigger table, and the ring keeps its place until DONE passes it (R210, R215, R216). -/
def State.armEntry (s : State) (e : Entry) (die slot : Nat) : State :=
  let now := s.coreClk e.core
  let place : Entry := { e with armedDie := some die, finished := true, counted := true, inst := 0, cnt := false }
  let armed : Entry := { e with id := s.nextId, armedDie := some die, slot := slot, inst := 0, lanes := [] }
  let s := { s with nextId := s.nextId + 1, triggers := s.triggers ++ [armed] }
  let s := (s.mapPad e.core fun p => { (p.takeHead e.count now) with ring := p.ring ++ [place] }).setStatus e 3
  (if e.inst = 0 then s else s.finishLanes e.core e.fg e.lanes e.inst []).fire

/-- The operation waiting on a ring count is over. -/
def State.dropRingOp (s : State) (core count : Nat) : State :=
  match s.ringOp core count with
  | some o => s.dropOp o.id
  | none => s

/-- An entry that a save left in the trigger table is passed over (R312). -/
def State.passEntry (s : State) (e : Entry) : State :=
  let place : Entry := { e with armedDie := some (dieOf e.core), finished := true, counted := true, inst := 0, cnt := false }
  s.mapPad e.core fun p => { (p.takeHead e.count (s.coreClk e.core)) with ring := p.ring ++ [place] }

/-- The copy engine takes the next entry of a core (R210). The promise is the tick asked for, no earlier than now and
than every promise of the ring before it (R211). An armed entry is tested here and again when it starts (DEDUCED, log
entry 53). -/
def State.takeEntry (s : State) (core promise : Nat) : State :=
  match s.pad? core with
  | none => s
  | some p =>
    if !s.mayTake p then s
    else
      let n := p.head
      let e0 := s.readEntry p n
      let e := { e0 with marks := s.entryMarks p e0 }
      let armed := (tabGet 0 p.scratch (p.slotOff n + 2)).toNat.testBit 1
      let now := s.coreClk core
      let at_ := min (max promise (max now p.promised)) (now + 2 ^ 31 - 1)
      if (tabGet 0 p.scratch (p.slotOff n)).toNat / 16 = 3 then (s.bump).passEntry e
      else match s.acceptFault p e armed with
      | some c =>
        (((s.bump).runEntry e at_).dropRingOp core n).failEntry e.id (acceptStatus c) c e.dst
      | none =>
        if armed then
          match s.freeSlot (dieOf core) p.ctx with
          | none => s
          | some slot => ((s.bump).armEntry e (dieOf core) slot).dropRingOp core n
        else ((s.bump).runEntry e at_).dropRingOp core n

/-! ### Moving a tile -/

/-- Bytes of a tile. -/
def tileBytes (sh : Shape) : Nat := shRows sh * shRowBytes sh

/-- Up to n bytes of one row, n rounded up so that no element is cut, within one sector at either end, from byte k of a tile on:
source, destination, length. -/
def tilePiece (sh : Shape) (da k n : Nat) : Nat × Nat × Nat :=
  let rb := shRowBytes sh
  let row := k / rb
  let off := k % rb
  let src := (shSrcRow sh row + off) % 2 ^ 64
  let dst := (shDstRow sh da row + off) % 2 ^ 64
  (src, dst, min (n + (8 - (dst + n) % 8) % 8) (min (rb - off) (min (64 - src % 64) (64 - dst % 64))))

/-- What an engine's read gives. -/
inductive Got where
  | bytes (bs : List Byte)
  | bad (cause : Nat)
  | waits
  deriving DecidableEq, Repr

/-- An engine reads n bytes within a sector with read floor F, at the time of the fetch that it shares or else when it comes
(R64, R67, R213). -/
def State.engineRead (s : State) (e : Entry) (va n floor : Nat) : State × Got :=
  match s.engineRes e va false with
  | (s, .bad c) => (s, .bad c)
  | (s, .at_ l) =>
    match l with
    | .spad core off =>
      match s.pad? core with
      | none => (s, .bad 0x020A)
      | some p =>
        match p.laneRead off n with
        | none => (s, .bad 0x0901)
        | some _ => (s, .bytes (p.scratchBytes off n))
    | .blank el size => (s, .bytes (leBytes n (blankValue el size va n)))
    | .remote m pa =>
      match s.fabric.inbound.find? fun q => decide (q.kind = 3 ∧ q.ref = e.id ∧ q.addr = pa) with
      | some q =>
        ({ s with fabric := { s.fabric with inbound := s.fabric.inbound.filter fun x => decide (x.id ≠ q.id) } },
          .bytes (q.data.map (BitVec.ofNat 8)))
      | none =>
        if s.fabric.packets.any fun q => decide (q.kind = 0 ∧ q.ref = e.id ∧ q.addr = pa) then (s, .waits)
        else if s.maySend (s.ownerOf e.ctx) then (s.sendUser e.ctx va n m (s.ownerOf e.ctx) 0 e.id pa [n], .waits)
        else (s.refuseSend m (s.ownerOf e.ctx), .bad 0x0710)
    | .mem k =>
      match s.hostFault (s.ownerOf e.ctx) k with
      | some c => (s, .bad c)
      | none =>
        if s.poisonedAt k then (s, .bad 0x0911)
        else
          let now := s.dieClk (homeOf (lineOf k))
          let rt := max floor (e.readAt.getD now)
          let s := s.mapMem fun m => m.commitDue (lineOf k) now
          if now < rt then (s, .waits) else (s, .bytes (s.mem.bytesAt k n rt))

/-- What an engine's write gives: its write time, 0 for a remote write, and again for host memory. -/
inductive Put where
  | done (wt host : Nat)
  | bad (cause : Nat)
  | waits
  deriving DecidableEq, Repr

/-- An engine writes bytes within a sector (R213, R236); it waits as a store does for a lease about to lapse and for newer
bytes of a guest die (R63, R260). -/
def State.engineWrite (s : State) (e : Entry) (va : Nat) (bs : List Byte) : State × Put :=
  match s.engineRes e va true with
  | (s, .bad c) => (s, .bad c)
  | (s, .at_ l) =>
    match l with
    | .spad core off => (s.mapPad core fun p => p.setBytes off bs (s.coreClk core), .done (s.coreClk core) 0)
    | .blank _ _ => (s, .bad 0x0200)
    | .remote m pa =>
      if s.maySend (s.ownerOf e.ctx) then
        (s.sendUser e.ctx va bs.length m (s.ownerOf e.ctx) 1 e.id pa (bs.map (·.toNat)), .done 0 0)
      else (s.refuseSend m (s.ownerOf e.ctx), .bad 0x0710)
    | .mem k =>
      match s.hostFault (s.ownerOf e.ctx) k with
      | some c => (s, .bad c)
      | none =>
        if s.stackGone k then (s, .bad 0x0911)
        else if !s.ownReady 0 k bs.length then (s.ownWait k bs.length, .waits)
        else
          let wt := s.mem.ownStoreWt (s.dieClk (homeOf (lineOf k))) 0 k bs.length
          (s.ownStore k bs, .done wt (if isHost k then wt else 0))

/-- A read that failed ends or stalls the entry: poisoned data is STATUS 10 (R335, R347). -/
def State.badRead (s : State) (id cause va : Nat) : State :=
  if cause / 2 ^ 8 = 9 then s.failEntry id 10 cause va else s.badAddress id cause va

/-- A tile's bytes are moved, at most `budget` of them, from the first byte not yet written on (R213, R335). -/
def State.copyRun : Nat → Nat → Nat → State → State
  | 0, _, _, s => s
  | fuel + 1, budget, id, s =>
    match s.entry? id with
    | none => s
    | some e =>
      if tileBytes e.shape ≤ e.rows ∨ e.fail ≠ 0 ∨ e.stalled.isSome ∨ budget = 0 then s
      else
        let (src, dst, n) := tilePiece e.shape e.dst e.rows budget
        match s.engineRead e src n e.floor with
        | (s, .waits) => s
        | (s, .bad c) => s.badRead id c src
        | (s', .bytes bs) =>
          match s'.engineWrite e dst bs with
          | (s, .bad c) => s.badRead id c dst
          | (_, .waits) => (s.engineWrite e dst bs).1
          | (s, .done wt host) =>
            State.copyRun fuel (budget - n) id ((s.gotAts id).mapRing id fun e =>
              { e with rows := e.rows + n, maxWt := max e.maxWt wt, hostWt := max e.hostWt host, parkedOn := 0 })

/-! ### Merge windows (R67) -/

/-- The source bytes of a tile in order, where they all live outside the scratchpad on this module or in host memory. -/
def State.tileSource (s : State) (e : Entry) : Option (List Nat) :=
  (upFrom 0 (tileBytes e.shape)).foldr (fun k l =>
    match (s.engineRes e (tilePiece e.shape 0 k 1).1 false).2, l with
    | .at_ (.mem key), some l => some (key :: l)
    | _, _ => none) (some [])

/-- A tile fetch enters its merge window: it joins an identical request that the slice holds, or opens a hold (R67). An
operation with a window of 0 starts at once. -/
def State.startFetch (s : State) (e : Entry) : State :=
  let slice := sliceOf e.core
  if shMwin e.shape = 0 then s.mapRing e.id fun e => { e with started := true }
  else match s.tileSource e with
  | none => s.mapRing e.id fun e => { e with started := true }
  | some keys =>
    if s.mem.holds.any fun h => decide (e.id ∈ h.joined) then s
    else
      let owner := s.ownerOf e.ctx
      let same := fun (h : Hold) =>
        decide (h.slice = slice ∧ h.owner = owner ∧ h.fmt = shFmt e.shape ∧ h.keys = keys)
      if s.mem.holds.any same then
        s.mapMem fun m => { m with holds := m.holds.map fun h =>
          (if same h then { h with joined := h.joined ++ [e.id] } else h) }
      else
        State.bump (s.mapMem fun m => { m with holds := m.holds ++
          [{ id := s.nextId, slice := slice, owner := owner, fmt := shFmt e.shape, keys := keys,
             endsAt := s.coreClk e.core + shMwin e.shape, joined := [e.id] }] })

/-- A hold ends: one fetch leaves for every joined request, with one read time, no earlier than any of their floors
(R64, R67). -/
def State.endHold (s : State) (id : Nat) : State :=
  match s.mem.holds.find? fun h => decide (h.id = id) with
  | none => s
  | some h =>
    if s.clk < h.endsAt then s
    else
      let s := s.mapMem fun m => { m with holds := m.holds.filter fun x => decide (x.id ≠ id) }
      let floors := h.joined.map fun x => match s.entry? x with
        | some e => e.floor
        | none => 0
      let t := greatest (s.dieClk (h.slice / 8)) floors
      h.joined.foldl (fun (s : State) (x : Nat) => s.mapRing x fun e => { e with started := true, readAt := some t }) s

/-! ### Progress and retirement -/

/-- Earlier entries of the ring have done their operation (R76). -/
def State.entryTurn (s : State) (e : Entry) : Bool :=
  match e.armedDie with
  | some _ => e.fired && e.tested
  | none => match s.pad? e.core with
    | none => false
    | some p => (p.ring.takeWhile fun x => decide (x.id ≠ e.id)).all fun x => x.finished || decide (x.fail ≠ 0)

/-- No packet of an entry is still on its way (R213). -/
def State.entryQuiet (s : State) (e : Entry) : Bool :=
  s.fabric.packets.all fun q => decide (q.ref ≠ e.id)

/-- A running entry is past its promise: it waits for a revised one (R211, R337). -/
def State.entryLate (s : State) (e : Entry) : Bool := e.armedDie.isNone && decide (e.promise < s.coreClk e.core)

/-- An entry may go on: it has not ended or stalled, its promise stands, and it is its turn (R76, R211, R335). -/
def State.entryReady (s : State) (e : Entry) : Bool :=
  !e.finished && decide (e.fail = 0) && e.stalled.isNone && !s.entryLate e && s.entryTurn e

/-- An entry's operation goes on, by at most `budget` bytes of a copy (R210, R213, R229). -/
def State.advanceEntry (s : State) (id budget : Nat) : State :=
  match s.entry? id with
  | none => s
  | some e =>
    if !s.entryReady e then s
    else match e.op with
      | 1 =>
        let s := if e.started then s.copyRun (min budget (tileBytes e.shape)) budget id else s.startFetch e
        match s.entry? id with
        | none => s
        | some e =>
          if tileBytes e.shape ≤ e.rows ∧ s.entryQuiet e ∧ e.fail = 0 ∧ e.hostWt ≤ s.dieClk 0 then
            s.mapRing id fun e => { e with finished := true }
          else s
      | 4 => if s.joinMet e.marks then s.mapRing id fun e => { e with finished := true } else s
      | 5 =>
        if (s.counterKey e.ctx e.cctr).isNone then s.failEntry id 12 0x0312 e.dst
        else if s.counterGone e.ctx e.cctr then s.failEntry id (remoteStatus 0x0911) 0x0911 e.dst
        else if !s.counterReady e.ctx e.cctr then s.recallCounter e.ctx e.cctr
        else (s.counterAdd e.ctx e.cctr e.arg).mapRing id fun e => { e with finished := true }
      | _ => s

/-- The compact command of a follow-on as the core's matrix queue holds it (R206, R209, R224). -/
def followCmd (e : Entry) (id : Nat) : MatCmd :=
  { id := id, kind := cmdKind e.arg, bank := cmdBank e.arg, zs := cmdZs e.arg, a := e.followA, b := e.followB,
    aSh := cmdA e.arg, bSh := cmdB e.arg, goff := cmdGoff e.arg, addr := 0, steps := 0, rows := 0, flags := 0, sat := 0,
    stalled := none, stallVa := 0, parkedOn := 0, applied := false, inst := 0, fg := 0, lanes := [], entry := e.id,
    ctx := e.ctx, maxWt := 0, buf := [] }

/-- A finished copy places its follow-on in the core's matrix queue, when there is room (R210). -/
def State.placeFollow (s : State) (e : Entry) : State :=
  match s.pad? e.core with
  | none => s
  | some p =>
    if !e.follow ∨ e.op ≠ 1 ∨ e.followId ≠ 0 ∨ 2 ≤ p.mq.length then s
    else
      let id := s.nextId
      let s := s.mapPad e.core fun p => { p with mq := p.mq ++ [followCmd e id], accUsed := true }
      (s.mapRing e.id fun e => { e with followId := id }).bump

/-- The follow-on of an entry, if it has one, has been placed (R210). -/
def followPlaced (e : Entry) : Bool := !(e.follow && decide (e.op = 1)) || decide (e.followId ≠ 0)

/-- The follow-on of an entry has completed (R214). -/
def State.followDone (s : State) (e : Entry) : Bool :=
  followPlaced e &&
  (decide (e.followId = 0) || s.pads.all fun p => p.mq.all fun c => decide (c.id ≠ e.followId))

/-- The replica numbers of a contribution (R218). -/
def replicas (sh : Shape) : List Nat := if shRepl sh = 0 then [0] else setBits (shRepl sh) 16

/-- The first destination byte of an entry: a contribution's is that of its first replica. QFENCE and CADD have none
(DEDUCED, log entry 54: their increment is performed on the issuing module) (R214, R218). -/
def Entry.firstByte (e : Entry) : Option Nat :=
  if e.op = 2 then some (moveAddr e.dst ((replicas e.shape).headD 0 * shRstride e.shape))
  else if e.op = 4 ∨ e.op = 5 then none else some e.dst

/-- The CNT increment of an entry whose destination is visible is performed on the module of its first destination byte; one
that is refused, or whose counter's stack is gone, fails the entry (R214, R283, R335, R336, R359, R360). -/
def State.countEntry (s : State) (id : Nat) : State :=
  match s.entry? id with
  | none => s
  | some e =>
    if !e.cnt ∨ e.counted ∨ !e.finished ∨ e.fail ≠ 0 ∨ !s.followDone e ∨ s.clk < e.maxWt ∨ !s.entryQuiet e then s
    else match e.firstByte.map fun a => (s.engineRes e a false).2 with
      | some (.at_ (.remote m _)) =>
        if s.maySend (s.ownerOf e.ctx) then s.sendPacket m (s.ownerOf e.ctx) 5 e.id e.cctr [e.ctx, 1]
        else (s.refuseSend m (s.ownerOf e.ctx)).failEntry id (remoteStatus 0x0710) 0x0710 e.dst
      | _ =>
        if (s.ctx? e.ctx).isNone ∨ (s.counterKey e.ctx e.cctr).isNone then s.failEntry id 12 0x0312 e.dst
        else if s.counterGone e.ctx e.cctr then s.failEntry id (remoteStatus 0x0911) 0x0911 e.dst
        else if !s.counterReady e.ctx e.cctr then s.recallCounter e.ctx e.cctr
        else (s.counterAdd e.ctx e.cctr 1).mapRing id fun e => { e with counted := true }

/-- Tokens restored with a thread clear when DONE reaches their count (R54). -/
def Thread.dropHeld (done : Nat) (t : Thread) : Thread :=
  { t with tokHeld := t.tokHeld.filter fun h => decide (2 ^ 31 ≤ countDiff done h.2) }

/-- DONE advances over the head entry of a ring with a status; its token clears, and the threads' floors rise (R77,
R210, R335). -/
def State.retireHead (s : State) (e : Entry) (status : Nat) : State :=
  let now := s.coreClk e.core
  let s := s.setStatus e status
  let s := s.mapPad e.core fun p =>
    { (p.setWord (p.ctl + 8) ((e.count + 1) % 2 ^ 32) now) with ring := p.ring.filter fun x => decide (x.id ≠ e.id) }
  let s := (s.mapPad e.core fun p => p.mapThreads (Thread.dropHeld p.done)).raiseLaunch e.launch e.maxWt
  if e.inst = 0 then s
  else
    (s.finishLanes e.core e.fg e.lanes e.inst []).mapLanes e.core e.fg e.lanes fun _ t => t.noteCopy e.maxWt

/-- The head entry of a core's ring goes on as far as it can, and retires when it is done (R210). -/
def State.retireEntry (s : State) (core : Nat) : State :=
  match s.pad? core with
  | none => s
  | some p => match p.ring with
    | [] => s
    | e0 :: _ =>
      let s := s.advanceEntry e0.id (tileBytes e0.shape)
      match s.entry? e0.id with
      | none => s
      | some e =>
        if s.entryLate e then s
        else if e.fail ≠ 0 then s.retireHead e e.fail
        else if !e.finished then s
        else if e.armedDie.isSome then s.retireHead e 3
        else
          let s := s.placeFollow e
          match s.entry? e0.id with
          | none => s
          | some e => if followPlaced e && (!e.cnt || e.counted) then s.retireHead e 2 else s

/-- A fired entry that has completed or failed leaves its slot (R215, R336). -/
def State.freeTrigger (s : State) (id : Nat) : State :=
  { s with triggers := s.triggers.filter fun e => decide (e.id ≠ id) }

/-- A fired entry meets its acceptance test as it starts (R230, R336; DEDUCED, log entry 53). -/
def State.testFired (s : State) (e : Entry) : State :=
  if e.tested then s
  else
    let s' := s.mapRing e.id fun e => { e with tested := true }
    match s.entryFault e with
    | some c => s'.failEntry e.id (acceptStatus c) c e.dst
    | none => s'

/-- A fired entry goes on, makes its increment, and frees its slot when it is over (R215, R336). -/
def State.runFired (s : State) (die slot : Nat) : State :=
  match s.triggers.find? fun e => decide (e.armedDie = some die ∧ e.slot = slot) with
  | none => s
  | some e0 =>
    if !e0.fired then s
    else
      let s := (s.testFired e0).advanceEntry e0.id (tileBytes e0.shape)
      match s.entry? e0.id with
      | none => s
      | some e =>
        if e.fail ≠ 0 then s.freeTrigger e.id
        else if !e.finished then s
        else if e.cnt && !e.counted then
          let s := s.countEntry e.id
          match s.entry? e0.id with
          | some e => if e.counted ∨ e.fail ≠ 0 then s.freeTrigger e.id else s
          | none => s
        else s.freeTrigger e.id

/-- A running entry that has reached its promise gets a later one: PROMISE, its revision count, and a record 0x0311
(R337). -/
def State.revisePromise (s : State) (id promise : Nat) : State :=
  match s.entry? id with
  | none => s
  | some e =>
    let now := s.coreClk e.core
    if e.armedDie.isSome ∨ now < e.promise then s
    else match s.pad? e.core with
      | none => s
      | some p =>
        let next := min (max promise (max now e.promise + 1)) (now + 2 ^ 31 - 1)
        let s := s.mapPad e.core fun p =>
          { (p.setWord (p.slotOff e.count + 4) (next % 2 ^ 32) now) with promised := max p.promised next }
        let s := s.mapRing id fun e => { e with promise := next, revisions := e.revisions + 1 }
        s.entryRecord e 0x0311 1 false (spadWindow + p.slotOff e.count) false

/-- The host answers ATS requests again: the work that waits for an answer goes on (R367). -/
def State.atsBack (s : State) : State :=
  let e := fun (x : Eft) => if x.cause = 0x0803 then { x with retry := true } else x
  let r := fun (x : Entry) => if x.stalled = some 0x0803 then { x with stalled := none } else x
  let c := fun (x : MatCmd) => if x.stalled = some 0x0803 then { x with stalled := none } else x
  { s with
    pads := s.pads.map fun p =>
      { p with fgs := p.fgs.map fun g => { g with efts := g.efts.map e }, ring := p.ring.map r, mq := p.mq.map c }
    triggers := s.triggers.map r }

end Sys2Proof.Machine
end

