-- ==== Sys2Proof/Machine/EngineInstr.lean ====
section
/-! DEFINITION. Engine words, majors 0x2E-0x34 (R199, R205, R212, R214, R216-R218, R222, R225, R228, R229): shape records, the
copy ring, event counters, the matrix queue, guest queues and joins. -/

namespace Sys2Proof.Machine

/-! ### Shared operations -/

/-- Every thread of the run reads the operands and pops its ports; the leader's are used (R199). -/
def State.leaderReads (s : State) (r : Run) (lanes : List Nat) (i : Instr) : State × List Word :=
  lanes.foldl (fun (x : State × List Word) (l : Nat) =>
    let y := x.1.operands r l i.reads
    (y.1, if l = leastD 0 lanes then y.2 else x.2)) (s, [])

/-- An E-form word: one operation for the run, from the leader's operands (R199). -/
def State.engineWord (s : State) (i : Instr) (eff : State → Run → List Nat → Pad → List Word → State) : State :=
  s.runWord i fun s r lanes =>
    let x := s.leaderReads r lanes i
    match x.1.pad? r.core with
    | none => x.1
    | some p => eff x.1 r lanes p x.2

/-- A record written into a handle and its shadow (R205). -/
def Pad.setShape (p : Pad) (h : Nat) (sh : Shape) (now : Nat) : Pad :=
  { p with shapes := modifyAt p.shapes h fun _ => sh }.setBytes (p.shadowOff h) (leBytes 64 sh.toNat) now

/-- An operation of the run at an address (R199). -/
def State.engineAccess (s : State) (r : Run) (lanes : List Nat) (p : Pad) (va : Nat) (write : Bool) (kind : OpKind) :
    State :=
  match s.resolve p va write with
  | (s', .at_ loc) => s'.addOp (newOp r p.ctx lanes va loc kind false)
  | (s', .bad _) => s'.finishLanes r.core r.fg lanes r.inst []

/-- An operation of the run that names no address of its own. -/
def State.engineOp (s : State) (r : Run) (lanes : List Nat) (p : Pad) (va : Nat) (kind : OpKind) (afterAll : Bool) :
    State :=
  s.addOp (newOp r p.ctx lanes va (.blank 0 1) kind afterAll)

/-- A `tcp`, `tcp.red` or `tcp.post`: an entry to be published at the copy-engine port (R212). -/
def State.ringWord (s : State) (i : Instr) (op h : Nat) (d : BitVec 6) (arg : List Word → Nat) : State :=
  s.engineWord i fun s r lanes p vs =>
    (s.engineOp r lanes p (addrOf vs) (.publish op h (arg vs) 0 false d.toNat) false).publishDue r.core

/-- A command as a word places it (R222, R225). -/
def newCmd (id kind bank : Nat) (zs : Bool) (a b : Shape) (aSh bSh goff addr : Nat) (r : Run) (lanes : List Nat)
    (ctx : Nat) : MatCmd :=
  { id := id, kind := kind, bank := bank, zs := zs, a := a, b := b, aSh := aSh, bSh := bSh, goff := goff, addr := addr,
    steps := 0, rows := 0, flags := 0, sat := 0, stalled := none, stallVa := 0, parkedOn := 0, applied := false,
    inst := r.inst, fg := r.fg, lanes := lanes, entry := 0, ctx := ctx, maxWt := 0,
    buf := [] }

/-- A handle number that names no handle. -/
def noHandle : Nat := 16

/-- A command of the run enters the core's matrix queue (R222, R225). -/
def State.matrixWord (s : State) (i : Instr) (cmd : Nat → Run → List Nat → Pad → List Word → MatCmd) : State :=
  s.engineWord i fun s r lanes p vs =>
    let c := cmd s.nextId r lanes p vs
    (s.mapPad r.core fun p => { p with mq := p.mq ++ [c], accUsed := p.accUsed || decide (c.kind ≠ 5) }).bump

/-- The packet of a `gsend` with the issuing context's id (R228, R255). -/
def packetData (vs : List Word) (ctx : Nat) : Nat :=
  let v := (mapFrom (fun i w => w.toNat * 2 ^ (32 * i)) 0 vs).foldl (· + ·) 0
  v - v / 2 ^ 32 % 2 ^ 16 * 2 ^ 32 + ctx % 2 ^ 16 * 2 ^ 32

/-- What a `qfence` of a context joins, by its mask (R229). -/
def State.fenceMarks (s : State) (p : Pad) (sock q mask : Nat) : List Nat :=
  (if mask.testBit 0 then p.ring.map (·.id) else []) ++ (if mask.testBit 1 then p.mq.map (·.id) else []) ++
    (if mask.testBit 2 then s.guestMarks p.ctx sock (some q) else []) ++
    (if mask.testBit 3 then s.guestMarks p.ctx (1 - sock) none else [])

/-- A guest queue changed. -/
def State.mapQueue (s : State) (sock q : Nat) (f : GQueue → GQueue) : State :=
  { s with sockets := modifyAt s.sockets sock fun k =>
      { k with queues := tabSet GQueue.zero k.queues q (f (tabGet GQueue.zero k.queues q)) } }

/-- A join entry enters a guest queue (R229). -/
def State.joinWord (s : State) (r : Run) (lanes : List Nat) (p : Pad) (sock q mask : Nat) : State :=
  if mask = 0 then s.finishLanes r.core r.fg lanes r.inst []
  else
    let marks := s.fenceMarks p sock q mask
    let id := s.nextId
    (s.engineOp r lanes p 0 (.join sock q mask marks) false).mapQueue sock q fun k =>
      { k with fifo := k.fifo ++ [.join id mask marks id] }

/-! ### Meanings -/

/-- R205: the record is checked on the bytes that its read returns. -/
def execShld (c : Bool) (sf : BitVec 4) (a : BitVec 6) (t : BitVec 3) (l : BitVec 4) (s : State) : Result :=
  .next (s.engineWord (.shld c sf a t l) fun st r lanes p vs =>
    st.engineAccess r lanes p (addrOf vs) false (.shapeLoad sf.toNat))

/-- R205: one 64-byte store. -/
def execShst (c : Bool) (sf : BitVec 4) (a : BitVec 6) (t : BitVec 3) (l : BitVec 4) (s : State) : Result :=
  .next (s.engineWord (.shst c sf a t l) fun st r lanes p vs =>
    st.engineAccess r lanes p (addrOf vs) true (.store (leBytes 64 (p.shape sf.toNat).toNat) none))

/-- R205: one word of the record replaced. -/
def execShmod (c : Bool) (sf : BitVec 4) (d : BitVec 6) (n : BitVec 4) (t : BitVec 3) (l : BitVec 4)
    (s : State) : Result :=
  .next (s.engineWord (.shmod c sf d n t l) fun st r lanes p vs =>
    (st.mapPad r.core fun q => q.setShape sf.toNat (shSetWord (p.shape sf.toNat) n.toNat (nth vs 0).toNat)
      (st.coreClk r.core)).finishLanes r.core r.fg lanes r.inst [])

/-- R212. -/
def execTcp (c : Bool) (sf : BitVec 4) (d : BitVec 6) (a : BitVec 6) (t : BitVec 3) (l : BitVec 4)
    (s : State) : Result :=
  .next (s.ringWord (.tcp c sf d a t l) 1 sf.toNat d fun vs => (nth vs 2).toNat)

/-- R218: a RED entry. -/
def execTcpRed (c : Bool) (sf : BitVec 4) (d : BitVec 6) (a : BitVec 6) (t : BitVec 3) (l : BitVec 4)
    (s : State) : Result :=
  .next (s.ringWord (.tcpRed c sf d a t l) 2 sf.toNat d fun _ => 0)

/-- R217: a POST entry. -/
def execTcpPost (c : Bool) (sf : BitVec 4) (d : BitVec 6) (a : BitVec 6) (t : BitVec 3) (l : BitVec 4)
    (s : State) : Result :=
  .next (s.ringWord (.tcpPost c sf d a t l) 3 sf.toNat d fun _ => 0)

/-- R214. -/
def execCtrAdd (c : Bool) (d : BitVec 6) (a : BitVec 6) (t : BitVec 3) (l : BitVec 4) (s : State) : Result :=
  .next (s.engineWord (.ctrAdd c d a t l) fun s r lanes p vs =>
    s.engineOp r lanes p (s.counterVa p.ctx (nth vs 0).toNat) (.counter ((nth vs 0).toNat % 8192) (some (nth vs 1).toNat) 0) true)

/-- R214. -/
def execCtrLd (c : Bool) (d : BitVec 6) (a : BitVec 6) (t : BitVec 3) (l : BitVec 4) (s : State) : Result :=
  .next (s.engineWord (.ctrLd c d a t l) fun s r lanes p vs =>
    s.engineOp r lanes p (s.counterVa p.ctx (nth vs 0).toNat) (.counter ((nth vs 0).toNat % 8192) none d.toNat) false)

/-- R216. -/
def execRingArm (c : Bool) (d : BitVec 6) (a : BitVec 6) (t : BitVec 3) (l : BitVec 4) (s : State) : Result :=
  .next (s.engineWord (.ringArm c d a t l) fun s r lanes p vs =>
    (s.engineOp r lanes p 0 (.publish 0 0 0 (nth vs 1).toNat true 0) false).publishDue r.core)

/-- R222. -/
def execMma (c : Bool) (sf : BitVec 4) (z : BitVec 1) (b : BitVec 1) (n : BitVec 4) (t : BitVec 3) (l : BitVec 4)
    (s : State) : Result :=
  .next (s.matrixWord (.mma c sf z b n t l) fun id r lanes p _ =>
    newCmd id 1 b.toNat (decide (z.toNat = 1)) (p.shape sf.toNat) (p.shape n.toNat) sf.toNat n.toNat 0 0 r lanes p.ctx)

/-- R222. -/
def execMmaGather (c : Bool) (sf : BitVec 4) (z : BitVec 1) (b : BitVec 1) (n : BitVec 4) (a : BitVec 6) (t : BitVec 3) (l : BitVec 4)
    (s : State) : Result :=
  .next (s.matrixWord (.mmaGather c sf z b n a t l) fun id r lanes p vs =>
    newCmd id 2 b.toNat (decide (z.toNat = 1)) (p.shape sf.toNat) (p.shape n.toNat) sf.toNat n.toNat (nth vs 0).toNat 0
      r lanes p.ctx)

/-- R225. -/
def execAccClr (c : Bool) (b : BitVec 1) (t : BitVec 3) (l : BitVec 4) (s : State) : Result :=
  .next (s.matrixWord (.accClr c b t l) fun id r lanes p _ =>
    newCmd id 3 b.toNat false 0 0 noHandle noHandle 0 0 r lanes p.ctx)

/-- R225, R226. -/
def execAccLd (c : Bool) (sf : BitVec 4) (b : BitVec 1) (a : BitVec 6) (t : BitVec 3) (l : BitVec 4)
    (s : State) : Result :=
  .next (s.matrixWord (.accLd c sf b a t l) fun id r lanes p vs =>
    newCmd id 4 b.toNat false (p.shape sf.toNat) 0 sf.toNat noHandle 0 (addrOf vs) r lanes p.ctx)

/-- R225, R226. -/
def execAccSt (c : Bool) (sf : BitVec 4) (b : BitVec 1) (a : BitVec 6) (t : BitVec 3) (l : BitVec 4)
    (s : State) : Result :=
  .next (s.matrixWord (.accSt c sf b a t l) fun id r lanes p vs =>
    newCmd id 5 b.toNat false (p.shape sf.toNat) 0 sf.toNat noHandle 0 (addrOf vs) r lanes p.ctx)

/-- R228. -/
def execGsend (c : Bool) (k : BitVec 1) (d : BitVec 6) (q : BitVec 6) (t : BitVec 3) (l : BitVec 4)
    (s : State) : Result :=
  .next (s.engineWord (.gsend c k d q t l) fun s r lanes p vs =>
    s.engineOp r lanes p 0 (.guest k.toNat q.toNat (packetData vs p.ctx)) true)

/-- R229. -/
def execQfence (c : Bool) (k : BitVec 1) (q : BitVec 6) (m : BitVec 4) (t : BitVec 3) (l : BitVec 4)
    (s : State) : Result :=
  .next (s.engineWord (.qfence c k q m t l) fun s r lanes p _ =>
    s.joinWord r lanes p k.toNat q.toNat m.toNat)

end Sys2Proof.Machine
end

