-- ==== Sys2Proof/Machine/Keccak.lean ====
section
/-! DEFINITION. SHAKE256 and KMAC256 (R92, R280), as the standards that the manual names define them: FIPS 202 and NIST SP
800-185. Lane (x, y) of the 1,600-bit state is element x + 5·y of a list of 25 numbers below 2^64. -/

namespace Sys2Proof.Machine

/-- A lane rotated left by less than 64 places. -/
def rotLane (v n : Nat) : Nat := v * 2 ^ n % 2 ^ 64 + v / 2 ^ (64 - n)

/-- The parity of each sheet x = 0 to 4: the five lanes of that x added bit by bit. -/
def sheetParity : List Nat → List Nat → List Nat
  | sums, [] => sums
  | sums, v :: a => sheetParity (sums.drop 1 ++ [(sums.headD 0) ^^^ v]) a

/-- θ: every lane takes the parity of the sheet before it and the rotated parity of the sheet after it. -/
def keccakTheta (a : List Nat) : List Nat :=
  let c := sheetParity (List.replicate 5 0) a
  mapFrom (fun i v => v ^^^ atD 0 c ((i + 4) % 5) ^^^ rotLane (atD 0 c ((i + 1) % 5)) 1) 0 a

/-- Where π takes lane (x, y): lane (y, 2·x + 3·y). -/
def piLane (i : Nat) : Nat := i / 5 + 5 * ((2 * (i % 5) + 3 * (i / 5)) % 5)

/-- The lane n moves of π away from a lane. -/
def piAfter : Nat → Nat → Nat
  | 0, i => i
  | n + 1, i => piAfter n (piLane i)

/-- How many moves of π lead from one lane to another, if fewer than n do; n else. -/
def piSteps : Nat → Nat → Nat → Nat
  | 0, _, _ => 0
  | n + 1, i, j => if i = j then 0 else piSteps n (piLane i) j + 1

/-- For each lane, the lane that ρ and π bring there and the places that it is rotated by: π moves the lanes other than (0, 0)
along one cycle, and the one that stands t moves after (1, 0) is rotated by (t + 1)·(t + 2)/2 (FIPS 202, algorithm 2). -/
def keccakMoves : List (Nat × Nat) :=
  (0, 0) :: (upFrom 1 24).map fun i =>
    let t := piSteps 24 (piLane 1) i
    (piAfter t 1, (t + 1) * (t + 2) / 2 % 64)

/-- ρ and π. -/
def keccakMove (a : List Nat) : List Nat := keccakMoves.map fun m => rotLane (atD 0 a m.1) m.2

/-- χ of one plane, its five lanes. -/
def chiPlane (p : List Nat) : List Nat :=
  mapFrom (fun x v => v ^^^ (atD 0 p ((x + 2) % 5) - (atD 0 p ((x + 1) % 5) &&& atD 0 p ((x + 2) % 5)))) 0 p

/-- χ, plane by plane. -/
def keccakChi : Nat → List Nat → List Nat
  | 0, _ => []
  | n + 1, b => chiPlane (b.take 5) ++ keccakChi n (b.drop 5)

/-- The shift register whose lowest bit gives the round constants, one place on (FIPS 202, algorithm 5). -/
def iotaNext (r : Nat) : Nat := if r < 128 then 2 * r else (2 * r - 256) ^^^ 0x71

/-- The register n places on. -/
def iotaAfter : Nat → Nat → Nat
  | 0, r => r
  | n + 1, r => iotaAfter n (iotaNext r)

/-- The lane that ι adds: bit 2^j - 1 of it is the register's lowest bit after j places, j = 0 to 6. -/
def iotaLane : Nat → Nat → Nat
  | 0, _ => 0
  | n + 1, r => r % 2 * 2 ^ (2 ^ (6 - n) - 1) + iotaLane n (iotaNext r)

/-- The last n rounds of KECCAK-f[1600], with the shift register where the first of them finds it. -/
def keccakRounds : Nat → Nat → List Nat → List Nat
  | 0, _, a => a
  | n + 1, r, a =>
    let b := keccakChi 5 (keccakMove (keccakTheta a))
    keccakRounds n (iotaAfter 7 r) (modifyAt b 0 fun v => v ^^^ iotaLane 7 r)

/-- KECCAK-f[1600]: 24 rounds. -/
def keccakF (a : List Nat) : List Nat := keccakRounds 24 1 a

/-- The sponge with a rate of 136 bytes absorbs bytes, a whole number of blocks. -/
def keccakAbsorb : Nat → List Nat → List Byte → List Nat
  | 0, a, _ => a
  | n + 1, a, bs =>
    let block := bs.take 136
    keccakAbsorb n (keccakF (mapFrom (fun i v => v ^^^ leValue ((block.drop (8 * i)).take 8)) 0 a)) (bs.drop 136)

/-- Bytes with the domain bits and padding up to a whole number of blocks. -/
def keccakPad (domain : Byte) (bs : List Byte) : List Byte :=
  let free := 136 - bs.length % 136
  bs ++ (if free = 1 then [domain ||| 0x80] else domain :: (List.replicate (free - 2) 0 ++ [0x80]))

/-- The first n bytes, up to 136, that the sponge gives for bytes. -/
def keccakSponge (domain : Byte) (bs : List Byte) (n : Nat) : List Byte :=
  let p := keccakPad domain bs
  ((keccakAbsorb (p.length / 136) (List.replicate 25 0) p).flatMap fun v => leBytes 8 v).take n

/-- SHAKE256 with an output of n bytes, up to 136. -/
def shake256 (bs : List Byte) (n : Nat) : List Byte := keccakSponge 0x1F bs n

/-- A number's bytes, the highest first and none of them a leading zero; one byte for 0. -/
def beBytes : Nat → Nat → List Byte
  | 0, _ => []
  | fuel + 1, n => if n < 256 then [BitVec.ofNat 8 n] else beBytes fuel (n / 256) ++ [BitVec.ofNat 8 n]

/-- left_encode. -/
def leftEncode (n : Nat) : List Byte := BitVec.ofNat 8 (beBytes 8 n).length :: beBytes 8 n

/-- right_encode. -/
def rightEncode (n : Nat) : List Byte := beBytes 8 n ++ [BitVec.ofNat 8 (beBytes 8 n).length]

/-- encode_string. -/
def encodeString (bs : List Byte) : List Byte := leftEncode (8 * bs.length) ++ bs

/-- bytepad to the rate. -/
def bytePad (bs : List Byte) : List Byte :=
  let x := leftEncode 136 ++ bs
  x ++ List.replicate ((136 - x.length % 136) % 136) 0

/-- The characters of a string as bytes. -/
def asciiBytes (s : String) : List Byte := s.toList.map fun c => BitVec.ofNat 8 c.toNat

/-- KMAC256 of bytes with a key and a customization string, for an output of `bits` bits: its first n bytes. -/
def kmac256 (key bs custom : List Byte) (bits n : Nat) : List Byte :=
  keccakSponge 0x04 (bytePad (encodeString (asciiBytes "KMAC") ++ encodeString custom) ++ bytePad (encodeString key) ++ bs ++
    rightEncode bits) n

end Sys2Proof.Machine
end

