-- ==== Sys2Proof/Machine/MatOps.lean ====
section
/-! DEFINITION. The matrix engine: N4 elements and blocks (R108-R110, R120), K steps (R123-R125), the accumulator's fill and
store-out (R225, R226), the status word (R227), and how a command stalls or fails (R340, R347). -/

namespace Sys2Proof.Machine

/-! ### N4 (R108-R110, R120) -/

/-- The format of an N4 code's magnitude: the left column of R108. -/
def e2m1 : Fmt := { width := 4, frac := 1, bias := 1, maxCode := 7, hasInf := false, nan := 0 }

/-- A zero without its sign: N4 has no negative zero (R108). -/
def FVal.plusZero : FVal → FVal
  | .num true 0 d => .num false 0 d
  | v => v

/-- The value before scaling of a code, given the block's scale word. A NaN block makes every element NaN (R108, R109;
log entry 18). -/
def n4Elem (scale code : Nat) : FVal :=
  if scale / 2 ^ 12 % 2 ^ 8 = 0xFF then .nan
  else if code = 8 then (e4m3.value (scale % 2 ^ 8)).plusZero
  else e2m1.value code

/-- The scale of a block; a NaN block's is NaN (R109, R124). -/
def n4Scale (scale : Nat) : FVal :=
  if scale / 2 ^ 12 % 2 ^ 8 = 0xFF then .nan
  else dyadic false (16 + scale / 2 ^ 8 % 16) ((scale / 2 ^ 12 % 2 ^ 8 : Nat) - 131)

/-- Two magnitudes in order: less. -/
def magLt : FVal → FVal → Bool
  | .num _ n d, .num _ m e => decide (n * e < m * d)
  | _, _ => false

/-- The distance of two numbers. -/
def farFrom (a b : FVal) : FVal := a.add 0 b.negate

/-- A number that is zero. -/
def FVal.isZero : FVal → Bool
  | .num _ n _ => decide (n = 0)
  | _ => false

/-- A number, neither NaN nor an infinity. -/
def FVal.finite : FVal → Bool
  | .num _ _ _ => true
  | _ => false

/-- The largest magnitude of a list. -/
def magMax (vs : List FVal) : FVal := vs.foldl (fun m v => if magLt m v then v else m) (.num false 0 1)

/-- SE and SF of the smallest scale not below a positive n / d, or the largest scale (R120). -/
def scaleFor (n d : Nat) : Nat × Nat :=
  let e := max (expOf n d) (-127)
  let x := scaleDown n d (e - 4)
  let m := max 16 ((x.1 + x.2 - 1) / x.2)
  let se := (e + 127).toNat + (if m = 32 then 1 else 0)
  if 254 < se then (254, 15) else (se, m % 16)

/-- One N4 block as it is written: scale word, codes, flags and saturated count. -/
structure N4Block where
  scale : Nat
  codes : List Nat
  flags : Nat
  sat : Nat
  deriving DecidableEq, Repr

/-- An element's E2M1 code with its sign, −0 as 0 (R120). -/
def n4Code (mode : Nat) (q : FVal) : Nat :=
  let c := (e2m1.round mode 0 q).bits
  if c = 8 then 0 else c

/-- An element's code, flags and whether it saturated, given the extra value in use (R120). -/
def n4Finish (mode : Nat) (extra : Option Nat) (xTiny : Bool) (q : FVal) : Nat × Nat × Bool :=
  let c := n4Code mode q
  let err := farFrom q (e2m1.value c)
  let takes := match extra with
    | some x => magLt (farFrom q (e4m3.value x)) err
    | none => false
  let got := if takes then e4m3.value (extra.getD 0) else e2m1.value c
  let exact := (farFrom q got).isZero
  let sat := !takes && magLt (.num false 6 1) q
  let tiny := !q.isZero && (if takes then xTiny else match q with
    | .num neg n d => e2m1.tiny mode neg 0 n d
    | _ => false)
  (if takes then 8 else c,
   flagIf sat flagOF ||| flagIf (sat || !exact) flagNX ||| flagIf (tiny && !exact) flagUF, sat)

/-- 32 values converted into one block (R120). -/
def n4Block (mode : Nat) (vs : List FVal) : N4Block :=
  if vs.any fun v => !v.finite then
    { scale := 0xFF000, codes := vs.map fun _ => 0, flags := flagNV, sat := 0 }
  else match magMax vs with
    | .num _ n d =>
      if n = 0 then { scale := 0, codes := vs.map fun _ => 0, flags := 0, sat := 0 }
      else
        let sc := scaleFor n (6 * d)
        let s := n4Scale (sc.1 * 2 ^ 12 + sc.2 * 2 ^ 8)
        let qs := vs.map fun v => v.div s
        let errs := qs.map fun q => farFrom q (e2m1.value (n4Code mode q))
        let worst := magMax errs
        let k := (errs.takeWhile fun e => magLt e worst).length
        let qk := atD (.num false 0 1) qs k
        let extra := if worst.isZero then none else some (e4m3.round 0 0 qk).bits
        let xTiny := match qk with
          | .num neg a b => decide (a ≠ 0) && e4m3.tiny 0 neg 0 a b
          | _ => false
        let done := qs.map (n4Finish mode extra xTiny)
        { scale := sc.1 * 2 ^ 12 + sc.2 * 2 ^ 8 + extra.getD 0, codes := done.map (·.1)
          flags := orFlags (done.map (·.2.1)), sat := (done.filter (·.2.2)).length }
    | _ => { scale := 0, codes := [], flags := 0, sat := 0 }

/-- Codes packed two to a byte (R110). -/
def packCodes : List Nat → List Byte
  | a :: b :: rest => BitVec.ofNat 8 (a % 16 + b % 16 * 16) :: packCodes rest
  | _ => []

/-! ### Operands of a step (R221) -/

/-- A block of 32 elements of an operand row: its elements, its scale, and whether a word of it has an uncorrectable
error. -/
structure OpBlock where
  elems : List FVal
  scale : FVal
  bad : Bool
  deriving DecidableEq, Repr

/-- A word of the scratchpad in a range has an uncorrectable error (R347). -/
def Pad.badIn (p : Pad) (off n : Nat) : Bool := p.spadBad.any fun w => decide (off / 4 ≤ w ∧ w ≤ (off + n - 1) / 4)

/-- Block b of a row of an operand (R108-R110, R221). -/
def Pad.opBlock (p : Pad) (sh : Shape) (row b : Nat) : OpBlock :=
  let base := (moveAddr (shBase sh) (row * shStep sh 1) + 2 ^ 64 - spadWindow) % 2 ^ 64
  let ks := upFrom (32 * b) 32
  match shFmt sh with
  | 0 =>
    let sa := shScale sh - spadWindow + 4 * (row * (shExt0 sh / 32) + b)
    let sw := p.word sa % 2 ^ 20
    { elems := ks.map fun k => n4Elem sw ((tabGet 0 p.scratch (base + k / 2)).toNat / 2 ^ (4 * (k % 2)) % 16)
      scale := n4Scale sw, bad := p.badIn (base + 16 * b) 16 || p.badIn sa 4 }
  | 1 =>
    { elems := ks.map fun k => e4m3.value (tabGet 0 p.scratch (base + k)).toNat
      scale := .num false 1 1, bad := p.badIn (base + 32 * b) 32 }
  | _ =>
    { elems := ks.map fun k => bf16.value (leValue (p.scratchBytes (base + 2 * k) 2))
      scale := .num false 1 1, bad := p.badIn (base + 64 * b) 64 }

/-- A gathered row that reads as codes 0 with scale 1 (R222). -/
def OpBlock.zero : OpBlock := { elems := List.replicate 32 (.num false 0 1), scale := .num false 1 1, bad := false }

/-- Block b of row i of A, gathered where the command gathers (R222). -/
def Pad.rowBlock (p : Pad) (c : MatCmd) (i b : Nat) : OpBlock :=
  if c.kind = 2 then
    let at_ := c.goff + 2 * i
    let x := if p.gatherEntry c.goff i = 0xFFFF then OpBlock.zero else p.opBlock c.a (p.gatherEntry c.goff i) b
    { x with bad := x.bad || p.badIn at_ 2 }
  else p.opBlock c.a i b

/-- The sum of a block's products: exact, a zero that is −0 only when every counted product is (R123, R125). -/
def blockSum (zs : Bool) (xs ys : List FVal) : FVal :=
  match ((xs.zip ys).filter fun x => !(zs && x.1.isZero)).map fun x => x.1.mul x.2 with
  | [] => .num false 0 1
  | q :: rest => rest.foldl (FVal.add 0) q

/-- One block applied to an accumulator entry (R123, R124, R347). -/
def blockStep (zs : Bool) (a b : OpBlock) (c : BitVec 80) : Rounded :=
  if a.bad || b.bad then { bits := a80.nan, flags := flagNV, sat := false }
  else match (a80.value c.toNat).add 0 (((blockSum zs a.elems b.elems).mul a.scale).mul b.scale) with
    | .nan => { bits := a80.nan, flags := flagNV, sat := false }
    | v => a80.round 0 0 v

/-! ### The accumulator store (R17, R225) -/

/-- The index of an entry of a bank of a core. -/
def accIndex (core bank i j : Nat) : Nat := core * 32768 + (128 * bank + i) * 128 + j

/-- An accumulator entry. -/
def State.accGet (s : State) (core bank i j : Nat) : BitVec 80 := tabGet 0 s.acc (accIndex core bank i j)

/-- NV, where an entry that is read has an uncorrectable error (R347). -/
def State.accFlag (s : State) (core bank i j : Nat) : Nat :=
  if accIndex core bank i j ∈ s.accBad then flagNV else 0

/-- The state with an accumulator entry written. -/
def State.accPut (s : State) (core bank i j v : Nat) : State :=
  { s with acc := tabSet 0 s.acc (accIndex core bank i j) (BitVec.ofNat 80 v)
           accBad := s.accBad.filter fun x => decide (x ≠ accIndex core bank i j) }

/-- A bank cleared: every entry +0 (R225). -/
def State.accClear (s : State) (core bank : Nat) : State :=
  let base := accIndex core bank 0 0
  { s with acc := s.acc.filter fun x => decide (x.1 < base ∨ base + 16384 ≤ x.1)
           accBad := s.accBad.filter fun x => decide (x < base ∨ base + 16384 ≤ x) }

/-- One K-block applied to one entry of a bank; the flags so far. -/
def entryBlock (p : Pad) (c : MatCmd) (b i j : Nat) (x : State × Nat) : State × Nat :=
  let r := blockStep c.zs (p.rowBlock c i b) (p.opBlock c.b j b) (x.1.accGet p.core c.bank i j)
  (x.1.accPut p.core c.bank i j r.bits, x.2 ||| r.flags ||| x.1.accFlag p.core c.bank i j)

/-- One K step of 64: two blocks in ascending K for every entry (R123). -/
def State.kStep (s : State) (p : Pad) (c : MatCmd) : State × Nat :=
  [2 * c.steps, 2 * c.steps + 1].foldl (fun (x : State × Nat) b =>
    (upFrom 0 128).foldl (fun (x : State × Nat) i =>
      (upFrom 0 128).foldl (fun (x : State × Nat) j => entryBlock p c b i j x) x) x) (s, 0)

/-- A word that a step reads has an uncorrectable error (R347). -/
def Pad.stepBad (p : Pad) (c : MatCmd) : Bool :=
  [2 * c.steps, 2 * c.steps + 1].any fun b =>
    (upFrom 0 128).any fun i => (p.rowBlock c i b).bad || (p.opBlock c.b i b).bad

/-! ### Conversions of fill and store-out (R225) -/

/-- The value range of an integer format. -/
def intRange (fmt : Nat) : Int × Int :=
  match fmt with
  | 4 => (-(2 ^ 31), 2 ^ 31 - 1)
  | 5 => (0, 2 ^ 32 - 1)
  | 6 => (-(2 ^ 63), 2 ^ 63 - 1)
  | _ => (0, 2 ^ 64 - 1)

/-- A float format by FMT. -/
def fmtOf (fmt : Nat) : Option Fmt :=
  match fmt with
  | 1 => some e4m3
  | 2 => some bf16
  | 3 => some fp32
  | _ => none

/-- A value sent to an integer format (R119, R225): saturation and NaN are counted. -/
def intOut (mode fmt : Nat) (v : FVal) : Rounded :=
  let lim := intRange fmt
  let width := 8 * fmtBytes fmt 1
  match v with
  | .nan => { bits := 0, flags := flagNV, sat := true }
  | .inf neg => { bits := twos width (if neg then lim.1 else lim.2), flags := flagOF + flagNX, sat := true }
  | .num neg n d =>
    let m : Int := roundMag mode neg 0 n d
    let x := if neg then -m else m
    if x < lim.1 ∨ lim.2 < x then
      { bits := twos width (if x < lim.1 then lim.1 else lim.2), flags := flagOF + flagNX, sat := true }
    else { bits := twos width x, flags := flagIf (decide (n % d ≠ 0)) flagNX, sat := false }

/-- One entry converted to a FMT that is not N4 (R114, R119, R225). -/
def entryOut (mode fmt : Nat) (bits : BitVec 80) : Rounded :=
  match fmtOf fmt with
  | some f => match a80.value bits.toNat with
    | .nan => { bits := f.nan, flags := flagNV, sat := false }
    | v => f.round mode 0 v
  | none => if fmt = 9 then { bits := bits.toNat, flags := 0, sat := false } else intOut mode fmt (a80.value bits.toNat)

/-- A row converted: data bytes, scale bytes, flags, saturated count (R225). -/
def rowOut (sh : Shape) (entries : List (BitVec 80)) : List Byte × List Byte × Nat × Nat :=
  let fmt := shFmt sh
  if fmt = 0 then
    let bs := (upFrom 0 4).map fun b => n4Block (shRm sh) (((entries.drop (32 * b)).take 32).map fun e => a80.value e.toNat)
    (bs.flatMap fun b => packCodes b.codes, bs.flatMap fun b => leBytes 4 b.scale, orFlags (bs.map (·.flags)),
     (bs.map (·.sat)).foldl (· + ·) 0)
  else
    let rs := entries.map (entryOut (shRm sh) fmt)
    (rs.flatMap fun r => leBytes (fmtBytes fmt 1) r.bits, [], orFlags (rs.map (·.flags)),
     (rs.filter (·.sat)).length)

/-- An element converted exactly to A80 (R119, R225). -/
def elemIn (fmt bits : Nat) : Nat :=
  match fmtOf fmt with
  | some f => (a80.round 0 0 (f.value bits)).bits
  | none =>
    if fmt = 9 then bits
    else
      let w := 8 * fmtBytes fmt 1
      (a80.round 0 0 (FVal.ofInt (if fmt = 4 ∨ fmt = 6 then signed w bits else (bits : Int)))).bits

/-- Entry (i, j) from the bytes of a tile read whole, scale words behind the rows (R225). -/
def accIn (sh : Shape) (buf : List Byte) (i j : Nat) : Nat :=
  let rb := shRowBytes sh
  if shFmt sh = 0 then
    let sw := leValue ((buf.drop (128 * rb + 4 * (4 * i + j / 32))).take 4) % 2 ^ 20
    let code := (atD 0 buf (i * rb + j / 2)).toNat / 2 ^ (4 * (j % 2)) % 16
    (a80.round 0 0 ((n4Elem sw code).mul (n4Scale sw))).bits
  else
    let n := fmtBytes (shFmt sh) 1
    elemIn (shFmt sh) (leValue ((buf.drop (i * rb + j * n)).take n))

/-! ### Commands -/

/-- The state with a command of a core's matrix queue changed. -/
def State.mapCmd (s : State) (core id : Nat) (f : MatCmd → MatCmd) : State :=
  s.mapPad core fun p => { p with mq := p.mq.map fun c => if c.id = id then f c else c }

/-- A command of a core's matrix queue. -/
def State.cmd? (s : State) (core id : Nat) : Option MatCmd :=
  (s.pad? core).bind fun p => p.mq.find? fun c => decide (c.id = id)

/-- The accesses of a command go as those of an entry of its pad group. -/
def MatCmd.asEntry (c : MatCmd) (p : Pad) (floor : Nat) : Entry :=
  { id := c.id, core := p.core, pad := p.uid, ctx := c.ctx, launch := p.launch, count := 0, op := 0, cnt := false,
    follow := false, dst := 0, arg := 0, thresh := 0, tctr := 0, cctr := 0, shape := c.a, followA := 0, followB := 0,
    floor := floor, promise := 0, revisions := 0, rows := 0, started := true, finished := false, marks := [],
    followId := 0, counted := false, fail := 0, stalled := none, stallVa := 0, retryAt := 0, retryGap := 0,
    firstTry := 0, parkedOn := 0, fired := false, armedDie := none, slot := 0, maxWt := 0, inst := c.inst, fg := c.fg,
    lanes := c.lanes, dreg := 0 }

/-- The compact command of a record's INFO (R209, R299). -/
def MatCmd.info (c : MatCmd) : Nat :=
  cmdWord (if c.kind ≤ 2 then c.kind else 0) (c.aSh % 16) (c.bSh % 16) c.zs c.bank c.goff

/-- A record of the matrix engine (R299, R340). -/
def State.matRecord (s : State) (core : Nat) (c : MatCmd) (cause va detail : Nat) (stall : Bool) : State :=
  s.report { (if stall then stalledRec cause 2 c.ctx (s.ownerOf c.ctx) va c.info detail
    else plainRec cause 2 c.ctx (s.ownerOf c.ctx) va c.info detail) with die := some (dieOf core) } true (stall || decide (cause / 2 ^ 8 = 9)) |>.mapCmd
    core c.id fun x => if stall then { x with parkedOn := cause } else x

/-- The matrix queue halts at a command (R340): no record where a retry meets the same cause on the same page (R330). -/
def State.stallCmd (s : State) (core : Nat) (c : MatCmd) (cause va : Nat) : State :=
  let s := s.mapCmd core c.id fun x => { x with stalled := some cause, stallVa := va }
  if c.parkedOn = cause ∧ c.stallVa / 65536 = va / 65536 then s
  else s.matRecord core c cause va (whereWord s.tap.position core c.fg) true

/-- A command leaves the queue: its token clears, and what it wrote raises the floors (R77, R222, R225). -/
def State.endCmd (s : State) (core id : Nat) : State :=
  match s.cmd? core id with
  | none => s
  | some c =>
    let launch := ((s.pad? core).map (·.launch)).getD 0
    let s := (s.mapPad core fun p => { p with mq := p.mq.filter fun x => decide (x.id ≠ id) }).raiseLaunch launch c.maxWt
    if c.inst = 0 then s
    else (s.finishLanes core c.fg c.lanes c.inst []).mapLanes core c.fg c.lanes fun _ t => t.raiseFloor c.maxWt

/-- A command fails: a deferred record, and the token clears (R340). -/
def State.failCmd (s : State) (core : Nat) (c : MatCmd) (cause va : Nat) : State :=
  (s.matRecord core c cause va (whereWord s.tap.position core c.fg) false).endCmd core c.id

/-- An address that a command met cannot be used (R340, R347, R367). -/
def State.badCmd (s : State) (core : Nat) (c : MatCmd) (cause va : Nat) : State :=
  if cause = 0x0803 then s.awaitAts c.id core c.fg c.ctx va
  else if eftCause cause then s.stallCmd core c cause va
  else s.failCmd core c (if cause = 0x0911 then 0x0901 else cause) va

/-- The status word's update: FLAGS ORed, SAT added, as one read-modify-write at its home (R227). The command is marked once
the update has been made or sent; a home whose line a guest die holds takes it back first (R63, R260). -/
def State.statUpdate (s : State) (p : Pad) (c : MatCmd) (va : Nat) : State × Option Nat :=
  let x := c.sat % 2 ^ 32 * 2 ^ 32 + c.flags
  let sent := fun (s : State) => s.mapCmd p.core c.id fun y => { y with statSent := true }
  match s.engineRes (c.asEntry p 0) va true with
  | (s, .bad k) => (s, some k)
  | (s, .at_ l) =>
    match l with
    | .spad core off =>
      let old := leValue (p.scratchBytes off 8)
      (sent (s.mapPad core fun q => q.setBytes off (leBytes 8 (atomOp 13 64 old x 0)) (s.coreClk core)), none)
    | .blank _ _ => (s, some 0x0200)
    | .remote m pa =>
      if s.maySend (s.ownerOf c.ctx) then
        (sent (s.sendPacket m (s.ownerOf c.ctx) 2 c.id pa [13, 1, 1, x, 0, c.ctx, va, c.flags % 32]), none)
      else (s.refuseSend m (s.ownerOf c.ctx), some 0x0710)
    | .mem k =>
      match s.hostFault (s.ownerOf c.ctx) k with
      | some y => (s, some y)
      | none =>
        if s.stackGone k then (s, some 0x0911)
        else if !s.ownReady 0 k 8 then (s.ownWait k 8, none)
        else (sent (s.ownStore k (leBytes 8 (atomOp 13 64 (leValue (s.mem.latestBytes k 8)) x 0))), none)

/-- A command's requests to other modules have been answered, and its writes to host memory are visible (R77, R225). -/
def State.cmdQuiet (s : State) (c : MatCmd) : Bool :=
  decide (c.hostWt ≤ s.dieClk 0) && s.fabric.packets.all fun q => decide (q.ref ≠ c.id)

/-- A command whose bank work is done updates its status word and completes (R222, R223, R225, R227, R340). -/
def State.completeCmd (s : State) (core : Nat) (c : MatCmd) : State :=
  let stat := shAddr38 c.a
  if stat = 0 ∨ c.kind = 3 ∨ c.kind = 4 then s.endCmd core c.id
  else if c.statSent then (if s.cmdQuiet c then s.endCmd core c.id else s)
  else match s.pad? core with
    | none => s
    | some p =>
      match s.statUpdate p c stat with
      | (s, none) => match s.cmd? core c.id with
        | some x => if x.statSent && s.cmdQuiet x then s.endCmd core c.id else s
        | none => s
      | (s, some k) =>
        if eftCause k then s.badCmd core c k stat
        else (s.matRecord core c 0x0330 stat (c.flags % 32) false).endCmd core c.id

/-- The steps of an `mma` command (R222). -/
def MatCmd.stepCount (c : MatCmd) : Nat := shExt0 c.a / 64

/-- One step of an `mma` (R123, R347). -/
def State.mmaStep (s : State) (p : Pad) (c : MatCmd) : State :=
  if c.stepCount ≤ c.steps then s.mapCmd p.core c.id fun x => { x with applied := true }
  else
    let x := s.kStep p c
    let s := x.1.mapCmd p.core c.id fun y =>
      { y with steps := y.steps + 1, flags := y.flags ||| x.2, applied := decide (c.stepCount ≤ c.steps + 1) }
    if p.stepBad c then s.matRecord p.core c 0x0901 (shBase c.a) (whereWord s.tap.position p.core c.fg) false else s

/-- Bytes of an accumulator tile that a fill reads: its rows, and for N4 the scale words behind them. -/
def accBytes (sh : Shape) : Nat := 128 * shRowBytes sh + (if shFmt sh = 0 then 2048 else 0)

/-- Address of byte k of an accumulator tile, and the bytes to the end of its row or of the scale words (R226). -/
def accAddr (sh : Shape) (a64 k : Nat) : Nat × Nat :=
  let rb := shRowBytes sh
  if k < 128 * rb then (moveAddr a64 (k / rb * shStep sh 1 + (k % rb : Nat)), rb - k % rb)
  else (shScale sh + (k - 128 * rb), accBytes sh - k)

/-- A row of a tile starts misaligned for its element (R203, R340). -/
def accMisaligned (sh : Shape) (a64 k : Nat) : Bool :=
  let rb := shRowBytes sh
  decide (k < 128 * rb ∧ k % rb = 0) && decide ((accAddr sh a64 k).1 % fmtAlign (shFmt sh) ≠ 0)

/-- `acc.ld` reads its tile on; nothing of the bank is written before the whole tile is read (R225, R340). -/
def State.accFetch : Nat → State → Nat → Nat → State
  | 0, s, _, _ => s
  | fuel + 1, s, core, id =>
    match s.pad? core, s.cmd? core id with
    | some p, some c =>
      let k := c.buf.length
      if accBytes c.a ≤ k then s
      else
        let at_ := accAddr c.a c.addr k
        if accMisaligned c.a c.addr k then s.failCmd core c 0x0203 at_.1
        else
          let n := min at_.2 (64 - at_.1 % 64)
          let floor := ((s.thread? core c.fg (leastD 0 c.lanes)).getD Thread.gone).floor
          match s.engineRead (c.asEntry p floor) at_.1 n floor with
          | (s, .waits) => s
          | (s, .bad x) => s.badCmd core c x at_.1
          | (s, .bytes bs) =>
            State.accFetch fuel (s.mapCmd core id fun y => { y with buf := y.buf ++ bs, parkedOn := 0 }) core id
    | _, _ => s

/-- The bank filled from the tile that has been read (R225). -/
def State.accFill (s : State) (core : Nat) (c : MatCmd) : State :=
  let s := (upFrom 0 128).foldl (fun (s : State) (i : Nat) =>
    (upFrom 0 128).foldl (fun (s : State) (j : Nat) => s.accPut core c.bank i j (accIn c.a c.buf i j)) s) s
  s.mapCmd core c.id fun y => { y with applied := true, buf := [] }

/-- Bytes written from an address on, sector by sector; what stopped it, with its address, or the largest write times of
its writes and of those to host memory. -/
def State.engineWriteAll : Nat → State → Entry → Nat → List Byte → Nat × Nat → State × Put × Nat
  | 0, s, _, va, _, wt => (s, .done wt.1 wt.2, va)
  | fuel + 1, s, e, va, bs, wt =>
    if bs.isEmpty then (s, .done wt.1 wt.2, va)
    else
      let n := 64 - va % 64
      match s.engineWrite e va (bs.take n) with
      | (s, .done w host) =>
        State.engineWriteAll fuel s e ((va + n) % 2 ^ 64) (bs.drop n) (max wt.1 w, max wt.2 host)
      | (s, x) => (s, x, va)

/-- `acc.st` writes its next row (R225, R340). -/
def State.accRow (s : State) (p : Pad) (c : MatCmd) : State :=
  let i := c.rows
  let rb := shRowBytes c.a
  let va := (accAddr c.a c.addr (i * rb)).1
  let out := rowOut c.a ((upFrom 0 128).map fun j => s.accGet p.core c.bank i j)
  let bad := orFlags ((upFrom 0 128).map fun j => s.accFlag p.core c.bank i j)
  if accMisaligned c.a c.addr (i * rb) then s.failCmd p.core c 0x0203 va
  else match s.engineWriteAll (rb + 1) (c.asEntry p 0) va out.1 (c.maxWt, c.hostWt) with
    | (s, .waits, _) => s
    | (s, .bad x, at_) => s.badCmd p.core c x at_
    | (s, .done wt host, _) => match s.engineWriteAll 17 (c.asEntry p 0) (shScale c.a + 16 * i) out.2.1 (wt, host) with
      | (s, .waits, _) => s
      | (s, .bad x, at_) => s.badCmd p.core c x at_
      | (s, .done wt host, _) => s.mapCmd p.core c.id fun y =>
        { y with rows := i + 1, maxWt := wt, hostWt := host, parkedOn := 0, flags := y.flags ||| out.2.2.1 ||| bad,
                 sat := y.sat + out.2.2.2 }

/-- The command in the sequencer goes one step on (R222, R223, R225): a K step, a whole fill, a row of a store-out, or
its completion. -/
def State.runMatrix (s : State) (core : Nat) : State :=
  match s.pad? core with
  | none => s
  | some p => match p.mq with
    | [] => s
    | c :: _ =>
      if c.stalled.isSome || s.matrixHeld core c then s
      else if c.applied then s.completeCmd core c
      else match c.kind with
        | 3 => (s.accClear core c.bank).mapCmd core c.id fun x => { x with applied := true }
        | 4 =>
          let s := s.accFetch (accBytes c.a + 1) core c.id
          match s.cmd? core c.id with
          | none => s
          | some c => if accBytes c.a ≤ c.buf.length then s.accFill core c else s
        | 5 =>
          if c.rows < 128 then s.accRow p c
          else if s.cmdQuiet c then
            s.mapCmd core c.id fun x => { x with applied := true }
          else s
        | _ => s.mmaStep p c

/-- The command in the sequencer has halted (R340). -/
def State.matrixHalted (s : State) (core : Nat) : Bool :=
  match s.pad? core with
  | none => false
  | some p => match p.mq with
    | [] => false
    | c :: _ => c.stalled.isSome

/-! ### Meanings -/

/-- R123, R222, R225: the sequencer takes a step, where it does not halt. -/
def execMatrixStep (core : Nat) (s : State) : Result :=
  let s' := s.runMatrix core
  .next (if s'.matrixHalted core then s else s')

/-- R340: the sequencer halts, where its next step meets a page that is not present. -/
def execMatrixQueueStall (core : Nat) (s : State) : Result :=
  let s' := s.runMatrix core
  .next (if s'.matrixHalted core then s' else s)

end Sys2Proof.Machine
end

