-- ==== Sys2Proof/Machine/TaskOps.lean ====
section
/-! DEFINITION. The life of a task: view declarations and view-table records (R232, R233, R235), `exit` and the end of a task
(R237, R238, R343), safe points (R243), what holds a thread until its accesses are complete (R246), and when a slot is
free again (R46, R313). -/

namespace Sys2Proof.Machine

/-! ### View declarations (R232, R233) -/

/-- Tile n of a 64-byte declaration list; an absent tile has 0 pages. -/
def declTile (bs : List Byte) (n : Nat) : Tile :=
  { base := leValue ((bs.drop (16 * n)).take 8) % 2 ^ 57 / 4096 * 4096
    pages := leValue ((bs.drop (16 * n + 8)).take 4) % 2 ^ 17
    fmt := leValue ((bs.drop (16 * n + 12)).take 1)
    op := leValue ((bs.drop (16 * n + 13)).take 1) }

/-- The four tiles of a list. -/
def declTiles (bs : List Byte) : List Tile := (upFrom 0 4).map (declTile bs)

/-- Two tiles overlap. -/
def Tile.meets (a b : Tile) : Bool :=
  decide (a.pages ≠ 0 ∧ b.pages ≠ 0 ∧ a.base < b.base + b.pages * 4096 ∧ b.base < a.base + a.pages * 4096)

/-- A present tile passes R233, but for overlaps. -/
def State.tileOk (s : State) (ctx : Nat) (t : Tile) : Bool :=
  decide (t.pages = 0) ||
  (decide (t.pages ≤ 65536 ∧ t.fmt < 5 ∧ t.op < 6 ∧ (t.op < 3 ∨ t.fmt < 3) ∧ t.base + t.pages * 4096 ≤ spadWindow) &&
    !s.rangeBad ctx true t.pages t.base (t.base + t.pages * 4096))

/-- The list at an address, when it is valid (R233). -/
def State.viewList (s : State) (ctx va : Nat) : Option (List Tile) :=
  if va % 64 ≠ 0 ∨ 2 ^ 57 ≤ va ∨ spadWindow ≤ va then none
  else match s.devRead ctx va 64 with
    | none => none
    | some bs =>
      let ts := declTiles bs
      let clash := (upFrom 0 4).any fun i => (upFrom 0 4).any fun j =>
        decide (i < j) && (atD (declTile [] 0) ts i).meets (atD (declTile [] 0) ts j)
      if ts.all (s.tileOk ctx) && !clash then some ts else none

/-! ### View-table records (R235) -/

/-- A byte field of a record. -/
def State.recByte (s : State) (ctx rec off : Nat) : Nat := s.devNum ctx (rec + off) 1

/-- The page map of each present tile, allocated and named in the record. -/
def State.addMaps (s : State) (ctx rec : Nat) : Nat → List Tile → Option State
  | _, [] => some s
  | n, t :: rest =>
    if t.pages = 0 then s.addMaps ctx rec (n + 1) rest
    else match s.poolTake ctx (16 * t.pages) 16 true with
      | none => none
      | some (s, a) => (s.devWrite ctx (rec + 0x40 + 32 * n) (leBytes 8 a)).addMaps ctx rec (n + 1) rest

/-- A task's record and maps in the context's pool (R235); none when the pool is full. -/
def State.addRecord (s : State) (ctx launch decl slot parent : Nat) (tiles : List Tile) : Option (State × Nat) :=
  match s.poolTake ctx 256 256 true with
  | none => none
  | some (s, a) =>
    let s := s.devWrite ctx a (leBytes 8 decl ++ [1#8, BitVec.ofNat 8 slot])
    let s := s.devWrite ctx (a + 0x10) (leBytes 8 parent)
    match s.addMaps ctx a 0 tiles with
    | none => none
    | some s => some (s.mapMem fun m =>
        { m with records := m.records ++ [{ ctx := ctx, va := a, launch := launch, target := none, tiles := tiles }] }, a)

/-- The tiles of a task by its view-table record: those it started with, or as its list declares them where the module does
not know the record yet (R233, R235). -/
def State.recordTiles (s : State) (ctx rec : Nat) : List Tile :=
  if rec = 0 then []
  else match s.mem.records.find? fun r => decide (r.ctx = ctx ∧ r.va = rec) with
    | some r => r.tiles
    | none => ((s.devRead ctx (s.devNum ctx rec 8) 64).map declTiles).getD []

/-- STATE of a record written. -/
def State.setRecState (s : State) (ctx rec v : Nat) : State := s.devWrite ctx (rec + 8) [BitVec.ofNat 8 v]

/-- The dispatchers may start work of a context: no pre-emption of it is under way (R52), and it has not been stopped (R368). -/
def State.mayStart (s : State) (ctx : Nat) : Bool :=
  (s.preempt? ctx).isNone && s.ctxs.all fun c => decide (c.id ≠ ctx) || !c.cutOff

/-! ### The end of a task (R238, R343) -/

/-- The successor addresses up to the first with a nonzero bit in [5:0], and that one. -/
def goodSuccs : List Nat → List Nat × Option Nat
  | [] => ([], none)
  | a :: rest =>
    if a % 64 ≠ 0 then ([], some a) else
      let r := goodSuccs rest
      (a :: r.1, r.2)

/-- The successors whose records are allocated with the parent's KIDS and LIVEKIDS (R235, R238). -/
def State.addKids (s : State) (p : Pad) : Nat → List Nat → Option State
  | _, [] => some s
  | slot, _ :: rest =>
    match s.addRecord p.ctx p.launch (s.devNum p.ctx p.vrec 8) slot p.vrec p.views with
    | none => none
    | some (s, a) =>
      let s := s.devWrite p.ctx (p.vrec + 0x18 + 8 * slot) (leBytes 8 a)
      let s := s.devWrite p.ctx (p.vrec + 0x0A) [BitVec.ofNat 8 (s.recByte p.ctx p.vrec 0x0A % 16 ||| 2 ^ slot)]
      s.addKids p (slot + 1) rest

/-- A stalled record of the dispatcher about a task (R343). -/
def State.taskRecord (s : State) (p : Pad) (cause va : Nat) (stall : Bool) : State :=
  let detail := whereWord s.tap.position p.core 0
  let queue := ((s.launch? p.launch).map (·.queue)).getD 0
  let r := if stall then stalledRec cause 9 p.ctx (s.ownerOf p.ctx) va queue detail
    else plainRec cause 9 p.ctx (s.ownerOf p.ctx) va queue detail
  s.report { r with die := some (dieOf p.core) } true stall

/-- A successor pushed onto a die's stack under a new name, or beyond 4,096 entries into the view pool (R44, R343). -/
def State.pushSpawn (s : State) (die : Nat) (x : Spawn) : Option State :=
  let x := { x with num := s.nextId }
  let s := s.bump
  if ((atD [] s.spawns die).filter fun y => y.pool.isNone).length < 4096 then
    some { s with spawns := modifyAt s.spawns die fun l => x :: l }
  else match s.poolTake x.ctx 64 64 false with
    | none => none
    | some (s, a) => some { s with spawns := modifyAt s.spawns die fun l => { x with pool := some a } :: l }

/-- Successor i of a task. -/
def State.spawnOf (s : State) (p : Pad) (i lb : Nat) : Spawn :=
  { launch := p.launch, ctx := p.ctx, lb := lb, pindex := p.index, slot := i,
    vrec := if p.vrec = 0 then 0 else s.devNum p.ctx (p.vrec + 0x18 + 8 * i) 8, seed := p.seed, pool := none }

/-- Successors still to be pushed, in descending slot order (R44). -/
def State.pushSuccs (s : State) (p : Pad) : List (Nat × Nat) → State × Bool
  | [] => (s, true)
  | (i, lb) :: rest =>
    match s.pushSpawn (dieOf p.core) (s.spawnOf p i lb) with
    | none => (s, false)
    | some s => (s.mapPad p.core fun q => { q with nextPush := q.nextPush + 1 }).pushSuccs p rest

/-- An ended task pushes its successors as far as it can, and then becomes a tadpole or finishes (R238, R239, R343).
`nextPush` is 0 until the records are there, then 1 more than the successors pushed. -/
def State.endTask (s : State) (core : Nat) : State :=
  match s.pad? core with
  | none => s
  | some p =>
    if p.pushed || p.fgs.any fun g => !g.exited then s
    else
      let ok := goodSuccs (p.succ.getD [])
      let ready : Option State :=
        if p.nextPush ≠ 0 then some s
        else (if p.vrec = 0 then some s
          else (s.addKids p 0 ok.1).map fun s => s.devWrite p.ctx (p.vrec + 0x0B) [BitVec.ofNat 8 ok.1.length]).map fun s =>
            s.mapPad core fun q => { q with nextPush := 1 }
      match ready with
      | none => s.mapPad core fun q => { q with nextPush := 0 }
      | some s =>
        let todo := ((mapFrom (fun i lb => (i, lb)) 0 ok.1).reverse).drop (((s.pad? core).map (·.nextPush)).getD 1 - 1)
        match s.pushSuccs p todo with
        | (s, false) => s
        | (s, true) =>
          let s := s.mapPad core fun q => { q with pushed := true }
          let s := match ok.2 with
            | some bad => s.taskRecord p 0x0404 bad false
            | none => s
          if p.vrec = 0 then s
          else (s.setRecState p.ctx p.vrec (if ok.1.isEmpty then 3 else 2)).mapMem fun m =>
            { m with records := m.records.map fun r =>
                if r.ctx = p.ctx ∧ r.va = p.vrec then { r with die := some (dieOf p.core) } else r }

/-- What an ended task stalls with: no room for its successors' records, or for the entries (R343). -/
def State.endStall (s : State) (core : Nat) : Option Nat :=
  match s.pad? core with
  | none => none
  | some p =>
    if p.pushed || p.fgs.any fun g => !g.exited then none
    else if p.nextPush = 0 then some 0x0401 else some 0x0405

/-- A task ends: its successors are pushed, and a stall is reported where the end did not stall with that cause before
(R330, R343). -/
def State.finishTask (s : State) (core : Nat) : State :=
  let s := s.endTask core
  match s.endStall core, s.pad? core with
  | some c, some p =>
    if p.endCause = c then s
    else (s.mapPad core fun q => { q with endCause := c }).taskRecord p c (if c = 0x0401 then p.vrec else 0) true
  | _, _ => s

/-- The slot of a pad group may return to the free pool (R46, R238, R313). -/
def State.slotFree (p : Pad) : Bool :=
  p.fgs.all (fun g => g.exited && decide (g.level = 0) && !g.halted) && p.pushed && decide (p.done = p.notify) &&
    p.mq.isEmpty && p.ring.isEmpty

/-- A set of barrier words is over: every grid pad group of its unit, for a domain's of its launch, is gone (R342). -/
def State.unitOver (s : State) (u : UnitBars) : Bool :=
  s.pads.all fun p => decide (p.launch ≠ u.launch ∨ p.slot.isSome ∨ (u.level ≠ 4 ∧ p.unit ≠ u.unit))

/-- One set of barrier words dropped; a spilled one gives its room in its die's home buffer back (R342). -/
def State.dropUnit (s : State) (u : UnitBars) : State :=
  let s : State := { s with units := s.units.filter fun x => decide (x ≠ u) }
  if !u.spilled then s
  else
    let n := (atD DieState.zero s.dies u.die).spill - u.words.length
    { s with dies := modifyAt s.dies u.die fun d => { d with spill := n }
             service := { s.service with detail := tabSet 0 s.service.detail (8 * u.die) n } }

/-- The barrier words of a launch's units that are over go, spilled or not (R342). -/
def State.dropUnits (s : State) (launch : Nat) : State :=
  (s.units.filter fun u => decide (u.launch = launch) && s.unitOver u).foldl (fun s u => s.dropUnit u) s

/-- A pad group leaves its core (R46): its scratchpad stays as it is until the core's next task (R204). -/
def State.freeCore (s : State) (core : Nat) : State :=
  match s.pad? core with
  | none => s
  | some p =>
    let spent := (core, p.scratch) :: s.spent.filter fun x => decide (x.1 ≠ core)
    let s := { s with pads := s.pads.filter fun q => decide (q.core ≠ core), spent := spent }
    if p.slot.isSome then s else s.dropUnits p.launch

/-- The slot returns to the free pool (R46, R238). An ended task whose push stalled tries again first. -/
def State.releaseSlot (s : State) (core : Nat) : State :=
  let s := s.finishTask core
  match s.pad? core with
  | none => s
  | some p => if State.slotFree p then s.freeCore core else s

/-! ### `exit` (R237) -/

/-- A thread's accesses are all complete. -/
def Thread.quiet? (t : Thread) : Bool := t.outs.all (·.ready) && t.tokHeld.isEmpty

/-- The successor list that an `exit` word names: bits [56:0] of each k pair (R237). -/
def FileGroup.succList (g : FileGroup) (d n : Nat) : List Nat :=
  (upFrom 0 n).map fun i => ((g.kreg (d + 2 * i + 1)).toNat * 2 ^ 32 + (g.kreg (d + 2 * i)).toNat) % 2 ^ 57

/-- A thread whose registers are freed (R46). -/
def Thread.freeRegs (t : Thread) : Thread := { t with regs := [] }

/-- A thread exits (R191, R237, R304). -/
def State.exitThread (s : State) (p : Pad) (fg thread d n : Nat) : State :=
  let old := (s.thread? p.core fg thread).getD Thread.gone
  let level := old.level
  let s := s.raiseLaunch p.launch (max old.mark old.floor)
  let s := s.mapThread p.core fg thread fun t => { t with exited := true, wait := .ready, barrier := .no, outs := [] }
  let seed := ((s.thread? p.core 0 0).getD Thread.gone).rng
  let s := if fg = 0 ∧ thread = 0 then s.mapPad p.core fun q => { q with seed := seed } else s
  let s := match s.fg? p.core fg with
    | none => s
    | some g =>
      if g.threads.all (·.exited) then
        let s := if fg = 0 then s.mapPad p.core fun q => { q with succ := some (g.succList d n) } else s
        s.mapFg p.core fg fun g => { g with exited := true, threads := g.threads.map Thread.freeRegs }
      else s
  let s := (s.mapFg p.core fg fun g => g.leaveHandler level).deliverPending p.core fg
  let s := s.exitArrivals p fg thread
  match s.pad? p.core with
  | none => s
  | some q => if q.fgs.all (·.exited) then s.finishTask p.core else s

/-- The lines of memory that the 256-byte lines of a range of addresses lie in; lines not present are skipped (R246,
R327). -/
def State.rangeLines (s : State) (ctx lo hi : Nat) : List Nat :=
  (upFrom (lo / 256) ((hi - lo) / 256)).filterMap fun l => (s.devKey ctx (l * 256) false).map lineOf

/-- The lines of other modules that the 256-byte lines of a range of addresses lie in: module and line. -/
def State.rangeFar (s : State) (ctx lo hi : Nat) : List (Nat × Nat) :=
  (upFrom (lo / 256) ((hi - lo) / 256)).filterMap fun l => match s.walk ctx (l * 256) with
    | none => none
    | some p => match s.pageLoc p (l * 256) with
      | .remote m pa => some (m, lineOf pa)
      | _ => none

/-- What a held thread waits for is there: it exits, reaches its safe point, or goes on behind its `dcwb` (R237, R243,
R246). A thread below the current handler level keeps its waiting state (R303). -/
def State.settleThread (s : State) (core fg thread : Nat) : State :=
  match s.pad? core, s.thread? core fg thread with
  | some p, some t =>
    if some t.level ≠ (s.fg? core fg).map (·.level) then s
    else match t.wait with
    | .exiting d n => if t.quiet? then s.exitThread p fg thread d n else s
    | .saving mask =>
      if !t.quiet? then s
      else if (s.preempt? p.ctx).isNone then s.mapThread core fg thread fun t => { t with wait := .ready }
      else s.mapThread core fg thread fun t => { t with wait := .ready, parked := some (BitVec.ofNat 64 mask) }
    | .cache lo hi =>
      let lines := s.rangeLines p.ctx lo hi
      let seen := t.own.all fun x => decide (lineOf x.1 ∉ lines ∨ x.2 ≤ s.dieClk (homeOf (lineOf x.1)))
      let sent := s.mem.ops.all fun o =>
        decide (o.core ≠ core ∨ o.fg ≠ fg ∨ thread ∉ o.lanes ∨ o.va + 8 ≤ lo ∨ hi ≤ o.va) || !o.kind.isStore
      if seen && sent then
        let keep := fun (c : Copy) =>
          decide (c.line ∉ lines ∨ (c.l1 = true ∧ c.unit ≠ core) ∨ (c.l1 = false ∧ c.unit ≠ sliceOf core))
        let far := s.rangeFar p.ctx lo hi
        let keepFar := fun (c : Replica) =>
          decide ((c.module, c.line) ∉ far ∨ (c.l1 = true ∧ c.unit ≠ core) ∨ (c.l1 = false ∧ c.unit ≠ sliceOf core))
        let s := s.mapMem fun m => { m with copies := m.copies.filter keep, replicas := m.replicas.filter keepFar }
        s.mapThread core fg thread fun t => { t with wait := .ready }
      else s
    | _ => s
  | _, _ => s

/-- Every held thread of a file group's current level is settled, in thread order. -/
def State.settleLevel (s : State) (core fg : Nat) : State :=
  match s.fg? core fg with
  | none => s
  | some g => g.indices.foldl (fun (s : State) (t : Nat) => s.settleThread core fg t) s

/-- Every held thread of a file group is settled; where the exits end a handler level, those of the level below it
too (R303, R304). -/
def State.settleFg (s : State) (core fg : Nat) : State :=
  ((s.settleLevel core fg).settleLevel core fg).settleLevel core fg

end Sys2Proof.Machine
end

