-- ==== Sys2Proof/Machine/ImageOps.lean ====
section
/-! DEFINITION. The context image (R31-R36, R53, R377): the sections that a save writes, in their layout, and what a restore
reads back (R54). -/

namespace Sys2Proof.Machine

/-! ### Sections of a saved image -/

/-- Bytes to be written at an address. -/
abbrev Chunk := Nat × List Byte

/-- An address moved up to a 256-byte boundary (R36). -/
def up256 (a : Nat) : Nat := (a + 255) / 256 * 256

/-- A barrier word (R34). -/
def BarWord.value (b : BarWord) : Nat := b.exp % 2 ^ 16 * 2 ^ 16 + b.phase % 2 ^ 16

/-- A barrier word read back (R34). -/
def BarWord.ofValue (v : Nat) : BarWord := { exp := v / 2 ^ 16 % 2 ^ 16, phase := v % 2 ^ 16, maxMark := 0, seen := [] }

/-- The bytes of barrier words. -/
def barBytes (l : List BarWord) : List Byte := l.flatMap fun b => leBytes 4 b.value

/-- The waiting `cm.wait` of a thread: its word (R196). -/
def State.cmWaitPc (s : State) (core fg lane : Nat) (t : Thread) : Nat :=
  match s.mem.ops.find? fun o => decide (o.core = core ∧ o.fg = fg ∧ lane ∈ o.lanes) &&
      (match o.kind with
       | .cmWait _ _ _ _ => true
       | _ => false) with
  | none => t.pc.toNat
  | some o => match t.outs.find? fun x => decide (x.inst = o.inst) with
    | some x => x.pc.toNat
    | none => t.pc.toNat

/-- PC of a thread as it is saved (R52, R196, R310): a halted file group's level-2 threads stand at the level-2 return
word. -/
def State.savedPc (s : State) (core fg lane : Nat) (g : FileGroup) (t : Thread) : Nat :=
  if t.level = 2 then g.bank2.epc.toNat % 2 ^ 57
  else match t.wait with
    | .cmWait => s.cmWaitPc core fg lane t
    | _ => t.pc.toNat

/-- LIVE of a thread (R35, R52, R243). -/
def Thread.savedLive (t : Thread) : Nat :=
  if t.exited then 0
  else match t.parked with
    | some m => m.toNat
    | none => 2 ^ 56 - 2

/-- WAITKIND, WAITSUB and LEVEL of a thread (R35). -/
def Thread.savedWait (t : Thread) : Nat × Nat × Nat :=
  if t.exited then (0, 0, 0)
  else match t.barrier with
    | .waiting level bar => (3, bar, level)
    | .arriving level bar _ _ => (3, bar, level)
    | .released => (0, 0, 0)
    | .no => match t.wait with
      | .eft => (1, t.waitSub, 0)
      | .sleep => (2, 0, 0)
      | .cmWait => (4, 0, 0)
      | .reconv => (5, 0, 0)
      | _ => (0, 0, 0)

/-- TSTATE (R35). -/
def Thread.tstate (t : Thread) : Nat :=
  let w := t.savedWait
  let arg := if w.1 = 2 ∨ w.1 = 4 then t.waitArg.toNat else 0
  let held := (upFrom 0 8).foldl (fun n k => if t.tokHeld.any fun h => h.1.testBit k then n + 2 ^ k else n) 0
  arg * 2 ^ 32 + w.1 * 2 ^ 26 + w.2.1 % 16 * 2 ^ 22 + w.2.2 * 2 ^ 19 +
    (if t.system ∧ t.level ≠ 0 then 2 ^ 18 else 0) + (if 1 ≤ t.level then 2 ^ 17 else 0) +
    (if t.exited then 2 ^ 16 else 0) + held * 2 ^ 8 + 128 + t.preds.toNat

/-- A thread entry (R35). -/
def State.threadBytes (s : State) (core fg lane : Nat) (g : FileGroup) (t : Thread) : List Byte :=
  leBytes 8 (s.savedPc core fg lane g t) ++ leBytes 8 t.savedLive ++ leBytes 8 t.rng.toNat ++ leBytes 8 t.tstate

/-- The live registers of a thread in ascending order (R34). -/
def Thread.liveBytes (t : Thread) : List Byte := (setBits t.savedLive 56).flatMap fun r => leBytes 4 (t.reg r).toNat

/-- The level-1 bank as it is saved (R34, R302, R310). -/
def FileGroup.trapBytes (g : FileGroup) : List Byte :=
  if g.level = 0 then List.replicate 32 0
  else
    let b := g.bank1
    leBytes 4 b.cause.toNat ++ leBytes 8 b.epc.toNat ++ leBytes 8 b.addr.toNat ++ leBytes 4 b.info.toNat ++
      leBytes 4 b.word.toNat ++ leBytes 4 (b.nht % 2 ^ 16 * 2 ^ 16 + (if b.pmode then 8 else 0) + 1)

/-- A file-group record (R34). -/
def State.fgBytes (s : State) (core fg : Nat) (g : FileGroup) : List Byte :=
  let ts := mapFrom (fun i t => (i, t)) 0 g.threads
  leBytes 2 g.threads.length ++
    [BitVec.ofNat 8 ((if g.exited then 1 else 0) + (if 1 ≤ g.level then 2 else 0))] ++ List.replicate 5 0 ++
    ((upFrom 0 32).flatMap fun k => leBytes 4 (g.kreg k).toNat) ++ barBytes g.bars ++ g.trapBytes ++
    (g.tscr.flatMap fun w => leBytes 4 w.toNat) ++ List.replicate 32 0 ++
    (ts.flatMap fun x => s.threadBytes core fg x.1 g x.2) ++ g.threads.flatMap Thread.liveBytes

/-- The matrix sequencer's state (R33, R209, R223). -/
def Pad.seqWord (p : Pad) : Nat :=
  match p.mq with
  | [] => 0
  | c :: _ => (c.stepCount - c.steps) * 2 ^ 32 + c.info

/-- Bytes of the accumulator-store image (R33, R111). -/
def State.accImage (s : State) (core : Nat) : List Byte :=
  (upFrom 0 32768).flatMap fun i => leBytes 10 (tabGet 0 s.acc (core * 32768 + i)).toNat

/-- The pad group holds, in an image, the words of its barriers of a level above the pad group: of the pad groups of the slice
group, the unit or the launch that are still there, it is the first, on the lowest die (R35; that the next one holds them
where the unit's first pad group has left is a DESIGN CHOICE, log entry 75). -/
def State.leads (s : State) (p : Pad) (level : Nat) : Bool :=
  s.pads.all fun q => decide (q.launch ≠ p.launch ∨ q.slot.isSome ∨ p.core ≤ q.core ∨ (level ≠ 4 ∧ q.unit ≠ p.unit) ∨
    (level = 2 ∧ sliceOf q.core ≠ sliceOf p.core))

/-- Scratchpad words of the barriers above the pad group (R35, R204, R207). -/
def State.unitWords (s : State) (l : Launch) (p : Pad) : List (Nat × List BarWord) :=
  if p.slot.isSome then []
  else
    let words := fun level => (s.units.find? fun u => u.serves p level).map (·.words)
    let at_ := fun (b : Bool) (off : Nat) (w : Option (List BarWord)) => match b, w with
      | true, some w => [(off, w)]
      | _, _ => []
    at_ (decide (1 ≤ p.grain) && s.leads p 2) (p.top - 2144) (words 2) ++
      at_ (decide (p.grain = 2) && s.leads p 3) (p.ctl + 0x10) (words 3) ++
      at_ (l.dom && s.leads p 4) (p.ctl + 0x20) (words 4)

/-- The save words of barriers above the pad group start as 0: those of levels that GRAIN does not use, and STKBAR and DOMBAR of
every pad group but those named (R35, R207). -/
def Pad.clearWords (p : Pad) : Pad :=
  let q := (p.setBytes (p.ctl + 0x10) (List.replicate 16 0) 0).setBytes (p.ctl + 0x20) (List.replicate 16 0) 0
  if p.grain = 0 ∨ p.slot.isSome = true then q.setBytes (p.top - 2144) (List.replicate 32 0) 0 else q

/-- The scratchpad image of a pad group. -/
def State.padImage (s : State) (l : Launch) (p : Pad) : List Byte :=
  let q := (s.unitWords l p).foldl (fun (q : Pad) x => q.setBytes x.1 (barBytes x.2) 0) p.clearWords
  q.scratchBytes 0 q.top

/-- The sections of one pad group behind an address: its record, the chunks, and the next free address (R33, R36). -/
def State.padSections (s : State) (l : Launch) (p : Pad) (at_ : Nat) : List Byte × List Chunk × Nat :=
  let acc := up256 (at_ + p.top)
  let fgAt := if p.accUsed then up256 (acc + 327680) else acc
  let fgs := (mapFrom (fun i g => s.fgBytes p.core i g) 0 p.fgs).flatten
  let parent := if p.vrec = 0 then 0 else s.devNum p.ctx (p.vrec + 0x10) 8
  let rec_ := leBytes 8 p.index ++ [1, BitVec.ofNat 8 p.nf, BitVec.ofNat 8 (p.slot.getD 0xFF), BitVec.ofNat 8 p.unitPos] ++
    leBytes 4 p.top ++ leBytes 8 at_ ++ leBytes 8 (if p.accUsed then acc else 0) ++ barBytes p.bars ++
    leBytes 8 p.vrec ++ leBytes 8 p.seqWord ++ leBytes 8 fgAt ++ leBytes 8 parent
  (rec_, [(at_, s.padImage l p)] ++ (if p.accUsed then [(acc, s.accImage p.core)] else []) ++ [(fgAt, fgs)],
   up256 (fgAt + fgs.length))

/-- The sections of pad groups one after another. -/
def State.padsSections (s : State) (l : Launch) : Nat → List Pad → List Byte × List Chunk
  | _, [] => ([], [])
  | at_, p :: rest =>
    let x := s.padSections l p at_
    let y := s.padsSections l x.2.2 rest
    (x.1 ++ y.1, x.2.1 ++ y.2)

/-- A spawn-stack entry (R53). -/
def Spawn.bytes (x : Spawn) (die : Nat) : List Byte :=
  leBytes 8 x.lb ++ leBytes 8 x.pindex ++ [BitVec.ofNat 8 x.slot, BitVec.ofNat 8 die] ++ List.replicate 6 0 ++
    leBytes 8 x.vrec ++ leBytes 8 x.seed.toNat ++ List.replicate 24 0

/-- The spawn-stack entries of a launch, die by die from the bottom up (R53). -/
def State.launchSpawns (s : State) (id : Nat) : List (Nat × Spawn) :=
  (mapFrom (fun die l => ((l.filter fun x => decide (x.launch = id)).reverse).map fun x => (die, x)) 0 s.spawns).flatten

/-- The pad groups of a launch in core order. -/
def State.launchPads (s : State) (id : Nat) : List Pad :=
  let ps := s.pads.filter fun p => decide (p.launch = id)
  (sortUp (ps.map (·.core))).filterMap fun c => ps.find? fun p => decide (p.core = c)

/-- Every chunk of a saved image of a launch, in the order it is written: the sections, then the header's fields, then
KIND (R36, R53). DISPATCH holds a pair for each die of DIEMASK, and an empty section has address 0 (R373). -/
def State.imageChunks (s : State) (l : Launch) : List Chunk :=
  let im := l.image
  let dispatch := im + 256
  let dies := setBits l.dieMask 24
  let counters := dies.flatMap fun d => leBytes 8 (atD (0, 0) l.counters d).1 ++ leBytes 8 (atD (0, 0) l.counters d).2
  let spawn := up256 (dispatch + 16 * dies.length)
  let sp := s.launchSpawns l.id
  let stack : List Chunk := if sp.isEmpty then []
    else [(spawn, leBytes 8 sp.length ++ List.replicate 56 0 ++ sp.flatMap fun x => x.2.bytes x.1)]
  let trig := if sp.isEmpty then spawn else up256 (spawn + 64 + 64 * sp.length)
  let armed := s.triggers.filter fun e => decide (e.ctx = l.ctx ∧ e.launch = l.id)
  let table : List Chunk := if armed.isEmpty then []
    else [(trig, leBytes 8 armed.length ++ armed.flatMap fun e => leBytes 8 (e.armedDie.getD 0 * 2 ^ 40 + e.slot))]
  let recs := if armed.isEmpty then trig else up256 (trig + 8 + 8 * armed.length)
  let ps := s.launchPads l.id
  let body := s.padsSections l (up256 (recs + 128 * ps.length)) ps
  let bal := twos 64 (((s.ctx? l.ctx).map (·.balance)).getD 0)
  let at_ := fun (empty : Bool) (a : Nat) => leBytes 8 (if empty then 0 else a)
  [(dispatch, counters)] ++ stack ++ table ++ (if ps.isEmpty then [] else [(recs, body.1)]) ++ body.2 ++
  [(im + 0x0C, [BitVec.ofNat 8 (s.tap.position % 64)]), (im + 0x58, leBytes 8 bal), (im + 0x70, leBytes 4 ps.length),
   (im + 0x78, at_ ps.isEmpty recs), (im + 0x80, leBytes 8 dispatch), (im + 0x88, at_ sp.isEmpty spawn),
   (im + 0x90, at_ armed.isEmpty trig), (im + 6, leBytes 2 1)]

/-- Bytes cut at sector boundaries; the first argument bounds the pieces. -/
def sectorPieces : Nat → Nat → List Byte → List Chunk
  | 0, _, _ => []
  | fuel + 1, va, bs =>
    if bs.isEmpty then []
    else (va, bs.take (64 - va % 64)) :: sectorPieces fuel (va + (64 - va % 64)) (bs.drop (64 - va % 64))

/-- Every piece of a save that lies in memory here can be written now: no lease is about to lapse, and no guest die holds newer
bytes of its line (R63, R260, R375). -/
def State.pieceReady (s : State) (ctx : Nat) (c : Chunk) : Bool :=
  match s.devKey ctx c.1 true with
  | some k => s.ownReady 0 k c.2.length
  | none => true

/-- The bytes of a guest die that pieces of a save wait for are asked for (R260). -/
def State.pieceWait (s : State) (ctx : Nat) (c : Chunk) : State :=
  match s.devKey ctx c.1 true with
  | some k => s.ownWait k c.2.length
  | none => s

/-- Pieces written to a context's memory, here or by write packets to another module, up to the first that cannot be: one on
a page that is not there, whose send is refused, on a stack that is gone, or in host memory that the context is cut off
from (R283, R359, R365, R366, R377). -/
def State.savePieces (s : State) (ctx ref : Nat) : List Chunk → State × Option Nat
  | [] => (s, none)
  | (va, bs) :: rest =>
    match s.devLoc ctx va true with
    | some (.mem k) =>
      if s.stackGone k || (s.hostFault (s.ownerOf ctx) k).isSome then (s, some va)
      else (s.ownStore k bs).savePieces ctx ref rest
    | some (.remote m pa) =>
      if s.maySend (s.ownerOf ctx) then
        (s.sendPacket m (s.ownerOf ctx) 1 ref pa (bs.map (·.toNat))).savePieces ctx ref rest
      else (s.refuseSend m (s.ownerOf ctx), some va)
    | _ => (s, some va)

/-- Chunks written in order, up to the first byte that cannot be; those of the sections below `from_` have been
written (R377). -/
def State.saveChunks (s : State) (ctx ref image from_ : Nat) : List Chunk → State × Option Nat
  | [] => (s, none)
  | c :: rest =>
    let done := if image + 256 ≤ c.1 ∧ image + 256 ≤ from_ then from_ - c.1 else 0
    let bs := c.2.drop done
    match s.savePieces ctx ref (sectorPieces (bs.length + 1) (c.1 + done) bs) with
    | (s, some va) => (s, some va)
    | (s, none) => s.saveChunks ctx ref image from_ rest

/-! ### Reading an image (R54) -/

/-- A file group read back from its record of a context's memory (R34, R35, R54). -/
def State.readThread (s : State) (ctx at_ regsAt notify : Nat) (moved : Bool) : Thread × Nat :=
  let num := fun a n => s.devNum ctx a n
  let live := num (at_ + 8) 8 % 2 ^ 56 / 2 * 2
  let ts := num (at_ + 24) 8
  let rs := mapFrom (fun i r => (r, num (regsAt + 4 * i) 4)) 0 (setBits live 56)
  let kind := ts / 2 ^ 26 % 8
  let exited := ts.testBit 16
  let t := rs.foldl (fun (t : Thread) x => t.putReg x.1 (BitVec.ofNat 32 x.2))
    { Thread.gone with
      pc := BitVec.ofNat 57 (num at_ 8)
      rng := rngSeed (BitVec.ofNat 64 (num (at_ + 16) 8))
      preds := BitVec.ofNat 7 ts
      exited := exited
      system := ts.testBit 18
      level := if ts.testBit 17 then 1 else 0
      waitArg := BitVec.ofNat 32 (if kind = 2 then ts / 2 ^ 32 else 0)
      wait := if exited then .ready
        else if kind = 2 ∧ !moved then .sleep else if kind = 3 then .barrier else if kind = 5 then .reconv else .ready
      waitSub := if kind = 3 then ts / 2 ^ 22 % 16 else 0
      barrier := if kind = 3 ∧ !exited then .waiting (ts / 2 ^ 19 % 8) (ts / 2 ^ 22 % 16) else .no
      tokHeld := (setBits (ts / 2 ^ 8 % 256) 8).map fun k => (2 ^ k, notify) }
  (t, regsAt + 4 * rs.length)

/-- Threads read back one after another. -/
def State.readThreads (s : State) (ctx notify : Nat) (moved : Bool) : Nat → Nat → Nat → List Thread × Nat
  | 0, _, regsAt => ([], regsAt)
  | n + 1, at_, regsAt =>
    let x := s.readThread ctx at_ regsAt notify moved
    let y := s.readThreads ctx notify moved n (at_ + 32) x.2
    (x.1 :: y.1, y.2)

/-- The level-1 bank read back, its RSV bits 0 (R5, R34, R302). -/
def State.readBank (s : State) (ctx at_ : Nat) : TrapBank :=
  let num := fun a n => s.devNum ctx a n
  let st := num (at_ + 28) 4
  let info := num (at_ + 20) 4
  { cause := BitVec.ofNat 32 (num at_ 4 % 2 ^ 19), epc := BitVec.ofNat 64 (num (at_ + 4) 8 % 2 ^ 57),
    addr := BitVec.ofNat 64 (num (at_ + 12) 8), info := BitVec.ofNat 32 (info / 2 ^ 28 * 2 ^ 28 + info % 2 ^ 9),
    word := BitVec.ofNat 32 (num (at_ + 24) 4), nht := st / 2 ^ 16, pmode := st.testBit 3 }

/-- The splits of a restored file group: the image does not name the lanes of a split, so every thread that was no eft
stops at its next `reconv` for the lanes that were (DESIGN CHOICE, log entry 58) (R51, R54). -/
def restoredSplits (efts : List Nat) (threads : List Thread) : List Split :=
  [0, 1].filterMap fun level =>
    let here := fun (l : Nat) => decide ((atD Thread.gone threads l).level = level)
    let others := (upFrom 0 threads.length).filter fun l =>
      decide (l ∉ efts) && !(atD Thread.gone threads l).exited && here l
    if (efts.filter here).isEmpty || others.isEmpty then none
    else some { lanes := others, efts := efts.filter here, reached := [], restored := true, level := level }

/-- A file group read back, and the address behind its record (R34). -/
def State.readFg (s : State) (ctx at_ notify : Nat) (moved : Bool) (now : Nat) : FileGroup × Nat :=
  let num := fun a n => s.devNum ctx a n
  let n := num at_ 2
  let flags := num (at_ + 2) 1
  let ts := s.readThreads ctx notify moved n (at_ + 0x100) (at_ + 0x100 + 32 * n)
  let efts := (upFrom 0 n).filter fun l => decide (num (at_ + 0x100 + 32 * l + 24) 8 / 2 ^ 26 % 8 = 1)
  ({ kregs := (upFrom 0 32).foldl (fun t k => tabSet 0 t k (BitVec.ofNat 32 (num (at_ + 8 + 4 * k) 4))) []
     bars := (upFrom 0 8).map fun i => BarWord.ofValue (num (at_ + 0x88 + 4 * i) 4)
     level := if flags.testBit 1 then 1 else 0
     bank1 := if flags.testBit 1 then s.readBank ctx (at_ + 0xA8) else TrapBank.zero
     bank2 := TrapBank.zero
     tscr := (upFrom 0 6).map fun i => BitVec.ofNat 32 (num (at_ + 0xC8 + 4 * i) 4)
     threads := ts.1, exited := flags.testBit 0, halted := false, efts := [], splits := restoredSplits efts ts.1,
     pendTraps := [], delivered := [], fetched := [], born := now, cycles := 0, ahead := s.clk }, ts.2)

/-- File groups read back one after another. -/
def State.readFgs (s : State) (ctx notify : Nat) (moved : Bool) (now : Nat) : Nat → Nat → List FileGroup
  | 0, _ => []
  | n + 1, at_ =>
    let x := s.readFg ctx at_ notify moved now
    x.1 :: s.readFgs ctx notify moved now n x.2

/-- The command that SEQ holds (R33, R223). -/
def seqCmd (p : Pad) (seq id : Nat) : List MatCmd :=
  let left := seq / 2 ^ 32
  let w := seq % 2 ^ 32
  if left = 0 then []
  else
    let a := p.shape (cmdA w)
    [{ id := id, kind := cmdKind w, bank := cmdBank w, zs := cmdZs w, a := a, b := p.shape (cmdB w), aSh := cmdA w,
       bSh := cmdB w, goff := cmdGoff w, addr := 0, steps := shExt0 a / 64 - left, rows := 0, flags := 0, sat := 0,
       stalled := none, stallVa := 0, parkedOn := 0, applied := false, inst := 0, fg := 0, lanes := [], entry := 0,
       ctx := p.ctx, maxWt := 0, buf := [] }]

/-- The word at a thread's PC is an arrival word of the barrier that it waits at: whether it waits there, and the register
that it takes its weight from (R190, R191). -/
def State.arrivalWord (s : State) (p : Pad) (g : FileGroup) (t : Thread) (level bar : Nat) :
    Option (Bool × Option (BitVec 6)) :=
  let here := fun (l : BitVec 3) (b : BitVec 4) (x : Bool × Option (BitVec 6)) =>
    if l.toNat = level ∧ b.toNat = bar then some x else none
  match s.fetchWord p g t.pc.toNat with
  | .word w => match decodeWord w.toNat with
    | .instr (.barArrive _ l b) => here l b (false, none)
    | .instr (.barWait _ l b) => here l b (true, none)
    | .instr (.barArriveExp _ d l b) => here l b (false, some d)
    | _ => none
  | _ => none

/-- A restored thread that waits at a barrier with its PC at an arrival word of it has executed that word (R191; DEDUCED,
log entry 57). A weight that it had popped from a port is not in the image: a free value. -/
def State.rearrive (s : State) (p : Pad) (g : FileGroup) (i : Nat) (t : Thread) : Thread :=
  match t.barrier with
  | .waiting level bar =>
    match s.arrivalWord p g t level bar with
    | some (waits, d) =>
      let weight := d.map fun d => if d.toNat < 56 then (t.reg d.toNat).toNat else Config.pickAt s.seq i
      { t with barrier := .arriving level bar waits weight }
    | none => t
  | _ => t

/-- Every thread of a restored pad group put back at the arrival word that it has executed (R191). -/
def State.rearriveAll (s : State) (p : Pad) : Pad :=
  let fgs := p.fgs.map fun g => { g with threads := mapFrom (fun i t => s.rearrive p g i t) 0 g.threads }
  { p with fgs := fgs }

/-- The promise that entries taken from now on may not precede, as the slots of the entries taken before the save hold it
(R211). -/
def Pad.restoredPromise (p : Pad) (now : Nat) : Nat :=
  greatest 0 (((upFrom 0 64).filter fun i => decide (64 ≤ p.head ∨ i < p.head)).map fun i =>
    let ahead := countDiff (p.word (p.slotOff i + 4)) (now % 2 ^ 32)
    if ahead < 2 ^ 31 then now + ahead else 0)

/-- A pad group read back from its record onto a core (R33, R54, R204). An accumulator store that the image brought in counts
as written (DESIGN CHOICE, log entry 61). The image has no field for the successors that an exit of file group 0 had
fixed: a task saved behind it pushes none (DESIGN CHOICE, log entry 62). -/
def State.readPad (s : State) (l : Launch) (core at_ : Nat) (moved : Bool) : Pad :=
  let ctx := l.ctx
  let num := fun a n => s.devNum ctx a n
  let nf := num (at_ + 9) 1
  let slot := num (at_ + 10) 1
  let len := num (at_ + 12) 4
  let spad := len / 4096
  let scratch := tabSetMany 0 [] 0 ((s.devRead ctx (num (at_ + 16) 8) len).getD [])
  let vrec := num (at_ + 0x60) 8
  let index := num at_ 8
  let tiles := s.recordTiles ctx vrec
  let bars := (upFrom 0 16).map fun i => BarWord.ofValue (num (at_ + 0x20 + 4 * i) 4)
  let base : Pad :=
    { core := core, uid := s.nextId, ctx := ctx, launch := l.id,
      unit := if l.grain = 0 then index else index / (l.np * (if l.grain = 2 then l.ns else 1)),
      unitPos := num (at_ + 11) 1, grain := l.grain, index := index, slot := if slot = 0xFF then none else some slot,
      nf := nf, nt := 0, spad := spad, lb := l.lb, fgs := [], scratch := scratch, scratchWt := [],
      bars := bars, shapes := [], ring := [],
      mq := [], accUsed := decide (num (at_ + 0x18) 8 ≠ 0), succ := none, seed := 0, pushed := false, nextPush := 0,
      views := tiles, vrec := vrec,
      stopped := false, spadBad := [] }
  let shapes := (upFrom 0 16).map fun h => BitVec.ofNat 512 (leValue (base.scratchBytes (base.shadowOff h) 64))
  let shaped : Pad := { base with shapes := shapes }
  let fgs := s.readFgs ctx base.notify moved (s.coreClk core) nf (num (at_ + 0x70) 8)
  let nt := match fgs with
    | [] => 0
    | g :: _ => g.threads.length
  let seed := match fgs with
    | [] => 0
    | g :: _ => (g.thread 0).rng
  let promised := shaped.restoredPromise (s.coreClk core)
  s.rearriveAll
    { shaped with fgs := fgs, nt := nt, mq := seqCmd shaped (num (at_ + 0x68) 8) (s.nextId + 1), seed := seed,
                  promised := promised }

/-- The accumulator entries of a core read back from a pad-group record (R33). -/
def State.readAcc (s : State) (ctx core at_ : Nat) : State :=
  let img := s.devNum ctx (at_ + 0x18) 8
  if img = 0 then s
  else match s.devRead ctx img 327680 with
    | none => s
    | some bs => { s with acc := (upFrom 0 32768).foldl (fun t i =>
        tabSet 0 t (core * 32768 + i) (BitVec.ofNat 80 (leValue ((bs.drop (10 * i)).take 10)))) s.acc }

end Sys2Proof.Machine
end

