-- ==== Sys2Proof/Machine/FrontOps.lean ====
section
/-! DEFINITION. The front end and the dispatchers (R29-R32, R37-R45, R54, R99, R100, R117, R284, R313, R342, R343): commands and
their checks, the lottery, starting and completing a launch, restoring an image, placing units and tasks, stealing. -/

namespace Sys2Proof.Machine

/-! ### Commands (R30, R40, R99) -/

/-- A launch command at the head of a submission queue. -/
structure Command where
  queue : Nat
  opc : Nat
  serial : Bool
  ctx : Nat
  image : Nat
  cwAddr : Nat
  cwInc : Nat
  mask : Option Nat          -- of a LAUNCH record
  aux : Option Nat
  owner : Nat
  lsn : Nat
  deriving DecidableEq, Repr

/-- The command that a LAUNCH record entered. -/
def Waiting.command (w : Waiting) (q : Nat) : Command :=
  { queue := q, opc := 1, serial := false, ctx := w.ctx, image := w.image, cwAddr := 0, cwInc := 0, mask := some w.mask,
    aux := some w.aux, owner := w.owner, lsn := w.lsn }

/-- The command that a queue's ring holds at its head (R30, R273). -/
def State.ringCommand (s : State) (q : Nat) (k : SubQueue) : Command :=
  let at_ := hostKey (k.ring.toNat / 4096 * 4096 + 32 * (k.head % k.nent))
  let num := fun off n => leValue (s.mem.latestBytes (at_ + off) n)
  { queue := q, opc := num 0 1, serial := (num 1 1).testBit 0, ctx := num 2 2, image := num 8 8, cwAddr := num 16 8,
    cwInc := num 24 8, mask := none, aux := none, owner := 0, lsn := 0 }

/-- The next command of a queue. -/
def State.command? (s : State) (q : Nat) : Option Command :=
  let k := atD SubQueue.zero s.queues q
  match k.waiting with
  | w :: _ => if w.after = k.head then some (w.command q)
    else if k.head = k.tail ∨ k.nent = 0 then none else some (s.ringCommand q k)
  | [] => if k.head = k.tail ∨ k.nent = 0 then none else some (s.ringCommand q k)

/-- The queue with its next command taken. -/
def SubQueue.takeHead (k : SubQueue) : SubQueue :=
  match k.waiting with
  | w :: rest => if w.after = k.head then { k with waiting := rest } else { k with head := (k.head + 1) % 2 ^ 32 }
  | [] => { k with head := (k.head + 1) % 2 ^ 32 }

/-! ### Image headers (R31, R32, R39) -/

/-- A field of an image header. -/
def State.hdr (s : State) (ctx image off n : Nat) : Nat := s.devNum ctx (image + off) n

/-- GEOMETRY (R32). -/
structure Geometry where
  dom : Bool
  grain : Nat
  ns : Nat
  np : Nat
  nf : Nat
  nt : Nat
  deriving DecidableEq, Repr

/-- GEOMETRY's fields. -/
def Geometry.of (g : Nat) : Geometry :=
  { dom := g.testBit 22, grain := g / 2 ^ 20 % 4, ns := g / 2 ^ 16 % 16, np := g / 2 ^ 13 % 8, nf := g / 2 ^ 10 % 8,
    nt := g % 512 }

/-- NT counts 0 as 256 (R32). A value of 256 to 511, to which R32 gives no meaning, counts as 256, the most that R27 gives a
file group (DESIGN CHOICE, log entry 63). -/
def threadCount (nt : Nat) : Nat := if nt = 0 then 256 else min nt 256

/-- The checks of a launch block of R39 that also hold for a successor's: DETAIL of the first that fails (R343). -/
def State.blockFault (s : State) (ctx lb : Nat) : Option Nat :=
  match (if lb % 64 ≠ 0 ∨ spadWindow ≤ lb then none else s.devRead ctx lb 64) with
  | none => some 8
  | some bs =>
    let num := fun off n => leValue ((bs.drop off).take n)
    if num 0 8 % 12 ≠ 0 ∨ 2 ^ 57 ≤ num 0 8 then some 9
    else if num 8 4 / 512 % 8 = 0 ∨ 4 < num 8 4 / 512 % 8 then some 10
    else if num 12 2 = 0 ∨ 192 < num 12 2 then some 11
    else if 8 < num 14 1 then some 12 else none

/-- SHAPE of a launch block differs from GEOMETRY's (R39 check 10). -/
def State.shapeDiffers (s : State) (ctx lb : Nat) (g : Geometry) : Bool :=
  let sh := s.devNum ctx (lb + 8) 4
  decide (sh / 512 % 8 ≠ g.nf ∨ sh % 512 ≠ g.nt)

/-- The first check of R39 that a command fails: its DETAIL and the address concerned. -/
def State.checkImage (s : State) (c : Command) : Option (Nat × Nat) :=
  let im := c.image
  let num := s.hdr c.ctx im
  let g := Geometry.of (num 0x10 8)
  let kind := num 6 2
  let lb := num 0x30 8
  if (s.desc c.ctx).isNone then some (1, im)
  else if im % 256 ≠ 0 ∨ 2 ^ 57 ≤ im ∨ spadWindow ≤ im ∨ (s.devRead c.ctx im 256).isNone then some (2, im)
  else if num 0 4 ≠ 0x47454D49 ∨ num 4 2 ≠ 1 then some (3, im)
  else if 1 < kind ∨ (kind = 0 ∧ (num 0x70 4 ≠ 0 ∨ num 0x80 8 ≠ 0 ∨ num 0x88 8 ≠ 0 ∨ num 0x90 8 ≠ 0)) then some (4, im)
  else if g.grain = 3 ∨ g.ns = 0 ∨ 8 < g.ns ∨ g.np = 0 ∨ g.np = 7 ∨ g.nf = 0 ∨ 4 < g.nf ∨ (g.dom ∧ g.grain ≠ 2) then
    some (5, im)
  else if num 0x18 8 % 2 ^ 24 = 0 then some (6, im)
  else if num 0x60 4 = 0 then some (7, im)
  else if kind = 1 then none
  else match s.blockFault c.ctx lb with
    | some d =>
      if d ≤ 9 then some (d, lb) else if s.shapeDiffers c.ctx lb g then some (10, lb) else some (d, lb)
    | none => if s.shapeDiffers c.ctx lb g then some (10, lb) else none

/-- The context record made from the first image read (R376). -/
def State.openContext (s : State) (c : Command) : State :=
  if (s.ctx? c.ctx).isSome then s.mapCtx c.ctx fun x => { x with table := s.service.ctxTab }
  else
    let num := s.hdr c.ctx c.image
    let x : Ctx :=
      { id := c.ctx, owner := s.ownerOf c.ctx, balance := signed 64 (num 0x58 8), eref := num 0x60 4,
        erefill := num 0x64 4, ecap := num 0x68 8, ageLimit := num 0x50 4, ptimeout := num 0x54 4,
        counters := num 0x48 8 % 2 ^ 57, vpBase := num 0x38 8 % 2 ^ 57, vpSize := num 0x40 8, allocs := [],
        table := s.service.ctxTab }
    { s with ctxs := s.ctxs ++ [x] }

/-! ### Images and launch blocks in other modules' memory (R39)

The front end and the dispatchers read sectors of other modules over the fabric, and go on when they have all they need. -/

/-- The sectors of file-group records. -/
def State.fgSectors (s : State) (ctx : Nat) : Nat → Nat → List (Nat × Nat × Nat)
  | 0, _ => []
  | n + 1, a =>
    s.farThen (s.farSectors ctx a 256) fun _ =>
      let nt := s.devNum ctx a 2
      s.farThen (s.farSectors ctx (a + 256) (32 * nt)) fun _ =>
        let live := ((upFrom 0 nt).map fun i =>
          (setBits (s.devNum ctx (a + 256 + 32 * i + 8) 8 % 2 ^ 56 / 2 * 2) 56).length).foldl (· + ·) 0
        let regs := a + 256 + 32 * nt
        s.farThen (s.farSectors ctx regs (4 * live)) fun _ => s.fgSectors ctx n (regs + 4 * live)

/-- The sectors of a task's tile list. -/
def State.tileSectors (s : State) (ctx vrec : Nat) : List (Nat × Nat × Nat) :=
  if vrec = 0 then [] else s.farSectors ctx (s.devNum ctx vrec 8) 64

/-- The sectors of a pad-group record and of what it names. -/
def State.padSectors (s : State) (ctx a : Nat) : List (Nat × Nat × Nat) :=
  s.farThen (s.farSectors ctx a 128) fun _ =>
    let num := fun off n => s.devNum ctx (a + off) n
    s.farSectors ctx (num 16 8) (num 12 4) ++ (if num 24 8 = 0 then [] else s.farSectors ctx (num 24 8) 327680) ++
      s.tileSectors ctx (num 0x60 8) ++ s.fgSectors ctx (num 9 1) (num 0x70 8)

/-- The sectors of a saved image's sections, its header having been read (R36). -/
def State.sectionSectors (s : State) (ctx image : Nat) : List (Nat × Nat × Nat) :=
  let num := s.hdr ctx image
  let dies := (setBits (num 0x18 8 % 2 ^ 24) 24).length
  let spawn := num 0x88 8
  s.farThen (s.farSectors ctx (num 0x80 8) (16 * dies) ++ (if spawn = 0 then [] else s.farSectors ctx spawn 64)) fun _ =>
    (if spawn = 0 then [] else s.farSectors ctx (spawn + 64) (64 * s.devNum ctx spawn 8)) ++
      (upFrom 0 (num 0x70 4)).flatMap fun i => s.padSectors ctx (num 0x78 8 + 128 * i)

/-- The sectors of a saved image. -/
def State.imageSectors (s : State) (ctx image : Nat) : List (Nat × Nat × Nat) :=
  s.farThen (s.farSectors ctx image 256) fun _ => s.sectionSectors ctx image

/-- The sectors that a command's start reads: the header, and the launch block or the sections of a saved image. -/
def State.commandSectors (s : State) (c : Command) : List (Nat × Nat × Nat) :=
  if c.opc ≠ 1 then []
  else s.farThen (s.farSectors c.ctx c.image 256) fun _ =>
    let num := s.hdr c.ctx c.image
    if num 6 2 ≠ 1 then s.farSectors c.ctx (num 0x30 8) 64 else s.sectionSectors c.ctx c.image

/-- The front end has everything that a command's start reads. -/
def State.commandRead (s : State) (c : Command) : Bool := (s.commandSectors c).all s.hasFar

/-- The sectors that starting a task from a launch block reads, with the block's tile list for a grid task. -/
def State.blockSectors (s : State) (ctx lb : Nat) (grid : Bool) : List (Nat × Nat × Nat) :=
  s.farThen (s.farSectors ctx lb 64) fun _ => if grid then s.tileSectors ctx (lb + 0x10) else []

/-! ### Cores and units (R29, R44) -/

/-- A core can take a pad group (R44, R283, R284). -/
def State.coreFree (s : State) (core : Nat) : Bool :=
  let d := atD DieState.zero s.dies (dieOf core)
  decide (core < 1152) && (s.pad? core).isNone && s.readyBit (dieOf core) && !d.coreStop && !d.cut

/-- Free cores of a slice but for those given away already, ascending. -/
def State.freeInSlice (s : State) (used : List Nat) (slice : Nat) : List Nat :=
  (upFrom (6 * slice) 6).filter fun c => s.coreFree c && decide (c ∉ used)

/-- The cores of a unit around a core (R29): NP of its slice, or NP of NS slices of its die; none when they are not
free. Of several free cores or slices it takes the lowest-numbered (DESIGN CHOICE, log entry 64). -/
def State.unitCores (s : State) (grain np ns : Nat) (used : List Nat) (core : Nat) : Option (List Nat) :=
  match grain with
  | 0 => if s.coreFree core ∧ core ∉ used then some [core] else none
  | 1 =>
    let f := s.freeInSlice used (sliceOf core)
    if f.length < np then none else some (f.take np)
  | _ =>
    let fs := ((upFrom (8 * dieOf core) 8).map (s.freeInSlice used)).filter fun f => decide (np ≤ f.length)
    if fs.length < ns then none else some ((fs.take ns).flatMap fun f => f.take np)

/-- The dies that a launch may use: DIEMASK's ready ones (R43, R284). -/
def State.readyDies (s : State) (mask : Nat) : List Nat := (setBits mask 24).filter s.readyBit

/-- A barrier word set for a unit, spilled where every cell set of the level is in use; none when spill storage is full
too (R28, R342). -/
def State.addUnit (s : State) (level launch unit die slice members n : Nat) : Option State :=
  let same := s.units.filter fun u => decide (u.level = level) && !u.spilled &&
    (match level with
     | 2 => decide (u.slice = slice)
     | 3 => decide (u.die = die)
     | _ => true)
  let spill := decide ((if level = 4 then 4 else 2) ≤ same.length)
  let used := (atD DieState.zero s.dies die).spill
  if spill ∧ 1024 < used + n then none
  else
    let u : UnitBars := { level := level, launch := launch, unit := unit, die := die, slice := slice,
                          words := List.replicate n (BarWord.fresh members), spilled := spill }
    let s := { s with units := s.units ++ [u] }
    if spill then
      some { s with dies := modifyAt s.dies die fun d => { d with spill := used + n }
                    service := { s.service with detail := tabSet 0 s.service.detail (8 * die) (used + n) } }
    else some s

/-- The barrier sets of a unit on its cores (R28, R342). -/
def State.addUnits (s : State) (l : Launch) (unit : Nat) (cores : List Nat) : Option State :=
  let die := dieOf (cores.headD 0)
  let slices := cores.foldl (fun (a : List Nat) c => if sliceOf c ∈ a then a else a ++ [sliceOf c]) []
  let low := leastD 0 (setBits l.dieMask 24)
  if l.grain = 0 then some s
  else
    let s1 := slices.foldl (fun (o : Option State) sl => o.bind fun s => s.addUnit 2 l.id unit die sl l.np 8) (some s)
    let s2 := s1.bind fun s => if l.grain = 2 then s.addUnit 3 l.id unit die 0 l.ns 4 else some s
    s2.bind fun s =>
      if l.dom && s.units.all fun u => decide (u.level ≠ 4 ∨ u.launch ≠ l.id) then
        s.addUnit 4 l.id unit low 0 (setBits l.dieMask 24).length 4
      else some s

/-! ### Tasks (R37, R38, R117, R204) -/

/-- A thread as at task entry. -/
def entryThread (entry : Nat) (base : BitVec 64) (ctx fg i : Nat) : Thread :=
  { Thread.gone with
    pc := BitVec.ofNat 57 entry, regs := tabSet 0 [] 1 (BitVec.ofNat 32 i), rng := threadSeed base fg i ctx,
    exited := false }

/-- A file group as at task entry. -/
def entryFg (entry : Nat) (base : BitVec 64) (ctx nt index now : Nat) (args : List Nat) (slot : Option Nat) (fg : Nat) :
    FileGroup :=
  let ks := args ++ [index % 2 ^ 32, index / 2 ^ 32 % 2 ^ 32, fg, slot.getD 0xFFFFFFFF]
  { kregs := (mapFrom (fun k v => (k, v)) 0 ks).foldl (fun t x => tabSet 0 t x.1 (BitVec.ofNat 32 x.2)) []
    bars := List.replicate 8 (BarWord.fresh nt), level := 0, bank1 := TrapBank.zero, bank2 := TrapBank.zero,
    tscr := List.replicate 6 0, threads := (upFrom 0 nt).map (entryThread entry base ctx fg), exited := false,
    halted := false, efts := [], splits := [], pendTraps := [], delivered := [], fetched := [], born := now,
    cycles := 0 }

/-- A task as it starts on a core, from its launch block (R37, R38). -/
def State.newTask (s : State) (ctx launch core lb index unit unitPos grain : Nat) (slot : Option Nat) (vrec : Nat)
    (tiles : List Tile) (base : BitVec 64) : Pad :=
  let num := fun off n => s.devNum ctx (lb + off) n
  let nf := num 8 4 / 512 % 8
  let nt := threadCount (num 8 4 % 512)
  let args := (upFrom 0 8).map fun i => if i < num 14 1 then num (0x18 + 4 * i) 4 else 0
  { core := core, uid := s.nextId, ctx := ctx, launch := launch, unit := unit, unitPos := unitPos, grain := grain,
    index := index, slot := slot, nf := nf, nt := nt, spad := num 12 2, lb := lb,
    fgs := (upFrom 0 nf).map fun f =>
      { entryFg (num 0 8) base ctx nt index (s.coreClk core) args slot f with ahead := s.clk }
    scratch := [],
    scratchWt := [], bars := List.replicate 16 (BarWord.fresh nf), shapes := List.replicate 16 0, ring := [], mq := [],
    accUsed := false, succ := none, seed := 0, pushed := false, nextPush := 0, views := tiles, vrec := vrec,
    stopped := false, spadBad := [] }

/-- The state with a pad group on its core; the core's instruction cache and L1 stay. -/
def State.addPad (s : State) (p : Pad) : State :=
  { (s.bump) with pads := s.pads ++ [p], spent := s.spent.filter fun x => decide (x.1 ≠ p.core) }

/-- The records of a unit's tasks (R235); none when the pool is full. -/
def State.unitRecords (s : State) (l : Launch) (decl : Nat) (tiles : List Tile) : Nat → Option (State × List Nat)
  | 0 => some (s, [])
  | n + 1 =>
    match s.addRecord l.ctx l.id decl 0xFF 0 tiles with
    | none => none
    | some (s, a) => (s.unitRecords l decl tiles n).map fun x => (x.1, a :: x.2)

/-- Why a unit is held back (R343): its view list failed, or the view pool has no room for its records. -/
inductive Held where
  | badList (decl : Nat)
  | noPool (unit decl : Nat)
  deriving DecidableEq, Repr

/-- What starting a unit comes to. -/
inductive Start where
  | ok (s : State)
  | busy
  | held (why : Held)

/-- A record of the dispatcher about a launch (R343). -/
def State.launchRecord (s : State) (l : Launch) (cause va : Nat) (stall : Bool) : State :=
  s.report (if stall then stalledRec cause 9 l.ctx (s.ownerOf l.ctx) va l.queue 0
    else plainRec cause 9 l.ctx (s.ownerOf l.ctx) va l.queue 0) true stall

/-- The tasks of a unit placed on its cores, in position order (R38). -/
def State.placeUnit (s : State) (l : Launch) (unit : Nat) (tiles : List Tile) : Nat → List Nat → List Nat → State
  | _, [], _ => s
  | pos, core :: rest, recs =>
    let index := if l.grain = 0 then unit else unit * (l.np * (if l.grain = 2 then l.ns else 1)) + pos
    (s.addPad (s.newTask l.ctx l.id core l.lb index unit pos l.grain none (recs.headD 0) tiles
      (BitVec.ofNat 64 index))).placeUnit l unit tiles (pos + 1) rest (recs.drop 1)

/-- A launch whose unit is held back: a record the first time for each unit that waits for pool space (R330, R343). -/
def State.holdLaunch (s : State) (l : Launch) : Held → State
  | .badList decl =>
    ((s.mapLaunch l.id fun x => { x with failed := true }).launchRecord l 0x0403 decl false).requestPreempt l.ctx
  | .noPool unit decl =>
    if unit ∈ l.parked then s
    else (s.mapLaunch l.id fun x => { x with parked := unit :: x.parked }).launchRecord l 0x0401 decl true

/-- A unit of a grid started on free cores (R29, R44, R233, R235, R342, R343). -/
def State.startUnit (s : State) (l : Launch) (unit : Nat) (cores : List Nat) : Start :=
  if (s.blockFault l.ctx l.lb).isSome then .busy
  else
    let decl := s.devNum l.ctx (l.lb + 0x10) 8
    let list := if decl = 0 then some [] else s.viewList l.ctx decl
    match list with
    | none => .held (.badList decl)
    | some tiles =>
      match (if decl = 0 then some (s, []) else s.unitRecords l decl tiles cores.length) with
      | none => .held (.noPool unit decl)
      | some (s, recs) =>
        match s.addUnits l unit cores with
        | none => .busy
        | some s =>
          let free := fun (x : Launch) => { x with parked := x.parked.filter fun u => decide (u ≠ unit) }
          .ok ((s.mapLaunch l.id free).placeUnit l unit tiles 0 cores recs)

/-- The range of a die for a launch. -/
def Launch.range (l : Launch) (die : Nat) : Nat × Nat := atD (0, 0) l.counters die

/-- A launch's ticket counter of a die advanced by one. -/
def State.takeTicket (s : State) (launch die : Nat) : State :=
  s.mapLaunch launch fun l => { l with counters := modifyAt l.counters die fun r => (r.1 + 1, r.2) }

/-- Every unit of a domain launch started at once (R29). -/
def State.startDomain (s : State) (l : Launch) : List Nat → Start
  | [] => .ok s
  | die :: rest =>
    let r := l.range die
    if r.2 ≤ r.1 then s.startDomain l rest
    else match s.unitCores l.grain l.np l.ns [] (48 * die) with
      | none => .busy
      | some cores => match s.startUnit l r.1 cores with
        | .ok s => (s.takeTicket l.id die).startDomain l rest
        | x => x

/-- Launches by class and then by start order (R44). -/
def State.launchOrder (s : State) : List Launch :=
  [0, 1, 2, 3].flatMap fun c => s.launches.filter fun l => decide (l.cls = c)

/-- The entry of a die's spawn stack that starts next: the top one of the highest class (R44). -/
def State.nextSpawn (s : State) (die : Nat) : Option Spawn :=
  let live := (atD [] s.spawns die).filter fun x => s.mayStart x.ctx
  let cls := fun (x : Spawn) => ((s.launch? x.launch).map (·.cls)).getD 3
  let best := leastD 3 (live.map cls)
  live.find? fun x => decide (cls x = best)

/-- An entry taken off a die's stack; its pool space is given back (R343). -/
def State.dropSpawn (s : State) (die : Nat) (x : Spawn) : State :=
  let s : State := { s with spawns := modifyAt s.spawns die fun l => l.filter fun y => decide (y.num ≠ x.num) }
  match x.pool with
  | some a => s.poolGive x.ctx a
  | none => s

/-- A successor started on a core, or ended at once because its launch block fails (R343). -/
def State.startSpawn (s : State) (core : Nat) (x : Spawn) : State :=
  let s := s.dropSpawn (dieOf core) x
  match s.blockFault x.ctx x.lb with
  | some d =>
    let s := s.report (plainRec 0x0406 9 x.ctx (s.ownerOf x.ctx) x.lb
      (((s.launch? x.launch).map (·.queue)).getD 64) d) true false
    if x.vrec = 0 then s else s.setRecState x.ctx x.vrec 3
  | none =>
    let tiles := s.recordTiles x.ctx x.vrec
    s.addPad (s.newTask x.ctx x.launch core x.lb x.pindex 0 0 0 (some x.slot) x.vrec tiles (spawnBase x.seed x.slot))

/-! ### Stealing (R14, R45) -/

/-- A die's column within its half (R12). -/
def dieColumn (d : Nat) : Nat := d % 12 % 6

/-- A die's mesh row (R12). -/
def dieRow (d : Nat) : Nat := d % 12 / 6

/-- The hop distance from the fabric die to a compute die (R14). -/
def fabricDistance (d : Nat) : Nat := if d < 12 then (5 - dieColumn d) + 1 else dieColumn d + 1

/-- The hop distance between two compute dies (R14): between halves by way of the fabric die. -/
def hopDistance (a b : Nat) : Nat :=
  let apart := fun x y => max x y - min x y
  if a / 12 = b / 12 then apart (dieColumn a) (dieColumn b) + apart (dieRow a) (dieRow b)
  else fabricDistance a + fabricDistance b

/-- The 36 die boundaries (R13): within a half, along the rows and between them; and those of the fabric die, which is number
24. -/
def boundaries : List (Nat × Nat) :=
  [0, 12].flatMap (fun h =>
    [0, 6].flatMap (fun r => (upFrom (h + r) 5).map fun d => (d, d + 1)) ++ (upFrom h 6).map fun d => (d, d + 6)) ++
    [(5, 24), (11, 24), (12, 24), (18, 24)]

/-- The dies that a set of dies reaches over one more of the boundaries that are not down. -/
def reachMore (severed : List Nat) (ds : List Nat) : List Nat :=
  (mapFrom (fun i b => (i, b)) 0 boundaries).foldl (fun (ds : List Nat) x =>
    if x.1 ∈ severed then ds
    else
      let ds := if x.2.1 ∈ ds ∧ x.2.2 ∉ ds then ds ++ [x.2.2] else ds
      if x.2.2 ∈ ds ∧ x.2.1 ∉ ds then ds ++ [x.2.1] else ds) ds

/-- The dies that the fabric die reaches (R13, R368). -/
def reachable (severed : List Nat) : List Nat := (upFrom 0 24).foldl (fun ds _ => reachMore severed ds) [24]

/-- The dies of a half by distance from a die, ties to the lower number (R45). -/
def halfOrder (die half : Nat) : List Nat :=
  (upFrom 0 13).flatMap fun d => (upFrom (12 * half) 12).filter fun x => decide (x ≠ die ∧ hopDistance die x = d)

/-- Two lists interleaved, the rest of the longer behind (R45). -/
def interleave : List Nat → List Nat → List Nat
  | [], ys => ys
  | x :: xs, [] => x :: xs
  | x :: xs, y :: ys => x :: y :: interleave xs ys

/-- The slalom order of a die (R45). -/
def slalom (die : Nat) : List Nat := interleave (halfOrder die (die / 12)) (halfOrder die (1 - die / 12))

/-- The pool space of an entry that goes to a die's stack: none of its own while the stack has room for the entry (R44,
R343). -/
def State.stackPlace (s : State) (die : Nat) (x : Spawn) : Option (State × Spawn) :=
  let room := decide (((atD [] s.spawns die).filter fun y => y.pool.isNone).length < 4096)
  match x.pool, room with
  | none, true => some (s, x)
  | some a, true => some (s.poolGive x.ctx a, { x with pool := none })
  | some _, false => some (s, x)
  | none, false => (s.poolTake x.ctx 64 64 false).map fun y => (y.1, { x with pool := some y.2 })

/-- A steal by a die at one victim (R45); none when the victim has nothing. An entry that finds the thief's stack full takes
pool space as a pushed one does, and is not stolen where there is none (DESIGN CHOICE, log entry 80). A domain launch has one
unit a die, which all start at once: no tickets of it are left to steal (R29). -/
def State.stealFrom (s : State) (l : Launch) (die victim : Nat) : Option State :=
  match ((atD [] s.spawns victim).reverse).find? fun x => decide (x.launch = l.id) with
  | some x => (s.stackPlace die x).map fun y =>
    let spawns := modifyAt y.1.spawns victim fun q => q.filter fun z => decide (z.num ≠ x.num)
    { y.1 with spawns := modifyAt spawns die fun q => y.2 :: q }
  | none =>
    let r := l.range victim
    if r.2 ≤ r.1 ∨ l.dom then none
    else
      let m := r.2 - (r.2 - r.1 + 1) / 2
      let split := fun (c : List (Nat × Nat)) => modifyAt (modifyAt c victim fun _ => (r.1, m)) die fun _ => (m, r.2)
      some (s.mapLaunch l.id fun l => { l with counters := split l.counters })

/-- A die whose counter for a launch is empty, and whose stack holds nothing of it, steals (R44, R45). -/
def State.stealWork (s : State) (die launch : Nat) : State :=
  match s.launch? launch with
  | none => s
  | some l =>
    let r := l.range die
    if r.1 < r.2 ∨ !l.dieMask.testBit die ∨ (atD [] s.spawns die).any (fun x => decide (x.launch = launch)) ∨
        s.mayStart l.ctx = false then s
    else ((slalom die).filter fun v => l.dieMask.testBit v).findSome? (fun v => s.stealFrom l die v) |>.getD s

/-! ### Completion (R30, R99) -/

/-- An ADD record of the front end to a count word of an owner's partition (R99, R100). -/
def State.countRecord (s : State) (ctx owner aux addend : Nat) : State :=
  if aux = 0xFFFF then s
  else s.enqueueFront (headerWord 2 owner s.tap.position false 1 ctx 0) (BitVec.ofNat 64 (8 * aux)) (BitVec.ofNat 64 addend)

/-- A completion word that cannot be added to, its access having failed: a deferred record (R359, R360, R365, R366). -/
def State.wordFailed (s : State) (ctx va queue cause : Nat) : State :=
  s.report (plainRec cause 9 ctx (s.ownerOf ctx) va queue 0) true (decide (cause / 2 ^ 8 = 9))

/-- CWINC added to the completion word (R30). An add that is refused, or that meets the failed host link or a stack that is gone,
is not performed (R283, R359, R360). -/
def State.addCompletion (s : State) (l : Launch) : State :=
  if l.cwAddr = 0 then s
  else
    let bad := s.report (plainRec 0x0A03 9 l.ctx (s.ownerOf l.ctx) l.cwAddr l.queue 0) true true
    if l.cwAddr % 8 ≠ 0 ∨ 2 ^ 57 ≤ l.cwAddr ∨ spadWindow ≤ l.cwAddr then bad
    else match s.walk l.ctx l.cwAddr with
      | none => bad
      | some p => match p.check true, s.pageLoc p l.cwAddr with
        | .page _, .mem k =>
          if s.stackGone k then s.wordFailed l.ctx l.cwAddr l.queue 0x0911
          else match s.hostFault (s.ownerOf l.ctx) k with
            | some c => s.wordFailed l.ctx l.cwAddr l.queue c
            | none => s.ownStore k (leBytes 8 (leValue (s.mem.latestBytes k 8) + l.cwInc))
        | .page _, .remote m pa =>
          if !s.maySend (s.ownerOf l.ctx) then
            (s.refuseSend m (s.ownerOf l.ctx)).wordFailed l.ctx l.cwAddr l.queue 0x0710
          else s.sendPacket m (s.ownerOf l.ctx) 2 0 pa [0, 1, 1, l.cwInc, 0, l.ctx, l.cwAddr, l.queue]
        | _, _ => bad

/-- A launch is over: every unit dispatched and finished, no task of it on a stack, every merge landed (R30). -/
def State.launchOver (s : State) (l : Launch) : Bool :=
  l.restoring.isNone && (l.counters.all fun r => decide (r.2 ≤ r.1)) && s.pads.all (fun p => decide (p.launch ≠ l.id)) &&
    s.spawns.all (fun q => q.all fun x => decide (x.launch ≠ l.id)) &&
    s.mem.records.all (fun r => decide (r.launch ≠ l.id)) && s.mem.merges.all fun m => decide (m.launch ≠ l.id)

/-- The line of a launch's completion word is a guest die's to write (R260). -/
def State.wordHeld (s : State) (l : Launch) : Option Nat :=
  match s.devKey l.ctx l.cwAddr true with
  | some k => if l.cwAddr ≠ 0 && s.mem.guestDirty (lineOf k) then some (lineOf k) else none
  | none => none

/-- A launch's completion word can be added to now: no lease on its line is about to lapse (R63, R375). -/
def State.cwReady (s : State) (l : Launch) : Bool :=
  match s.devKey l.ctx l.cwAddr true with
  | some k => decide (l.cwAddr = 0 ∨ l.cwAddr % 8 ≠ 0) || s.stackGone k || s.ownReady 0 k 8
  | none => true

/-- A command completes (R30, R99): its word is added to once every write of its work is visible. -/
def State.completeLaunch (s : State) (id : Nat) : State :=
  match s.launch? id with
  | none => s
  | some l =>
    if !s.launchOver l || decide (s.clk < l.mark) then s
    else match s.wordHeld l with
    | some line => s.recallGuests line
    | none =>
      if !s.cwReady l then s else
      let s := (s.addCompletion l).afterUpdate
      let s := match l.aux with
        | some a => s.countRecord l.ctx l.recOwner a 1
        | none => s
      { s with launches := s.launches.filter fun x => decide (x.id ≠ id)
               units := s.units.filter fun u => decide (u.launch ≠ id) }

/-! ### Starting a command (R39-R43, R54) -/

/-- A refused command (R39, R100). -/
def State.refuse (s : State) (c : Command) (detail va : Nat) : State :=
  let owner := s.ownerOf c.ctx
  match c.aux with
  | none => s.report (plainRec 0x0A00 9 c.ctx owner va c.queue detail) (s.desc c.ctx).isSome true
  | some a =>
    (s.report (plainRec 0x0A02 9 c.ctx owner va c.lsn detail) (s.desc c.ctx).isSome true).countRecord c.ctx c.owner a
      (2 ^ 32)

/-- A range [a, b) split into n parts: part k. -/
def part (a b k n : Nat) : Nat × Nat := (a + k * (b - a) / n, a + (k + 1) * (b - a) / n)

/-- The module's share of a launch's units (R43, R99). -/
def State.share (s : State) (mask units : Nat) : Nat × Nat :=
  if mask = 0 then (0, units)
  else if mask.testBit s.tap.position then
    part 0 units (setBits mask s.tap.position).length (setBits mask 64).length
  else (0, 0)

/-- The ticket counters of the dies (R43). -/
def dieRanges (dies : List Nat) (a b : Nat) : List (Nat × Nat) :=
  (upFrom 0 24).map fun d =>
    if d ∈ dies then part a b (dies.filter fun x => decide (x < d)).length dies.length else (0, 0)

/-- The launch of a command whose checks passed. The command names the context, its descriptor the owner and its queue the
class: the header's CTX, OWNER and CLASS are not read (DESIGN CHOICE, log entry 79). -/
def State.newLaunch (s : State) (c : Command) : Launch :=
  let num := s.hdr c.ctx c.image
  let g := Geometry.of (num 0x10 8)
  let sh := s.share (c.mask.getD (num 0x20 8)) (num 0x28 8)
  let cls := match (atD SubQueue.zero s.queues c.queue).bound with
    | some b => b.2.1
    | none => 3
  { id := s.nextId, queue := c.queue, ctx := c.ctx, image := c.image, cwAddr := c.cwAddr, cwInc := c.cwInc,
    nt := threadCount g.nt, nf := g.nf, np := g.np, ns := g.ns, grain := g.grain, dom := g.dom,
    dieMask := num 0x18 8 % 2 ^ 24, lb := num 0x30 8 % 2 ^ 57, cls := cls,
    counters := dieRanges (s.readyDies (num 0x18 8 % 2 ^ 24)) sh.1 sh.2, aux := c.aux, recOwner := c.owner,
    started := s.clk, failed := false, table := s.service.ctxTab }

/-- Cores for the pad groups of a saved image, the units kept together, in a preferred order (R54): all of them at once or
none (DESIGN CHOICE, log entry 65). The units of a domain launch go each to a die of its own, in their order (R28, R29). Each
pad group is given as its grid unit and position, or none for a spawned task; the cores already given are listed. -/
def State.placePads (s : State) (l : Launch) (pref : List Nat) :
    List (Option (Nat × Nat)) → List (Nat × List Nat) → List Nat → Option (List Nat)
  | [], _, _ => some []
  | u :: rest, placed, used =>
    let free := fun c => s.coreFree c && decide (c ∉ used) && l.dieMask.testBit (dieOf c)
    match u with
    | none => (pref.find? free).bind fun c => (s.placePads l pref rest placed (c :: used)).map (c :: ·)
    | some (unit, pos) =>
      match placed.find? fun x => decide (x.1 = unit) with
      | some x => (x.2[pos]?).bind fun c => (s.placePads l pref rest placed used).map (c :: ·)
      | none =>
        let try_ := fun c =>
          if !free c ∨ (l.dom ∧ placed.any fun x => decide (dieOf c ≤ dieOf (x.2.headD 0))) then none
          else s.unitCores l.grain l.np l.ns used c
        (pref.findSome? try_).bind fun cs => (cs[pos]?).bind fun c =>
          (s.placePads l pref rest ((unit, cs) :: placed) (cs ++ used)).map (c :: ·)

/-- The units of a saved image's pad groups (R33). -/
def State.savedUnits (s : State) (l : Launch) : List (Option (Nat × Nat)) :=
  let at_ := s.hdr l.ctx l.image 0x78 8
  (upFrom 0 (s.hdr l.ctx l.image 0x70 4)).map fun i =>
    let r := at_ + 128 * i
    if s.devNum l.ctx (r + 10) 1 = 0xFF then
      let index := s.devNum l.ctx r 8
      some (if l.grain = 0 then index else index / (l.np * (if l.grain = 2 then l.ns else 1)), s.devNum l.ctx (r + 11) 1)
    else none

/-- The words of a restored pad group's unit, where its scratchpad holds them (R35). Records come in core order, and restored
cores in the order of the records. -/
def State.readUnitWords (s : State) (l : Launch) (p : Pad) : State :=
  if p.slot.isSome ∨ p.grain = 0 then s
  else
    let words := fun off n => (upFrom 0 n).map fun i => BarWord.ofValue (p.word (off + 4 * i))
    let put := fun (s : State) (b : Bool) level off n =>
      let units := s.units.map fun u => if b && u.serves p level then { u with words := words off n } else u
      { s with units := units }
    let s := put s (s.leads p 2) 2 (p.top - 2144) 8
    let s := put s (decide (p.grain = 2) && s.leads p 3) 3 (p.ctl + 0x10) 4
    put s (l.dom && s.leads p 4) 4 (p.ctl + 0x20) 4

/-- A view-table record and those above it known to the module again (R54, R235). -/
def State.knowRecord (s : State) (ctx launch : Nat) : Nat → Nat → State
  | 0, _ => s
  | fuel + 1, r =>
    if r = 0 ∨ s.mem.records.any (fun x => decide (x.ctx = ctx ∧ x.va = r)) then s
    else
      let s := s.mapMem fun m =>
        { m with records := m.records ++
            [{ ctx := ctx, va := r, launch := launch, target := none, tiles := s.recordTiles ctx r }] }
      s.knowRecord ctx launch fuel (s.devNum ctx (r + 0x10) 8)

/-- What stands for a launch in the work that a save leaves on the module: its image (R53, R312). -/
def savedLaunch (image : Nat) : Nat := 2 ^ 64 + image

/-- The work of a launch that outlives its pad groups, given to another launch. -/
def State.moveWork (s : State) (ctx old new : Nat) : State :=
  let swap := fun (c x : Nat) => if c = ctx ∧ x = old then new else x
  { s with
    triggers := s.triggers.map fun e => { e with launch := swap e.ctx e.launch }
    mem := { s.mem with
      merges := s.mem.merges.map fun m => { m with launch := swap m.ctx m.launch }
      records := s.mem.records.map fun r => { r with launch := swap r.ctx r.launch } } }

/-- The barrier sets of the units of an image, on the cores that their pad groups come back to; none when spill storage is
full (R342). -/
def State.restoreUnits (s : State) (l : Launch) (placed : List (Option (Nat × Nat) × Nat)) : Option State :=
  let units := placed.filterMap fun x => x.1.map (·.1)
  let once := units.foldl (fun (a : List Nat) u => if u ∈ a then a else a ++ [u]) []
  once.foldl (fun (o : Option State) u => o.bind fun s =>
    s.addUnits l u (placed.filterMap fun x => if x.1.map (·.1) = some u then some x.2 else none)) (some s)

/-- Pad groups of an image read onto their cores. -/
def State.readPads (s : State) (l : Launch) (moved : Bool) : Nat → List Nat → State
  | _, [] => s
  | at_, core :: rest =>
    let p := s.readPad l core at_ moved
    let s := ({ (s.addPad p) with nextId := s.nextId + 2 } : State)
    let s := (s.readAcc l.ctx core at_).knowRecord l.ctx l.id 256 p.vrec
    (s.readUnitWords l p).readPads l moved (at_ + 128) rest

/-- The spawn-stack entries of an image pushed again, those beyond 4,096 of a stack into the view pool; none while the pool has
no room for them (R44, R53, R343; log entry 80). -/
def State.readSpawns (s : State) (l : Launch) : Nat → Nat → Option State
  | 0, _ => some s
  | n + 1, at_ =>
    let num := fun off k => s.devNum l.ctx (at_ + off) k
    let die := if l.dieMask.testBit (num 17 1 % 32) then num 17 1 % 32 else leastD 0 (setBits l.dieMask 24)
    let x : Spawn := { launch := l.id, ctx := l.ctx, lb := num 0 8 % 2 ^ 57, pindex := num 8 8, slot := num 16 1,
                       vrec := num 24 8, seed := BitVec.ofNat 64 (num 32 8), pool := none, num := s.nextId }
    (s.bump.stackPlace die x).bind fun y =>
      let s : State := { y.1 with spawns := modifyAt y.1.spawns die fun q => y.2 :: q }
      (s.knowRecord l.ctx l.id 256 x.vrec).readSpawns l n (at_ + 64)

/-- The packets of a context's guest queues run again: RESUME (R264). -/
def State.resumeGuests (s : State) (ctx : Nat) : State :=
  let sockets := s.sockets.map fun k => { k with queues := k.queues.map fun q =>
    (q.1, if q.2.bound.map (·.1) = some ctx then { q.2 with stopped := false } else q.2) }
  { s with sockets := sockets }

/-- The launch of a saved image, its ticket counters as the image holds them (R33, R53, R54). -/
def State.savedLaunchOf (s : State) (l : Launch) (pref : List Nat) : Launch :=
  let disp := s.hdr l.ctx l.image 0x80 8
  let dies := setBits l.dieMask 24
  let counters := (upFrom 0 24).map fun d =>
    let at_ := disp + 16 * (dies.filter fun x => decide (x < d)).length
    if d ∈ dies then (s.devNum l.ctx at_ 8, s.devNum l.ctx (at_ + 8) 8) else (0, 0)
  { l with counters := counters, restoring := some pref }

/-- The pad groups and spawn-stack entries of a saved image come back on their cores (R54); none while its pad groups find
no cores or its units no room for their barriers (R342), or a pre-emption of the context is under way (R52). -/
def State.restore (s : State) (l : Launch) (pref : List Nat) : Option State :=
  if !s.mayStart l.ctx then none
  else
  let num := s.hdr l.ctx l.image
  let units := s.savedUnits l
  let order := if l.dom then upFrom 0 1152 else pref ++ upFrom 0 1152
  (s.placePads l order units [] []).bind fun cores =>
  (s.restoreUnits l (units.zip cores)).bind fun s =>
    let s := s.mapLaunch l.id fun x => { x with restoring := none }
    let s := s.moveWork l.ctx (savedLaunch l.image) l.id
    let s := s.readPads l (decide (num 0x0C 1 % 64 ≠ s.tap.position % 64)) (num 0x78 8) cores
    let sp := num 0x88 8
    (s.readSpawns l (if sp = 0 then 0 else s.devNum l.ctx sp 8) (sp + 64)).map fun s => s.resumeGuests l.ctx

/-- A command starts (R39, R40, R43, R54). A command of another OPC starts nothing (log entry 20). The work of a saved image
comes back at once, or as the dispatchers find cores for it. -/
def State.startCommand (s : State) (c : Command) (pref : List Nat) : State :=
  let take := fun (s : State) (last : Nat) => ({ s with queues := modifyAt s.queues c.queue fun k =>
    { (k.takeHead) with lastLaunch := last } } : State)
  if c.opc ≠ 1 then take s 0
  else match s.checkImage c with
    | some x => take (s.refuse c x.1 x.2) 0
    | none =>
      let s := s.openContext c
      let l := s.newLaunch c
      if s.hdr c.ctx c.image 6 2 = 1 then
        let l := s.savedLaunchOf l pref
        let s : State := take { (s.bump) with launches := s.launches ++ [l] } l.id
        (s.restore l pref).getD s
      else (take { (s.bump) with launches := s.launches ++ [l] } l.id).completeLaunch l.id

/-! ### Giving a core work (R44) -/

/-- The next unit of a launch for a core's die, if the launch has one there and its cores are free (R44); of a launch whose
saved work is still to come back, that work (R54). -/
def State.startNext (s : State) (l : Launch) (core : Nat) : Start :=
  match l.restoring with
  | some pref => match s.restore l (core :: pref) with
    | some s => .ok s
    | none => .busy
  | none =>
  let die := dieOf core
  let r := l.range die
  if r.2 ≤ r.1 ∨ l.failed ∨ s.mayStart l.ctx = false then .busy
  else if l.dom then s.startDomain l (setBits l.dieMask 24)
  else match s.unitCores l.grain l.np l.ns [] core with
    | none => .busy
    | some cores => match s.startUnit l r.1 cores with
      | .ok s => .ok (s.takeTicket l.id die)
      | x => x

/-- The first launch that gives the core work. -/
def State.tryLaunches (s : State) (core : Nat) : List Launch → State
  | [] => s
  | l :: rest =>
    match s.startNext l core with
    | .ok s => s
    | .held why => (s.holdLaunch l why).tryLaunches core rest
    | .busy => s.tryLaunches core rest

/-- The sectors of other modules that a dispatcher reads before it gives a core work. -/
def State.dispatchSectors (s : State) (core : Nat) : List (Nat × Nat × Nat) :=
  match s.nextSpawn (dieOf core) with
  | some x => s.blockSectors x.ctx x.lb false ++ s.tileSectors x.ctx x.vrec
  | none => s.launchOrder.flatMap fun l =>
    if l.restoring.isSome then s.imageSectors l.ctx l.image
    else if (l.range (dieOf core)).1 < (l.range (dieOf core)).2 then s.blockSectors l.ctx l.lb true else []

/-- A free core is given work: the spawn stack of its die first, then the ticket counters (R44). The dispatcher first
reads what it needs of other modules' memory (R39). -/
def State.dispatchCore (s : State) (core : Nat) : State :=
  if !s.coreFree core then s
  else
    let far := s.dispatchSectors core
    if !far.all s.hasFar then s.askFar far
    else
      let s' := match s.nextSpawn (dieOf core) with
        | some x => s.startSpawn core x
        | none => s.tryLaunches core s.launchOrder
      s'.forgetFar far

/-! ### The lottery (R40-R42, R345) -/

/-- A waiter on a claim word that names a context boosts it: the waiter's class (R345). -/
def State.boost (s : State) (ctx : Nat) : Option Nat :=
  if s.pads.any fun p => decide (p.ctx = ctx) then none
  else
    let cls := s.mem.ops.filterMap fun o => match o.kind with
      | .cmWait _ 8 _ c =>
        if c / 2 ^ 48 = ctx ∧ ctx ≠ 0 ∧ s.ownerOf ctx = s.ownerOf o.ctx then
          (s.pad? o.core).bind fun p => (s.launch? p.launch).map (·.cls)
        else none
      | _ => none
    if cls.isEmpty then none else some (leastD 3 cls)

/-- The class that a queue is served in. -/
def State.queueClass (s : State) (k : SubQueue) : Nat :=
  match k.bound with
  | none => 4
  | some b => match s.boost b.2.2 with
    | some c => min b.2.1 c
    | none => b.2.1

/-- The effective tickets of a queue (R42, R345, R376). -/
def State.tickets (s : State) (k : SubQueue) : Nat :=
  match k.bound with
  | none => 0
  | some (q, _, ctx) =>
    let n := match s.ctx? ctx with
      | none => q
      | some c =>
        if (c.eref : Int) ≤ c.balance then q
        else if 0 < c.balance then max 1 (q * c.balance.toNat / c.eref) else 0
    if (s.boost ctx).isSome then max 1 n else n

/-- Every die of a domain command's DIEMASK is free for it (R40). -/
def State.domainFree (s : State) (c : Command) : Bool :=
  let num := s.hdr c.ctx c.image
  let g := Geometry.of (num 0x10 8)
  !g.dom || (setBits (num 0x18 8 % 2 ^ 24) 24).all fun d => (s.unitCores g.grain g.np g.ns [] (48 * d)).isSome

/-- The command before has finished dispatching, and under SERIAL has completed (R40). -/
def State.behind (s : State) (k : SubQueue) (serial : Bool) : Bool :=
  match s.launch? k.lastLaunch with
  | none => true
  | some l => decide (k.lastLaunch = 0) || (!serial && l.restoring.isNone && l.counters.all fun r => decide (r.2 ≤ r.1))

/-- Intake is open: the front end is ready and a firmware complex lives (R284, R370). -/
def State.intake (s : State) : Bool := s.readyBit 87 && decide (s.firmware.failed < 2)

/-- The command restores a context whose owner's TDI has left RUN (R366). -/
def State.restoreCut (s : State) (c : Command) : Bool :=
  decide (c.opc = 1 ∧ s.hdr c.ctx c.image 6 2 = 1) && s.ownerCut (s.ownerOf c.ctx)

/-- The queue is eligible (R40, R251, R284, R366). -/
def State.eligible (s : State) (q : Nat) : Bool :=
  let k := atD SubQueue.zero s.queues q
  s.intake && k.bound.isSome &&
  (match s.command? q with
   | none => false
   | some c => s.behind k c.serial && s.commandRead c && !s.restoreCut c &&
      (decide (c.opc ≠ 1) || (s.checkImage c).isSome ||
        (s.domainFree c && !(s.readyDies (s.hdr c.ctx c.image 0x18 8 % 2 ^ 24)).isEmpty)))

/-- The first queue whose running sum of weights exceeds v (R41). -/
def pickBySum (v : Nat) : Nat → List (Nat × Nat) → Option Nat
  | _, [] => none
  | sum, (q, w) :: rest => if v < sum + w then some q else pickBySum v (sum + w) rest

/-- The queue that the front end picks, and the generator after it (R40, R41). -/
def State.drawQueue (s : State) : Option (Nat × BitVec 64) :=
  let qs := (upFrom 0 64).filter s.eligible
  let cls := leastD 4 (qs.map fun q => s.queueClass (atD SubQueue.zero s.queues q))
  let e := qs.filter fun q => decide (s.queueClass (atD SubQueue.zero s.queues q) = cls)
  let w := e.map fun q => (q, s.tickets (atD SubQueue.zero s.queues q))
  let w := if w.all fun x => decide (x.2 = 0) then
      e.map fun q => (q, (((atD SubQueue.zero s.queues q).bound).map (·.1)).getD 0)
    else w
  match w with
  | [] => none
  | [x] => some (x.1, s.lottery)
  | _ =>
    let g := rngStep s.lottery
    let total := (w.map (·.2)).foldl (· + ·) 0
    (pickBySum ((rngOut g).toNat % total) 0 w).map fun q => (q, g)

/-- The front end asks for what the command at a queue's head reads of other modules' memory (R39). -/
def State.askCommand (s : State) (q : Nat) : State :=
  let k := atD SubQueue.zero s.queues q
  if !s.intake || k.bound.isNone then s
  else match s.command? q with
    | none => s
    | some c =>
      if s.behind k c.serial then s.askFar (s.commandSectors c) else s

/-- The front end picks a queue, the generator goes on, and the command starts (R41). -/
def State.pickQueue (s : State) (pref : List Nat) : State :=
  let s := (upFrom 0 64).foldl (fun (s : State) (q : Nat) => s.askCommand q) s
  match s.drawQueue with
  | none => s
  | some (q, g) => match s.command? q with
    | none => s
    | some c =>
      let far := s.commandSectors c
      (State.startCommand { s with lottery := g } c pref).forgetFar far

end Sys2Proof.Machine
end

