-- ==== Sys2Proof/Machine/TaskInstr.lean ====
section
/-! DEFINITION. Task and system words, majors 0x3C and 0x3E (R237, R242, R243, R246-R252, R302, R304). -/

namespace Sys2Proof.Machine

/-! ### Special registers (R248, R302) -/

/-- The low word of a number. -/
def lowWord (v : Nat) : Word := BitVec.ofNat 32 v
/-- Bits [63:32] of a number. -/
def highWord (v : Nat) : Word := BitVec.ofNat 32 (v / 2 ^ 32)

/-- CYC: core cycles in which the file group was resident (R248). -/
def State.cyc (s : State) (p : Pad) (g : FileGroup) : Nat :=
  g.cycles + (s.coreClk p.core - g.born) * (atD DieState.zero s.dies (dieOf p.core)).clock / 10

/-- The binding word of the queue that QSEL selects; 0 for an unbound queue (R248, R251). -/
def State.qbindWord (s : State) : Nat :=
  match (atD SubQueue.zero s.queues s.service.qsel).bound with
  | none => 0
  | some (q, cls, ctx) => q * 2 ^ 32 + cls * 2 ^ 16 + ctx

/-- TSTAT (R302). -/
def FileGroup.tstat (g : FileGroup) : Nat :=
  g.bank.nht % 2 ^ 16 * 2 ^ 16 + (if g.bank.pmode then 8 else 0) + g.level % 4

/-- The value of special register n for a thread (R248, R302). -/
def State.readSr (s : State) (p : Pad) (fg : Nat) (g : FileGroup) (lane : Nat) (t : Thread) (n : Nat) : Word :=
  let c := s.ctx? p.ctx
  match n with
  | 0 => lowWord (s.ownerOf p.ctx * 2 ^ 16 + p.ctx % 2 ^ 16)
  | 1 => lowWord (whereWord s.tap.position p.core fg)
  | 2 => lowWord (twos 64 ((c.map (·.balance)).getD 0))
  | 3 => highWord (twos 64 ((c.map (·.balance)).getD 0))
  | 4 => lowWord (atD DieState.zero s.dies (dieOf p.core)).energy
  | 5 => highWord (atD DieState.zero s.dies (dieOf p.core)).energy
  | 6 => lowWord (s.ageLimit p.ctx)
  | 7 => lowWord t.rng.toNat
  | 8 => highWord t.rng.toNat
  | 9 => lowWord (s.cyc p g)
  | 10 => lowWord p.top
  | 11 => lowWord lane
  | 16 => g.bank.cause
  | 17 => lowWord g.bank.epc.toNat
  | 18 => highWord g.bank.epc.toNat
  | 19 => lowWord g.bank.addr.toNat
  | 20 => highWord g.bank.addr.toNat
  | 21 => g.bank.info
  | 22 => g.bank.word
  | 23 => lowWord g.tstat
  | 30 => lowWord g.bank1.epc.toNat
  | 31 => highWord g.bank1.epc.toNat
  | 32 => lowWord s.service.qsel
  | 33 => lowWord s.qbindWord
  | 34 => highWord s.qbindWord
  | 35 => lowWord ((c.map (·.erefill)).getD 0)
  | n => if 24 ≤ n ∧ n < 30 then atD 0 g.tscr (n - 24) else 0

/-- A return address with one half written; [63:57] are reserved (R302). -/
def putHalf (epc : BitVec 64) (high : Bool) (v : Word) : BitVec 64 :=
  if high then BitVec.ofNat 64 (v.toNat % 2 ^ 25 * 2 ^ 32 + epc.toNat % 2 ^ 32)
  else BitVec.ofNat 64 (epc.toNat / 2 ^ 32 * 2 ^ 32 + v.toNat)

/-- A generator's state with one half written (R116, R248). -/
def putRng (g : BitVec 64) (high : Bool) (v : Word) : BitVec 64 :=
  rngSeed (if high then BitVec.ofNat 64 (v.toNat * 2 ^ 32 + g.toNat % 2 ^ 32)
    else BitVec.ofNat 64 (g.toNat / 2 ^ 32 * 2 ^ 32 + v.toNat))

/-- A file group's trap register n written (R302). -/
def FileGroup.putTrap (g : FileGroup) (n : Nat) (v : Word) : FileGroup :=
  match n with
  | 16 => g.setBank { g.bank with cause := BitVec.ofNat 32 (v.toNat % 2 ^ 19) }
  | 17 => g.setBank { g.bank with epc := putHalf g.bank.epc false v }
  | 18 => g.setBank { g.bank with epc := putHalf g.bank.epc true v }
  | 23 => g.setBank { g.bank with pmode := v.getLsbD 3 }
  | 30 => { g with bank1 := { g.bank1 with epc := putHalf g.bank1.epc false v } }
  | 31 => { g with bank1 := { g.bank1 with epc := putHalf g.bank1.epc true v } }
  | n => if 24 ≤ n ∧ n < 30 then { g with tscr := modifyAt g.tscr (n - 24) fun _ => v } else g

/-- A shared special register written (R248). -/
def State.writeSr (s : State) (core fg ctx n : Nat) (v : Word) : State :=
  match n with
  | 32 => { s with service := { s.service with qsel := v.toNat % 64 } }
  | 35 => s.mapCtx ctx fun c => { c with erefill := v.toNat }
  | n => s.mapFg core fg fun g => g.putTrap n v

/-- `wrsr`: the generator of each lane, or one write of the highest lane's value (R248). -/
def State.wrsrWord (s : State) (i : Instr) (n : Nat) : State :=
  s.runWord i fun s r lanes =>
    let ctx := ((s.pad? r.core).map (·.ctx)).getD 0
    let x := lanes.foldl (fun (x : State × Word) (l : Nat) =>
      let y := x.1.operands r l i.reads
      (if n = 7 ∨ n = 8 then
        y.1.mapThread r.core r.fg l fun t => { t with rng := putRng t.rng (decide (n = 8)) (nth y.2 0) }
       else y.1, nth y.2 0)) (s, 0)
    if n = 7 ∨ n = 8 then x.1 else x.1.writeSr r.core r.fg ctx n x.2

/-! ### Shared operations -/

/-- The lanes are held at a word until what it waits for is there, and settled at once where it is. -/
def State.holdLanes (s : State) (r : Run) (lanes : List Nat) (w : WaitKind) : State :=
  lanes.foldl (fun (s : State) (l : Nat) => s.settleThread r.core r.fg l)
    (s.mapLanes r.core r.fg lanes fun _ t => { t with wait := w })

/-- The live mask in words 1 and 2 of the packet of a `safept` (R140, R243): bits 0 and 56-63 read as 0. -/
def State.liveMask (s : State) (p : Pad) (g : FileGroup) (pc : Nat) : Nat :=
  let word := fun a => match s.fetchWord p g a with
    | .word w => w.toNat
    | _ => 0
  (word ((pc + 4) % 2 ^ 57) + word ((pc + 8) % 2 ^ 57) * 2 ^ 32) % 2 ^ 56 / 2 * 2

/-- `vinfo`'s word for a tile (R242). -/
def viewInfo (tiles : List Tile) (n : Nat) : Word :=
  match tiles[n]? with
  | none => 0
  | some t => if t.pages = 0 then 0 else BitVec.ofNat 32 (2 ^ 31 + t.fmt * 2 ^ 28 + t.op * 2 ^ 25 + t.pages % 2 ^ 17)

/-- A range of 256-byte lines from an operand address, as `dcwb` and `icinv` name it (R246). -/
def lineRange (va arg : Nat) : Nat × Nat := (va / 256 * 256, va / 256 * 256 + 256 * (arg + 1))

/-- Instruction-cache lines of a context that overlap a range are dropped in every core (R246). -/
def State.dropCode (s : State) (ctx lo hi : Nat) : State :=
  { s with icache := s.icache.filter fun x =>
      decide (x.ctx ≠ ctx ∨ 192 * x.line + 192 ≤ lo ∨ hi ≤ 192 * x.line) }

/-- A submission queue changed. -/
def State.mapSub (s : State) (q : Nat) (f : SubQueue → SubQueue) : State :=
  { s with queues := modifyAt s.queues q f }

/-- `gbind` sends BIND and waits for BINDACK (R252, R261). -/
def State.bindGuest (s : State) (sock q ctx : Nat) : State :=
  s.mapQueue sock q fun k => { k with binding := some (ctx, 0, s.clk) }

/-- Packets among items. -/
def packetCount (items : List GItem) : Nat :=
  (items.filter fun i => match i with
    | .packet _ _ _ => true
    | .join _ _ _ _ => false).length

/-- `gunbind` sends UNBIND and waits for QSTATE with U = 1 (R252, R265). A queue that runs owes the guest die the packets
accepted before. -/
def State.unbindGuest (s : State) (sock q : Nat) : State :=
  s.mapQueue sock q fun k =>
    { k with unbinding := some (0, s.clk), owed := if k.stopped then 0 else packetCount k.fifo }

/-! ### Meanings -/

/-- R237: each lane waits for its accesses and exits. -/
def execExit (g : BitVec 4) (d : BitVec 6) (n : BitVec 3) (s : State) : Result :=
  .next (s.runWord (.exit g d n) fun s r lanes => s.holdLanes r lanes (.exiting d.toNat n.toNat))

/-- R243: a thread passes, or with a pre-emption pending waits for its accesses and parks with the packet's mask. -/
def execSafept (s : State) : Result :=
  .next (s.runWord .safept fun s r lanes =>
    match s.pad? r.core, s.fg? r.core r.fg with
    | some p, some g =>
      if (s.preempt? p.ctx).isNone then s else s.holdLanes r lanes (.saving (s.liveMask p g r.pc.toNat))
    | _, _ => s)

/-- R242. -/
def execVinfo (c : Bool) (g : BitVec 4) (d : BitVec 6) (n : BitVec 2) (s : State) : Result :=
  .next (s.runWord (.vinfo c g d n) fun s r lanes =>
    let tiles := ((s.pad? r.core).map (·.views)).getD []
    lanes.foldl (fun (s : State) (l : Nat) => s.writeRegs r.core r.fg l [(d.toNat, viewInfo tiles n.toNat)]) s)

/-- R250: every lane that executes it takes the trap (R301); no lane completes it. -/
def execTrap (g : BitVec 4) (n : BitVec 9) (s : State) : Result := .next (s.runWord (.trap g n) fun s _ _ => s)

/-- R250: every lane that executes it enters the system handler (R301); no lane completes it. -/
def execSysc (g : BitVec 4) (n : BitVec 9) (s : State) : Result := .next (s.runWord (.sysc g n) fun s _ _ => s)

/-- R250: a trap, or where system software has enabled a debug agent a break to it, of which the manual says no more. -/
def execBrk (g : BitVec 4) (n : BitVec 9) (s : State) : Result :=
  match s.running with
  | none => .next s
  | some (r, _, gr) =>
    if s.service.debugAgent && !(r.executing gr (.brk g n)).isEmpty then .refused .debugAgent
    else .next (s.runWord (.brk g n) fun s _ _ => s)

/-- R250, R304. -/
def execRti (g : BitVec 4) (s : State) : Result :=
  .next (s.runWord (.rti g) fun s r lanes => (s.trapReturn r.core r.fg lanes).settleFg r.core r.fg)

/-- R248, R302. -/
def execRdsr (c : Bool) (g : BitVec 4) (d : BitVec 6) (n : BitVec 9) (s : State) : Result :=
  .next (s.runWord (.rdsr c g d n) fun s r lanes =>
    match s.pad? r.core, s.fg? r.core r.fg with
    | some p, some gr => lanes.foldl (fun (s : State) (l : Nat) =>
        s.writeRegs r.core r.fg l [(d.toNat, s.readSr p r.fg gr l (s.oldThread r l) n.toNat)]) s
    | _, _ => s)

/-- R248, R302. -/
def execWrsr (c : Bool) (g : BitVec 4) (d : BitVec 6) (n : BitVec 9) (s : State) : Result :=
  .next (s.wrsrWord (.wrsr c g d n) n.toNat)

/-- R249. -/
def execRdclk (c : Bool) (g : BitVec 4) (d : BitVec 6) (s : State) : Result :=
  .next (s.runWord (.rdclk c g d) fun s r lanes =>
    lanes.foldl (fun (s : State) (l : Nat) =>
      s.writeRegs r.core r.fg l (regWrites d.toNat true (s.coreClk r.core))) s)

/-- R246: the thread is held until its stores to the range are visible; then the lines leave its L1 and L2. -/
def execDcwb (c : Bool) (g : BitVec 4) (d : BitVec 6) (n : BitVec 9) (s : State) : Result :=
  .next (s.runWord (.dcwb c g d n) fun s r lanes =>
    lanes.foldl (fun (s : State) (l : Nat) =>
      let x := lineRange ((s.sourceThread r l).pair d.toNat).toNat n.toNat
      s.holdLanes r [l] (.cache x.1 x.2)) s)

/-- R246. -/
def execIcinv (c : Bool) (g : BitVec 4) (d : BitVec 6) (n : BitVec 9) (s : State) : Result :=
  .next (s.runWord (.icinv c g d n) fun s r lanes =>
    lanes.foldl (fun (s : State) (l : Nat) =>
      let x := lineRange ((s.sourceThread r l).pair d.toNat).toNat n.toNat
      s.dropCode (((s.pad? r.core).map (·.ctx)).getD 0) x.1 x.2) s)

/-- R246. -/
def execFbar (g : BitVec 4) (s : State) : Result :=
  .next (s.runWord (.fbar g) fun s r _ => s.mapFg r.core r.fg fun g => { g with fetched := [], ahead := s.clk })

/-- R251: the binding words of the lanes, in thread order. -/
def execQbind (c : Bool) (g : BitVec 4) (d : BitVec 6) (q : BitVec 6) (s : State) : Result :=
  .next (s.runWord (.qbind c g d q) fun s r lanes =>
    lanes.foldl (fun (s : State) (l : Nat) =>
      let w := ((s.sourceThread r l).pair d.toNat).toNat
      s.mapSub q.toNat fun k => { k with bound := some (w / 2 ^ 32 % 2 ^ 16, w / 2 ^ 16 % 4, w % 2 ^ 16) }) s)

/-- R251. -/
def execQunbind (c : Bool) (g : BitVec 4) (q : BitVec 6) (s : State) : Result :=
  .next (s.runWord (.qunbind c g q) fun s _ _ => s.mapSub q.toNat fun k => { k with bound := none })

/-- R252, R261: the lanes are held until the guest die acknowledges the binding. -/
def execGbind (c : Bool) (g : BitVec 4) (d : BitVec 6) (k : BitVec 1) (q : BitVec 6) (s : State) : Result :=
  .next (s.runWord (.gbind c g d k q) fun s r lanes =>
    let s := lanes.foldl (fun (s : State) (l : Nat) =>
      s.bindGuest k.toNat q.toNat (((s.sourceThread r l).reg d.toNat).toNat % 2 ^ 16)) s
    s.holdLanes r lanes (.binding k.toNat q.toNat))

/-- R252, R265: the lanes are held until the guest die reports the boundary; an unbound queue has none to report. -/
def execGunbind (c : Bool) (g : BitVec 4) (k : BitVec 1) (q : BitVec 6) (s : State) : Result :=
  .next (s.runWord (.gunbind c g k q) fun s r lanes =>
    if (s.guestQueue k.toNat q.toNat).bound.isNone then s
    else (s.unbindGuest k.toNat q.toNat).holdLanes r lanes (.binding k.toNat q.toNat))

end Sys2Proof.Machine
end

