-- ==== Sys2Proof/Machine/TokenOps.lean ====
section
/-! DEFINITION. Dropping translations and trying parked work again (R98, R262, R271, R330), `seal` and `unseal` (R74, R185),
and the completion of a thread's outstanding instruction (R69). -/

namespace Sys2Proof.Machine

/-! ### Invalidation (R98, R262, R271) -/

/-- Ranges [a, b) and [c, d) meet. -/
def meets (a b c d : Nat) : Bool := decide (a < d ∧ c < b)

/-- The packet is an engine's access of some contexts in a range. -/
def Packet.usedIn (k : Packet) (f : Nat → Bool) (lo hi : Nat) : Bool :=
  match k.user with
  | some (ctx, va, n) => f ctx && meets va (va + n) lo hi
  | none => false

/-- Every cached translation of some contexts in a range is dropped, and the accesses in flight that were translated
through them, of lanes and of engines, are marked (R98, R185, R271). -/
def State.dropTrans (s : State) (f : Nat → Bool) (lo hi : Nat) : State :=
  let packets := s.fabric.packets.map fun k => { k with fresh := k.fresh || k.usedIn f lo hi }
  State.mapMem { s with fabric := { s.fabric with packets := packets } } fun m => { m with
    tlbs := m.tlbs.filter fun t => !(f t.ctx && meets t.va (t.va + t.size) lo hi)
    ops := m.ops.map fun o =>
      if f o.ctx && decide (0 < o.kind.span) && meets o.va (o.va + o.kind.span) lo hi then { o with fresh := true }
      else o }

/-- No access translated through a dropped entry of a range is in flight (R271). -/
def State.transGone (s : State) (f : Nat → Bool) (lo hi : Nat) : Bool :=
  (s.mem.ops.all fun o => !(o.fresh && f o.ctx && meets o.va (o.va + o.kind.span) lo hi)) &&
    s.fabric.packets.all fun k => !(k.fresh && k.usedIn f lo hi)

/-- A guest queue is bound to one of some contexts. -/
def Socket.serves (k : Socket) (f : Nat → Bool) : Bool :=
  k.queues.any fun q => match q.2.bound with
    | some b => f b.1
    | none => false

/-- The contexts that a socket's bound queues serve. -/
def Socket.boundCtxs (k : Socket) : List Nat :=
  k.queues.foldl (fun (a : List Nat) q => match q.2.bound with
    | some b => if b.1 ∈ a then a else a ++ [b.1]
    | none => a) []

/-- INVAL of a range to a guest die for some contexts, and the names of the messages (R262). -/
def State.sendInval (s : State) (sock lo hi : Nat) : List Nat → State × List (Nat × Nat)
  | [] => (s, [])
  | c :: rest =>
    let id := s.nextId
    let sockets := modifyAt s.sockets sock fun k => { k with invals := k.invals ++ [(id, c, lo, hi - lo, s.clk)] }
    let x := State.sendInval { (s.bump) with sockets := sockets } sock lo hi rest
    (x.1, (sock, id) :: x.2)

/-- INVAL to every guest die with a queue bound to one of some contexts (R262). -/
def State.sendInvals (s : State) (f : Nat → Bool) (lo hi : Nat) : State × List (Nat × Nat) :=
  [0, 1].foldl (fun (x : State × List (Nat × Nat)) k =>
    let so := atD Socket.zero x.1.sockets k
    let y := x.1.sendInval k lo hi (so.boundCtxs.filter f)
    (y.1, x.2 ++ y.2)) (s, [])

/-- INVALs of a list that have been acknowledged are gone. -/
def State.invalsGone (s : State) (l : List (Nat × Nat)) : Bool :=
  l.all fun x => (atD Socket.zero s.sockets x.1).invals.all fun i => decide (i.1 ≠ x.2)

/-! ### Parked work (R330) -/

/-- An entry that has stalled at an address of a range tries again. -/
def Entry.again (f : Nat → Bool) (lo hi : Nat) (e : Entry) : Entry :=
  if e.stalled.isSome && f e.ctx && decide (lo ≤ e.stallVa ∧ e.stallVa < hi) then { e with stalled := none } else e

/-- A matrix command that has halted at an address of a range tries again. -/
def MatCmd.again (f : Nat → Bool) (lo hi : Nat) (c : MatCmd) : MatCmd :=
  if c.stalled.isSome && f c.ctx && decide (lo ≤ c.stallVa ∧ c.stallVa < hi) then { c with stalled := none } else c

/-- An eft of a range is to try again. -/
def Eft.again (lo hi : Nat) (e : Eft) : Eft := if lo ≤ e.va ∧ e.va < hi then { e with retry := true } else e

/-- The parked work of a pad group tries again. -/
def Pad.again (f : Nat → Bool) (lo hi : Nat) (p : Pad) : Pad :=
  let fgs := if f p.ctx then p.fgs.map fun g => { g with efts := g.efts.map (Eft.again lo hi) } else p.fgs
  { p with fgs := fgs, ring := p.ring.map (Entry.again f lo hi), mq := p.mq.map (MatCmd.again f lo hi) }

/-- A stalled merge of a range tries again (R344). -/
def Merge.again (f : Nat → Bool) (lo hi : Nat) (m : Merge) : Merge :=
  if m.stalled.isSome && f m.ctx && decide (lo ≤ m.stallVa ∧ m.stallVa < hi) then { m with stalled := none } else m

/-- A stalled guest queue of a range is sent RETRY (R263). -/
def GQueue.again (f : Nat → Bool) (lo hi : Nat) (q : GQueue) : GQueue :=
  match q.bound with
  | some b => if q.stalled && f b.1 && decide (lo ≤ q.stallVa ∧ q.stallVa < hi) then { q with stalled := false } else q
  | none => q

/-- Every parked item of some contexts whose faulting address lies in a range tries again (R330, R377). -/
def State.retryParked (s : State) (f : Nat → Bool) (lo hi : Nat) : State :=
  let sockets := s.sockets.map fun k => { k with queues := k.queues.map fun q => (q.1, q.2.again f lo hi) }
  let preempts := s.preempts.map fun x => match x.stalled with
    | some a => if f x.ctx && decide (lo ≤ a ∧ a < hi) then { x with stalled := none } else x
    | none => x
  { s with
    pads := s.pads.map (Pad.again f lo hi)
    triggers := s.triggers.map (Entry.again f lo hi)
    mem := { s.mem with merges := s.mem.merges.map (Merge.again f lo hi) }
    sockets := sockets
    preempts := preempts }

/-- Addresses above every address of R55. -/
def vaTop : Nat := 2 ^ 64

/-! ### `seal` and `unseal` (R74, R185) -/

/-- An entry with its SEAL bit set or cleared (R270). -/
def entWithSeal (e : Nat) (b : Bool) : Nat :=
  if e.testBit 60 = b then e else if b then e + 2 ^ 60 else e - 2 ^ 60

/-- PSIZE of a page (R93). -/
def pageSizeCode (size : Nat) : Nat := if size = 2 ^ 16 then 0 else if size = 2 ^ 21 then 1 else 2

/-- Copies without a lease and replicas of a page are dropped (R68, R74). -/
def State.dropPage (s : State) (p : Page) (va : Nat) : State :=
  match s.pageLoc p (va / p.size * p.size) with
  | .mem key => s.mapMem fun m =>
    { m with copies := m.copies.filter fun c =>
        decide (c.expiry.isSome = true ∨ 256 * c.line < key ∨ key + p.size ≤ 256 * c.line) }
  | .remote mo pa => s.mapMem fun m =>
    { m with replicas := m.replicas.filter fun c =>
        decide (c.module ≠ mo ∨ 256 * c.line < pa ∨ pa + p.size ≤ 256 * c.line) }
  | _ => s

/-- The pages of a range are marked from 64 KiB unit k on: an entry of a local table at once, a pod page by a PTE record
as the broadcast queue takes it. Where a mark goes, what leaned on it goes with it. The number of units dealt with. -/
def State.markPages (s : State) (o : Op) (set : Bool) (base units : Nat) : Nat → Nat → State × Nat
  | 0, k => (s, k)
  | fuel + 1, k =>
    if units ≤ k then (s, k)
    else
      let va := base + 65536 * k
      match s.walk o.ctx va with
      | none => s.markPages o set base units fuel (k + 1)
      | some p =>
        let page := va / p.size * p.size
        let next := (page + p.size - base) / 65536
        if p.pod then
          if s.queueRoom 1 then
            (s.enqueueRecord (headerWord 5 (s.ownerOf o.ctx) s.tap.position false 0 o.ctx 0)
              (BitVec.ofNat 64 (page + pageSizeCode p.size)) (BitVec.ofNat 64 (entWithSeal (entClean p.entry) set)) 4
              o.id).markPages o set base units fuel next
          else (s, k)
        else
          let e := entClean (s.phys8 p.slot)
          let new : List SealMark := if entSeal e then [] else [{ slot := p.slot, op := o.id, lsn := 0 }]
          let s' := s.mapMem fun m => { m with
            marks := if set then m.marks ++ new else m.marks.filter fun k => decide (k.slot ≠ p.slot) }
          ((s'.ownStore p.slot (leBytes 8 (entWithSeal e set))).dropPage p va).markPages o set base units fuel next

/-- The write times of the pending versions of some lines: the last of them. -/
def State.pendingTime (s : State) (lines : List Nat) : Nat :=
  greatest 0 ((s.mem.pend.filter fun v => decide (v.line ∈ lines)).map (·.wt))

/-- Every store to some lines with a write time up to t is visible (R58). -/
def State.visibleTo (s : State) (lines : List Nat) (t : Nat) : Bool :=
  s.mem.pend.all fun v => decide (v.line ∉ lines ∨ t < v.wt ∨ v.wt ≤ s.dieClk (homeOf v.line))

/-- No packet that stores to a range of another module's memory is on its way (R185, R334). -/
def State.remoteQuiet (s : State) (ctx base units : Nat) : Bool :=
  s.fabric.packets.all fun k =>
    k.kind ∉ [1, 2, 4, 8, 10] || (upFrom 0 units).all fun n =>
      match s.walk ctx (base + 65536 * n) with
      | none => true
      | some p => match s.pageLoc p (base + 65536 * n) with
        | .remote m pa => decide (k.dest ≠ m ∨ k.addr < pa ∨ pa + 65536 ≤ k.addr)
        | _ => true

/-- The records of a seal have all been applied here. -/
def State.sealRecordsHere (s : State) (id : Nat) : Bool :=
  (s.tap.queue.all fun r => decide (r.origin ≠ 4 ∨ r.ref ≠ id)) &&
    s.tap.sent.all fun r => decide (r.2.origin ≠ 4 ∨ r.2.ref ≠ id ∨ r.1 ≤ s.tap.applied)

/-- A `seal` completes: no mark of its pages waits for a `seal` of this module any more (R74, R185). -/
def State.sealDone (s : State) (o : Op) (base units : Nat) : State :=
  let slots := (upFrom 0 units).filterMap fun n => (s.walk o.ctx (base + 65536 * n)).map (·.slot)
  s.mapMem fun m => { m with marks := m.marks.filter fun k => decide (k.op ≠ o.id ∧ (k.op = 0 ∨ k.slot ∉ slots)) }

/-- The records of a seal have all been applied on every module (R185). -/
def State.sealRecordsGone (s : State) (id : Nat) : Bool :=
  (s.tap.queue.all fun r => decide (r.origin ≠ 4 ∨ r.ref ≠ id)) &&
    s.tap.sent.all fun r => decide (r.2.origin ≠ 4 ∨ r.2.ref ≠ id)

/-- Guest copies of some lines are recalled (R260). -/
def State.recallLines (s : State) (lines : List Nat) : State :=
  lines.foldl (fun (s : State) (l : Nat) => s.recallGuests l) s

/-- A step of a `seal` or `unseal` (R74, R185): the marks, here those of pod pages too; then the earlier stores' visibility;
then the translations, with what was translated before; then the marks of the pod's other modules. So no store that the
marks have not stopped is left when it completes. -/
def State.sealStep (s : State) (o : Op) (set : Bool) (base units scope step n : Nat) : State :=
  let hi := base + 65536 * units
  let here := fun (c : Nat) => decide (c = o.ctx)
  let goto := fun (s : State) (step n : Nat) =>
    s.mapOp o.id fun x => { x with kind := .seal set base units scope step n }
  match step with
  | 0 =>
    let x := s.markPages o set base units (units - n + 1) n
    if x.2 < units then goto x.1 0 x.2 else goto x.1 1 0
  | 1 => if s.sealRecordsHere o.id then goto s 2 (s.pendingTime (s.rangeLines o.ctx base hi)) else s
  | 2 =>
    if s.visibleTo (s.rangeLines o.ctx base hi) n then
      let s := (s.dropTrans here base hi).recallLines (s.rangeLines o.ctx base hi)
      goto (s.sendInvals here base hi).1 3 0
    else s
  | 3 =>
    let lines := s.rangeLines o.ctx base hi
    let acked := s.sockets.all fun k => k.invals.all fun i =>
      !(decide (i.2.1 = o.ctx) && meets i.2.2.1 (i.2.2.1 + i.2.2.2.1) base hi)
    if s.transGone here base hi && acked && s.mem.gdir.all (fun d => decide (d.2.1 ∉ lines) || !d.2.2) &&
        s.mem.recalls.all (fun r => decide (r.2.1 ∉ lines)) &&
        s.remoteQuiet o.ctx base units && s.visibleTo lines vaTop then
      goto s 4 0
    else s
  | _ =>
    if s.sealRecordsGone o.id then
      let s := if set then s.sealDone o base units
        else s.mapMem fun m => { m with merges := m.merges.map (Merge.again here base hi) }
      (s.finishLanes o.core o.fg o.lanes o.inst []).dropOp o.id
    else s

/-! ### Completion (R69) -/

/-- INFO of a record about a packet: TAG, OPCODE and queue (R255, R263). -/
def packetInfo (q data : Nat) : Nat := data % 2 ^ 24 * 2 ^ 40 + data / 2 ^ 56 % 256 * 2 ^ 32 + q % 64 * 2 ^ 26

/-- A packet that an unbind or an isolation drops: its 0x0C06 record (R265, R362). -/
def State.packetLost (s : State) (sock q ctx data : Nat) : State :=
  s.report { (plainRec 0x0C06 5 ctx (s.ownerOf ctx) 0 (packetInfo q data) 0) with sub := sock } true false

/-- A step of an operation that no other row takes (R58, R73, R194, R196, R228, R229). -/
def State.opStep (s : State) (o : Op) : State :=
  match o.kind with
  | .fence scope =>
    if s.mayPerform o then
      let s := if 3 ≤ scope then s.mapLanes o.core o.fg o.lanes fun _ t => { t with floor := max t.floor t.mark } else s
      (s.finishLanes o.core o.fg o.lanes o.inst []).dropOp o.id
    else s
  | .visible wt _ =>
    match o.loc with
    | .mem key =>
      if wt ≤ s.dieClk (homeOf (lineOf key)) then (s.finishLanes o.core o.fg o.lanes o.inst []).dropOp o.id else s
    | _ => s
  | .cmLoad off size dst => s.performCmLoad o off size dst
  | .cmWait off size dst c => s.performCmWait o off size dst c
  | .seal set base units scope step n => s.sealStep o set base units scope step n
  | .guest sock q data =>
    if s.afterEarlier o then
      if (s.guestQueue sock q).bound.map (·.1) ≠ some o.ctx then
        ((s.packetLost sock q o.ctx data).finishLanes o.core o.fg o.lanes o.inst []).dropOp o.id
      else
      let item : GItem := .packet o.id (BitVec.ofNat 512 data) o.id
      ((s.mapQueue sock q fun k => { k with fifo := k.fifo ++ [item] }).finishLanes o.core o.fg o.lanes o.inst []).dropOp
        o.id
    else s
  | .join sock q _ marks =>
    if s.joinMet marks then
      let other := fun (i : GItem) => match i with
        | .join id _ _ _ => decide (id ≠ o.id)
        | .packet _ _ _ => true
      ((s.mapQueue sock q fun k => { k with fifo := k.fifo.filter other }).finishLanes o.core o.fg o.lanes o.inst
        []).dropOp o.id
    else s
  | .publish _ _ _ _ _ _ => s.publishDue o.core
  | _ => s

/-- The outstanding entries of an instruction that is complete for all its lanes leave the threads, and their token
clears (R69, R136). -/
def State.clearOuts (s : State) (core fg inst : Nat) : State :=
  match s.fg? core fg with
  | none => s
  | some g =>
    if g.threads.all fun t => t.outs.all fun x => decide (x.inst ≠ inst) || x.ready then
      s.mapFg core fg fun g =>
        { g with threads := g.threads.map fun t => { t with outs := t.outs.filter fun x => decide (x.inst ≠ inst) } }
    else s

/-- An instruction of a file group goes on as far as it may, and its token clears when it is complete (R69); threads held
behind it are settled. -/
def State.tokenClear (s : State) (core fg inst : Nat) : State :=
  let os := s.mem.ops.filter fun o => decide (o.core = core ∧ o.fg = fg ∧ o.inst = inst)
  let s := os.foldl (fun (s : State) (o : Op) => s.opStep o) s
  (((s.broadcastAll core fg inst).performFenceSeq core fg inst).clearOuts core fg inst).settleFg core fg

end Sys2Proof.Machine
end

