-- ==== Sys2Proof/Machine/PreemptOps.lean ====
section
/-! DEFINITION. Pre-emption and saves (R36, R52, R223, R264, R310-R313, R320, R377), energy accounts and the governor (R26,
R42, R281). -/

namespace Sys2Proof.Machine

/-- The state with a pre-emption changed. -/
def State.mapPreempt (s : State) (ctx : Nat) (f : Preempt → Preempt) : State :=
  { s with preempts := s.preempts.map fun x => if x.ctx = ctx then f x else x }

/-- The pad groups of a context. -/
def State.ctxPads (s : State) (ctx : Nat) : List Pad := s.pads.filter fun p => decide (p.ctx = ctx)

/-! ### Step 1 (R52, R310) -/

/-- A thread is at a safe point, or has exited (R52, R310). -/
def Thread.safe (level : Nat) (t : Thread) : Bool :=
  t.exited || t.parked.isSome || decide (t.level < level) ||
  (match t.wait with
   | .barrier => true
   | .sleep => true
   | .cmWait => true
   | .reconv => true
   | .eft => true
   | _ => false)

/-- Every thread of a file group is done; one at level 2 waits for that level to end, and a halted one is done (R310). -/
def FileGroup.safe (g : FileGroup) : Bool :=
  g.exited || g.halted || (decide (g.level < 2) && g.threads.all (Thread.safe g.level))

/-- Step 1 of a save is over (R52). -/
def State.threadsSafe (s : State) (ctx : Nat) : Bool := (s.ctxPads ctx).all fun p => p.fgs.all FileGroup.safe

/-! ### Step 2 (R52, R264) -/

/-- Copy issue stops, no thread of the context issues, and PREEMPT goes to the guest dies (R52, R264). -/
def State.stopIssue (s : State) (ctx : Nat) : State :=
  let stop := fun (q : GQueue) => match q.bound with
    | some b => if b.1 = ctx then { q with stopped := true, awaiting := some s.clk } else q
    | none => q
  let sockets := s.sockets.map fun k => { k with queues := k.queues.map fun q => (q.1, stop q.2) }
  let pads := s.pads.map fun p => if p.ctx = ctx then { p with stopped := true } else p
  State.mapPreempt { s with sockets := sockets, pads := pads } ctx fun x => { x with step := 2 }

/-- Step 2 of a save is taken once step 1 is over. -/
def State.stopCopies (s : State) (ctx : Nat) : State :=
  match s.preempt? ctx with
  | none => s
  | some x => if x.step = 1 ∧ s.threadsSafe ctx = true then s.stopIssue ctx else s

/-! ### Step 3 (R52, R223, R312) -/

/-- An entry that returns to the ring at a save: stalled before its first write, a posting that finds no storage, a
contribution that no window has taken an element of, or a join that is not met (R312, R339). -/
def Entry.returns (e : Entry) : Bool :=
  (e.stalled.isSome || decide (e.op = 4) || decide (e.op = 3 ∧ e.parkedOn = 0x0321) || decide (e.op = 2 ∧ e.retryGap ≠ 0)) &&
    decide (e.rows = 0) && !e.finished && decide (e.fail = 0) && e.armedDie.isNone

/-- A ring has drained, up to entries that return (R312) and have no packet on its way. -/
def State.ringStill (s : State) (p : Pad) : Bool :=
  match p.ring with
  | [] => true
  | e :: _ => e.returns && s.entryQuiet e

/-- A matrix queue is down to a command that goes to SEQ (R223). SEQ holds no other command. -/
def Pad.matrixStill (p : Pad) : Bool :=
  match p.mq with
  | [] => true
  | [c] => (decide (c.kind = 1) || decide (c.kind = 2)) && !c.applied && c.stalled.isNone
  | _ => false

/-- Operations in flight that a save withdraws or carries over (R196, R312, R367). -/
def OpKind.withdrawn : OpKind → Bool
  | .cmWait _ _ _ _ => true
  | .ats => true
  | .ringPut _ _ _ => true
  | _ => false

/-- What step 3 waits for is over (R52, R264, R312). -/
def State.drained (s : State) (ctx : Nat) : Bool :=
  ((s.ctxPads ctx).all fun p => s.ringStill p && p.matrixStill && p.fgs.any fun g => !g.exited) &&
  (s.mem.ops.all fun o => decide (o.ctx ≠ ctx) || o.kind.withdrawn) &&
  (s.mem.merges.all fun m => decide (m.ctx ≠ ctx) || m.stalled.isSome) &&
  s.sockets.all fun k => k.queues.all fun q => match q.2.bound with
    | some b => decide (b.1 ≠ ctx) || q.2.awaiting.isNone
    | none => true

/-- A matrix command that has halted is of class stalled, which a save does not wait for (R312). The image has no place for
it: an `mma` that halts at its status word loses the flags, and a tile command ends as one that fails (R340; DESIGN CHOICE,
log entry 59). -/
def State.withdrawStalled (s : State) (p : Pad) : State :=
  match p.mq with
  | [] => s
  | c :: _ => match c.stalled with
    | none => s
    | some cause =>
      let said := if c.flags = 0 then s else s.matRecord p.core c 0x0330 c.stallVa (c.flags % 32) false
      if c.applied then said.endCmd p.core c.id
      else if c.kind = 1 ∨ c.kind = 2 then said.mapCmd p.core c.id fun x => { x with flags := 0, stalled := none }
      else s.failCmd p.core c cause c.stallVa

/-- The threads whose instruction put an entry into the ring keep its token, to be set again at the restore (R54, R312). -/
def State.holdToken (s : State) (core fg : Nat) (lanes : List Nat) (inst notify : Nat) : State :=
  s.mapLanes core fg lanes fun _ t =>
    let held := (t.outs.filter fun o => decide (o.inst = inst)).map fun o => (2 ^ o.token, notify)
    { t with tokHeld := t.tokHeld ++ held, outs := t.outs.filter fun o => decide (o.inst ≠ inst) }

/-- A stalled entry and those behind it return to the ring (R312). -/
def State.returnEntries (s : State) (p : Pad) : State :=
  match p.ring with
  | [] => s
  | e :: _ =>
    let now := s.coreClk p.core
    let s := (p.ring.filter fun x => x.armedDie.isNone).foldl (fun (s : State) (x : Entry) =>
      ((s.setStatus x 0).holdToken x.core x.fg x.lanes x.inst p.notify).entryRecord x 0x0B01 1 false x.dst true) s
    s.mapPad p.core fun q => { (q.setWord (q.ctl + 4) e.count now) with ring := [] }

/-- The instructions whose entries have not been taken keep their tokens (R52, R54). -/
def State.holdUntaken (s : State) (p : Pad) : State :=
  s.mem.ops.foldl (fun (s : State) (o : Op) =>
    match o.kind with
    | .ringPut _ _ _ =>
      if o.core = p.core then (s.holdToken o.core o.fg o.lanes o.inst p.notify).dropOp o.id else s
    | _ => s) s

/-- The flags of the steps that a stopped command has applied go to its status word (R223, R227, R340); it halts where
the word's page is not present. -/
def State.flushFlags (s : State) (p : Pad) : State :=
  match p.mq with
  | [] => s
  | c :: _ =>
    let stat := shAddr38 c.a
    if stat = 0 ∨ c.flags = 0 then s
    else match s.statUpdate p c stat with
      | (s, none) => s.mapCmd p.core c.id fun x => if x.statSent then { x with flags := 0, statSent := false } else x
      | (s, some k) =>
        if eftCause k then s.stallCmd p.core c k stat
        else (s.matRecord p.core c 0x0330 stat (c.flags % 32) false).mapCmd p.core c.id fun x => { x with flags := 0 }

/-- A thread at level 2 goes back to level 1 at the level-2 return word, with every register live (R310). -/
def Thread.leaveLevel2 (b : TrapBank) (t : Thread) : Thread :=
  if t.level ≠ 2 then t
  else
    { t with pc := BitVec.ofNat 57 (b.epc.toNat % 2 ^ 57), system := b.pmode, level := 1, wait := .ready, waitArg := 0,
             waitSub := 0, parked := none }

/-- A file group at level 2 goes back to level 1 at the level-2 return word (R310). -/
def FileGroup.endLevel2 (g : FileGroup) : FileGroup :=
  if g.level < 2 then g
  else
    { g with threads := g.threads.map (Thread.leaveLevel2 g.bank2), level := 1 }

/-- A launch of a context, for the queue number of its records. -/
def State.ctxQueueNumber (s : State) (ctx : Nat) : Nat :=
  match s.launches.find? fun l => decide (l.ctx = ctx) with
  | some l => l.queue
  | none => 0

/-- The record of a forced save, once what it let complete is complete (R311 step 3). -/
def State.sayForced (s : State) (ctx : Nat) : State :=
  match s.preempt? ctx with
  | none => s
  | some x =>
    if x.forced then s.report (plainRec 0x0B00 9 ctx (s.ownerOf ctx) 0 (s.ctxQueueNumber ctx) 0) true true else s

/-- The pad groups of a context in the state that is saved (R196, R223, R310, R312). -/
def State.settleSave (s : State) (ctx : Nat) : State :=
  let s := (s.ctxPads ctx).foldl (fun (s : State) (p : Pad) => s.flushFlags p) s
  if (s.ctxPads ctx).any fun p => !p.matrixStill || p.mq.any fun c => decide (c.flags ≠ 0 ∧ shAddr38 c.a ≠ 0) ||
      !s.cmdQuiet c then s
  else
    let s := s.sayForced ctx
    let s := (s.ctxPads ctx).foldl (fun (s : State) (p : Pad) => (s.returnEntries p).holdUntaken p) s
    let end2 := fun (p : Pad) => if p.ctx = ctx then { p with fgs := p.fgs.map FileGroup.endLevel2 } else p
    State.mapPreempt { s with pads := s.pads.map end2 } ctx fun x => { x with step := 4 }

/-! ### Steps 4 and 5 (R36, R52, R377) -/

/-- The record of a save that stalls, none where a retry stalls on the page it parked on (R330, R377). -/
def State.saveRecord (s : State) (x : Preempt) (queue va : Nat) : State :=
  if x.parkedOn = 0x0B06 ∧ x.resumeAt / 2 ^ 16 = va / 2 ^ 16 then s
  else s.report (stalledRec 0x0B06 9 x.ctx (s.ownerOf x.ctx) va queue 0) true true

/-- A save stalls at a write (R377). -/
def State.stallSave (s : State) (x : Preempt) (l : Launch) (va : Nat) : State :=
  (s.saveRecord x l.queue va).mapPreempt l.ctx fun x =>
    { x with stalled := some va, resumeAt := va, parkedOn := 0x0B06
             sent := x.sent.filter fun n => decide (n ≠ l.id), written := x.written.filter fun n => decide (n ≠ l.id) }

/-- Writes of a save to other modules are not answered yet. -/
def State.savePending (s : State) (launch : Nat) : Bool :=
  s.fabric.packets.any fun k => decide (k.kind = 1 ∧ k.ref = launch)

/-- The image of a launch is written: the sections and header fields, and when every write is there, KIND (R36). -/
def State.writeImage (s : State) (x : Preempt) (l : Launch) : State :=
  let chunks := s.imageChunks l
  let pieces := chunks.flatMap fun c => sectorPieces (c.2.length + 1) c.1 c.2
  if !pieces.all (s.pieceReady l.ctx) then pieces.foldl (fun (s : State) (c : Chunk) => s.pieceWait l.ctx c) s
  else
  let first : State × Option Nat :=
    if l.id ∈ x.sent then (s, none) else s.saveChunks l.ctx l.id l.image x.resumeAt chunks.dropLast
  match first with
  | (s, some va) => s.stallSave x l va
  | (s, none) =>
    let s := s.mapPreempt l.ctx fun x => { x with sent := l.id :: x.sent }
    if s.savePending l.id then s
    else match s.saveChunks l.ctx l.id l.image 0 (chunks.drop (chunks.length - 1)) with
      | (s, some va) => s.stallSave x l va
      | (s, none) => s.mapPreempt l.ctx fun x => { x with resumeAt := 0, parkedOn := 0, written := l.id :: x.written }

/-- The images of a context's launches are written one after another, up to a write that cannot be made (R36, R377) or
is not answered. -/
def State.writeImages (s : State) (ctx : Nat) : List Launch → State
  | [] => s
  | l :: rest =>
    match s.preempt? ctx with
    | none => s
    | some x =>
      let s := if l.id ∈ x.written then s else s.writeImage x l
      match s.preempt? ctx with
      | none => s
      | some x => if l.id ∈ x.written ∧ s.savePending l.id = false then s.writeImages ctx rest else s

/-- A write of a save to another module has failed: the save stalls there (R377, log entry 21). -/
def State.saveFailed (s : State) (k : Packet) : State :=
  match s.launches.find? fun l => decide (l.id = k.ref) with
  | none => s
  | some l => match s.preempt? l.ctx with
    | none => s
    | some x =>
      let here := fun (p : Chunk) => decide (s.devLoc l.ctx p.1 true = some (.remote k.dest k.addr))
      let va := (s.imageChunks l).findSome? fun c => ((sectorPieces (c.2.length + 1) c.1 c.2).find? here).map (·.1)
      s.stallSave x l (va.getD l.image)

/-- The saved work leaves the module's cores and stacks; what outlives it stays under its image's name (R52, R53, R312). -/
def State.releaseContext (s : State) (ctx : Nat) : State :=
  let ls := s.launches.filter fun l => decide (l.ctx = ctx)
  let s := ls.foldl (fun (s : State) (l : Launch) => s.moveWork ctx l.id (savedLaunch l.image)) s
  let s := (s.ctxPads ctx).foldl (fun (s : State) (p : Pad) => s.freeCore p.core) s
  let taken := (s.spawns.flatten.filter fun x => decide (x.ctx = ctx)).filterMap (·.pool)
  let s := taken.foldl (fun (s : State) (a : Nat) => s.poolGive ctx a) s
  let mine := fun (l : Nat) => ls.any fun x => decide (x.id = l)
  let ops := s.mem.ops.filter fun o => decide (o.ctx ≠ ctx)
  { s with
    launches := s.launches.filter fun l => decide (l.ctx ≠ ctx)
    spawns := s.spawns.map fun q => q.filter fun x => decide (x.ctx ≠ ctx)
    units := s.units.filter fun u => !mine u.launch
    preempts := s.preempts.filter fun x => decide (x.ctx ≠ ctx)
    mem := { s.mem with ops := ops } }

/-- The launches of a context that a save writes: one whose saved work has not come back keeps the image it has (R36,
R54). -/
def State.savedLaunches (s : State) (ctx : Nat) : List Launch :=
  s.launches.filter fun l => decide (l.ctx = ctx) && l.restoring.isNone

/-- A save goes on: it waits for step 3, then writes the images and releases the cores (R52). -/
def State.saveContext (s : State) (ctx : Nat) : State :=
  match s.preempt? ctx with
  | none => s
  | some x =>
    if x.step < 2 ∨ x.stalled.isSome = true then s
    else
      let s := if x.step = 4 then s else (s.ctxPads ctx).foldl (fun (s : State) (p : Pad) => s.withdrawStalled p) s
      let s := if x.step = 4 then s else if s.drained ctx then s.settleSave ctx else s
      match s.preempt? ctx with
      | none => s
      | some x =>
        if x.step ≠ 4 then s
        else
          let s := s.writeImages ctx (s.savedLaunches ctx)
          match s.preempt? ctx with
          | none => s
          | some x =>
            if x.stalled.isSome || (s.savedLaunches ctx).any (fun l => decide (l.id ∉ x.written) || s.savePending l.id) then s
            else (s.releaseContext ctx).afterUpdate

/-! ### A forced save (R310, R311, R320) -/

/-- The `fence.seq` operations of a context whose LSN has not been reached. -/
def State.unreached (s : State) (ctx : Nat) : List Op :=
  s.mem.ops.filter fun o => decide (o.ctx = ctx) &&
    (match o.kind with
     | .fenceSeq all n => !s.lsnReached all n
     | _ => false)

/-- A `fence.seq` is withdrawn: its threads stand at its word again, wherever they have come since (R320). -/
def State.withdrawFence (s : State) (o : Op) : State :=
  let s := s.mapMem fun m => { m with ops := m.ops.filter fun x =>
    !(decide (x.core = o.core ∧ x.fg = o.fg) && (x.lanes.any fun l => decide (l ∈ o.lanes)) && (match x.kind with
      | .cmWait _ _ _ _ => true
      | _ => false)) }
  (s.mapLanes o.core o.fg o.lanes fun _ t =>
    { t with pc := t.outPc o.inst, outs := t.outs.filter fun x => decide (x.inst ≠ o.inst), wait := .ready, waitArg := 0,
             waitSub := 0, barrier := .no }).dropOp o.id

/-- System handlers still at level 2 are abandoned, each with a record (R310). -/
def State.abandon (s : State) (p : Pad) : State :=
  let s := (mapFrom (fun fg g => (fg, g)) 0 p.fgs).foldl (fun (s : State) (x : Nat × FileGroup) =>
    if x.2.level = 2 ∧ x.2.halted = false ∧ x.2.exited = false then
      s.report (plainRec 0x0B04 0 p.ctx (s.ownerOf p.ctx) 0 (x.2.bank2.epc.toNat % 2 ^ 57)
        (whereWord s.tap.position p.core x.1)) true true
    else s) s
  s.mapPad p.core fun q => { q with fgs := q.fgs.map fun g => if g.halted then g else g.endLevel2 }

/-- PTIMEOUT has expired on a save that still waits for threads or for a `fence.seq` (R311, R320). Fences are withdrawn from
the last to the first, so a thread with several stands at the first. -/
def State.forceSave (s : State) (ctx : Nat) : State :=
  match s.preempt? ctx, s.ctx? ctx with
  | some x, some c =>
    if s.clk < x.since + c.ptimeout ∨ x.step = 4 then s
    else
      let late := s.unreached ctx
      if (x.step = 1 ∧ s.threadsSafe ctx = false) ∨ !late.isEmpty then
        let s := late.foldr (fun (o : Op) (s : State) => s.withdrawFence o) s
        let s := s.mapPreempt ctx fun x => { x with forced := true }
        if x.step = 1 then ((s.ctxPads ctx).foldl (fun (s : State) (p : Pad) => s.abandon p) s).stopIssue ctx else s
      else s
  | _, _ => s

/-! ### Energy and the governor (R26, R42, R281) -/

/-- BALANCE refilled in every context record (R42). -/
def State.refill (s : State) : State :=
  if s.refills < s.clk / 1000000 then
    let ctxs := s.ctxs.map fun c => { c with balance := min (c.ecap : Int) (c.balance + (c.erefill : Int)) }
    { s with ctxs := ctxs, refills := s.refills + 1 }
  else s

/-- The pad groups of a die with their active cycles. -/
def State.activeOn (s : State) (die : Nat) (active : List Nat) : List (Nat × Nat) :=
  (mapFrom (fun i p => (p, atD 0 active i)) 0 s.pads).filterMap fun x =>
    if dieOf x.1.core = die then some (x.1.ctx, x.2) else none

/-- A context's part of a reading (R42). -/
def shareOf (ctx reading : Nat) (l : List (Nat × Nat)) : Nat :=
  let total := (l.map (·.2)).foldl (· + ·) 0
  if total = 0 then 0
  else reading * (((l.filter fun x => decide (x.1 = ctx)).map (·.2)).foldl (· + ·) 0) / total

/-- The meters of an interval are read, and the contexts charged (R26, R42). -/
def State.chargeEnergy (s : State) (readings active : List Nat) : State :=
  if s.energyMark < s.clk / 1000 then
    let dies := mapFrom (fun i d =>
      { d with energy := d.energy + atD 0 readings i, recent := (atD 0 readings i :: d.recent).take 10 }) 0 s.dies
    let charge : Ctx → Nat := fun c =>
      ((upFrom 0 24).map fun d => shareOf c.id (atD 0 readings d) (s.activeOn d active)).foldl (· + ·) 0
    let ctxs := s.ctxs.map fun c => { c with balance := c.balance - (charge c : Int) }
    { s with dies := dies, ctxs := ctxs, energyMark := s.energyMark + 1 }
  else s

/-- A die's core clock changed; the cycle counts of its file groups go on from the new rate (R23, R248). -/
def State.setClock (s : State) (die clock : Nat) : State :=
  let roll := fun (p : Pad) =>
    if dieOf p.core = die then
      { p with fgs := p.fgs.map fun g => { g with cycles := s.cyc p g, born := s.coreClk p.core } }
    else p
  { s with pads := s.pads.map roll, dies := modifyAt s.dies die fun d => { d with clock := clock } }

/-- One of the dies that reach the greatest value. -/
def topDie (seq : Nat) (vals : List Nat) : Nat :=
  let top := greatest 0 vals
  let at_ := (upFrom 0 vals.length).filter fun i => decide (atD 0 vals i = top)
  atD 0 at_ (Config.tie seq % at_.length)

/-- The governor acts on the draw of the last ten intervals (R281): a reading in microjoules for 1,000 ticks is a draw in
watts. -/
def State.govern (s : State) : State :=
  if s.governed < s.energyMark then
    let draw := fun (d : DieState) => d.recent.foldl (· + ·) 0
    let sum := (s.dies.map draw).foldl (· + ·) 0
    let compute := s.dies.take 24
    let s' : State := { s with governed := s.governed + 1 }
    if 10 * s.service.modCap < sum then
      let d := topDie s.seq (compute.map draw)
      let c := (atD DieState.zero s.dies d).clock
      if 10 < c then s'.setClock d (c - 1) else s'
    else if sum * 100 < 950 * s.service.modCap then
      let d := topDie s.seq (compute.map fun x => 20 - x.clock)
      let c := (atD DieState.zero s.dies d).clock
      if c < 20 then s'.setClock d (c + 1) else s'
    else s'
  else s

end Sys2Proof.Machine
end

