-- ==== Sys2Proof/Machine/LoopOps.lean ====
section
/-! DEFINITION. The loop tap: the token, stamping, tags, applying records, repair, bypass and joining (R84-R101, R269, R275,
R348-R356), and the host broadcast queues' completions (R274). -/

namespace Sys2Proof.Machine

/-- The state with the tap changed. -/
def State.mapTap (s : State) (f : Tap_ → Tap_) : State := { s with tap := f s.tap }

/-- A tap takes part in the loop. -/
def Tap_.onLoop (t : Tap_) : Bool := t.running && !t.bypassed

/-- A record of the loop tap (R356): to the fabric manager, and to the system fault queue where the cause goes there. -/
def State.tapRecord (s : State) (cause info : Nat) (stall sys : Bool) : State :=
  let r := if stall then stalledRec cause 6 0xFFFF 0 0 info 0 else plainRec cause 6 0xFFFF 0 0 info 0
  (s.tellManager cause info).report r false sys

/-- The answer to a command of the fabric manager, with the command's sequence number: 1 done, 2 refused (R88, R276). The
commands are numbered in the order in which they come (DESIGN CHOICE, log entry 66). -/
def State.answerManager (s : State) (done : Bool) : State :=
  let r : FmReport := { cause := 0, arg := if done then 1 else 2, clk := s.clk, command := some s.fabric.commands }
  { s with fabric := { s.fabric with reports := s.fabric.reports ++ [r], commands := s.fabric.commands + 1 } }

/-! ### The token (R85, R348) -/

/-- One bit of CRC-16/CCITT-FALSE. -/
def crcBit (c : Nat) : Nat := if c.testBit 15 then (2 * c % 2 ^ 16) ^^^ 0x1021 else 2 * c

/-- A byte fed to the CRC. -/
def crcByte (c : Nat) (b : Byte) : Nat :=
  crcBit (crcBit (crcBit (crcBit (crcBit (crcBit (crcBit (crcBit (c ^^^ (b.toNat * 256)))))))))

/-- CRC-16/CCITT-FALSE of bytes (R348). -/
def crc16 (bs : List Byte) : Nat := bs.foldl crcByte 0xFFFF

/-- Bytes 0x00 to 0x1D of a token (R85). -/
def Token.bytes (t : Token) : List Byte :=
  leBytes 8 t.nextLsn ++ leBytes 8 t.hz ++ leBytes 8 t.hacc ++ leBytes 4 t.rot ++ [BitVec.ofNat 8 (t.origin % 64), 0]

/-- The token with its check value (R348). -/
def Token.sealed_ (t : Token) : Token := { t with chk := crc16 t.bytes }

/-! ### Keys and tags (R92, R275) -/

/-- The loop key of an owner for an LSN: that of the last KEYROLL below it (R92, R275). -/
def Tap_.keyFor (t : Tap_) (owner lsn : Nat) : Nat :=
  match (t.rolled.filter fun r => decide (r.1 = owner ∧ r.2.1 < lsn)).getLast? with
  | some r => r.2.2
  | none => tabGet 0 t.keys owner

/-- The tag of a record (R92): KMAC256 of its LSN and bytes 0-23 under the owner's loop key, cut to 8 bytes. -/
def Tap_.tagFor (t : Tap_) (lsn : Nat) (hdr p0 p1 : BitVec 64) : BitVec 64 :=
  BitVec.ofNat 64 (leValue (kmac256 (leBytes Config.loopKeyBytes (t.keyFor (hdrOwner hdr) lsn))
    (leBytes 8 lsn ++ leBytes 8 hdr.toNat ++ leBytes 8 p0.toNat ++ leBytes 8 p1.toNat) (asciiBytes "NICEL")
    (64 + Config.tagMoreBits) 8))

/-- A stamped KEYROLL switches the key of the records above it (R275). -/
def Tap_.noteRoll (t : Tap_) (lsn : Nat) (hdr p0 : BitVec 64) : Tap_ :=
  if hdrType hdr = 0x22 ∧ hdrOwner hdr = 0 then
    { t with rolled := t.rolled ++ [(p0.toNat % 4096, lsn, tabGet 0 t.pendingKeys (p0.toNat % 4096))] }
  else t

/-- A record that passed its check enters the replay ring of 65,536 (R350). -/
def Tap_.keep (t : Tap_) (r : Stamped) : Tap_ :=
  { t with replay := if t.replay.length < 65536 then t.replay ++ [r] else t.replay.drop 1 ++ [r] }

/-- A tap that repairs a record holds up to 65,536 later ones (R350). -/
def Tap_.holds (t : Tap_) : Bool := t.missing.isEmpty || decide (t.pending.length < 65536)

/-- A record stamped by the tap: held for its turn, and under repair when its tag fails (R87, R92, R350). One that finds
65,536 held behind a repair is not held: it is under repair too (DESIGN CHOICE, log entry 85). -/
def Tap_.stamp (t : Tap_) (now : Nat) (r : Stamped) : Tap_ :=
  if t.holds then
    let t := { t with lsn := r.lsn, pending := t.pending ++ [r] }
    if r.valid then (t.keep r).noteRoll r.lsn r.hdr r.p0 else { t with missing := t.missing ++ [(r.lsn, now)] }
  else { t with lsn := r.lsn, missing := t.missing ++ [(r.lsn, now)] }

/-- Time since A(m) trails L(m) (R355). -/
def Tap_.noteLag (t : Tap_) (now : Nat) : Tap_ :=
  if t.applied < t.lsn then { t with lagSince := some (t.lagSince.getD now) } else { t with lagSince := none, lagSaid := false }

/-! ### Records of this module (R90, R97, R274) -/

/-- The record that this tap sent under an LSN. -/
def Tap_.own (t : Tap_) (lsn : Nat) : Option Rec := (t.sent.find? fun r => decide (r.1 = lsn)).map (·.2)

/-- A host broadcast queue changed. -/
def State.mapHbq (s : State) (n : Nat) (f : Hbq → Hbq) : State :=
  { s with service := { s.service with hbqs := modifyAt s.service.hbqs n f } }

/-- HEAD passes the slots whose status words have been written (R274). -/
def Hbq.pass : Nat → Hbq → Hbq
  | 0, k => k
  | fuel + 1, k =>
    if k.head ∈ k.done then
      Hbq.pass fuel { k with head := (k.head + 1) % 2 ^ 32, done := k.done.filter fun n => decide (n ≠ k.head) }
    else k

/-- Where the status word and the fetch of a ring slot stand (R274). -/
def State.hbqSlot (s : State) (q slot : Nat) : Nat := hostKey ((atD Hbq.zero s.service.hbqs q).base + 2048 + 16 * slot)

/-- The status word and the fetch of a ring slot may be written now; a write that the link's loss drops waits for nothing
(R365, R375). -/
def State.hbqReady (s : State) (q slot : Nat) : Bool := !s.service.linkUp || s.ownReady 0 (s.hbqSlot q slot) 16

/-- The fetch and then the status word of a ring slot written, and HEAD (R274). -/
def State.hbqStatus (s : State) (q slot fetch status : Nat) : State :=
  let k := atD Hbq.zero s.service.hbqs q
  let at_ := s.hbqSlot q slot
  let num := ((upFrom 0 64).map fun i => (k.head + i) % 2 ^ 32).find? fun n => decide (n % 64 = slot)
  let s := if s.service.linkUp then (s.ownStore (at_ + 8) (leBytes 8 fetch)).ownStore at_ (leBytes 8 status) else s
  (s.mapHbq q fun k => ({ k with done := k.done ++ [num.getD 0] } : Hbq).pass 64).afterUpdate

/-- A record of a host broadcast queue that has returned and has been applied or passed over is finished (R274). -/
def State.hbqDone (s : State) (lsn : Nat) : State :=
  match s.tap.own lsn with
  | none => s
  | some r =>
    if r.origin = 2 ∧ lsn ∈ s.tap.returned ∧ lsn ≤ s.tap.applied then
      match s.tap.fetches.find? fun x => decide (x.1 = lsn) with
      | none => s
      | some f =>
        if !s.hbqReady (r.ref / 64) (r.ref % 64) then s.ownWait (s.hbqSlot (r.ref / 64) (r.ref % 64)) 16
        else (s.mapTap fun t => { t with fetches := t.fetches.filter fun x => decide (x.1 ≠ lsn) }).hbqStatus (r.ref / 64)
          (r.ref % 64) f.2 (2 ^ 63 + lsn % 2 ^ 62)
    else s

/-- The fetch of a record is delivered to the sender, when this tap sent it (R97, R195); a record that is applied to a
resynchronized partition has been delivered before. -/
def State.deliver (s : State) (lsn fetch : Nat) (hostFetch : Bool) : State :=
  match s.tap.own lsn with
  | none => s
  | some r =>
    if !s.tap.redo.isEmpty then s
    else if r.origin = 0 then s.recordDone r.ref fetch
    else if r.origin = 2 then
      s.mapTap fun t => { t with fetches := t.fetches ++ [(lsn, if hostFetch then fetch else 0)] }
    else s

/-- All ones: the fetch of a record that was passed over (R96, R351). -/
def noFetch : Nat := 2 ^ 64 - 1

/-! ### Applying (R96-R100) -/

/-- The next record in LSN order, when it may be applied; before it the held records of a resynchronized owner (R96, R98,
R350, R354). -/
def Tap_.next? (t : Tap_) : Option Stamped :=
  match t.redo, t.pending with
  | r :: _, _ => if t.onLoop then some r else none
  | [], [] => none
  | [], r :: _ =>
    let joining := match t.snapshot with
      | some (_, none) => true
      | _ => false
    if t.onLoop && !joining && r.valid && decide (r.lsn = t.applied + 1) then some r else none

/-- A TYPE that no record has: it passes over (R93, R96, R275). -/
def reservedType (t owner : Nat) : Bool :=
  decide (t = 0 ∨ (5 < t ∧ t < 0x20) ∨ 0x22 < t) || (decide (0x20 ≤ t) && decide (owner ≠ 0))

/-- The owner's records are passed over: it has no valid partition, it is fenced, or its partition's copy holds the record
already (R96, R352, R354). Management records need no partition (log entry 24). -/
def State.passesOver (s : State) (r : Stamped) : Bool :=
  let o := hdrOwner r.hdr
  (decide (hdrType r.hdr < 0x20) && (s.partition o).isNone) || decide (o ∈ s.tap.fenced) ||
    s.tap.skip.any fun x => decide (x.1 = o ∧ r.lsn ≤ x.2)

/-- The head record has been applied or passed over: A(m) moves on, and waiting threads look again (R96, R196). -/
def State.advanceTap (s : State) (r : Stamped) : State :=
  if s.tap.redo.isEmpty then
    let s := s.mapTap fun t =>
      ({ t with applied := r.lsn, pending := t.pending.drop 1, skip := t.skip.filter fun x => decide (r.lsn < x.2) } :
        Tap_).noteLag s.clk
    (s.hbqDone r.lsn).scanCmWaits
  else (s.mapTap fun t => { t with redo := t.redo.drop 1 }).scanCmWaits

/-- A tap that joined has applied every record it held when it installed its copy (R354). -/
def Tap_.caughtUp (t : Tap_) : Bool :=
  match t.catchUp with
  | some n => decide (n ≤ t.applied)
  | none => false

/-- The replica of a tap that joined is synchronized (R354). -/
def State.joined (s : State) : State :=
  if s.readyBit 82 && !s.readyBit 83 && s.tap.onLoop && s.tap.snapshot.isNone && s.tap.caughtUp then
    (s.setReady 83 true).tapRecord 0x0607 s.tap.applied false true
  else s

/-- Records of reserved types at the head are passed over (R96). -/
def State.passReserved : Nat → State → State
  | 0, s => s
  | fuel + 1, s =>
    match s.tap.next? with
    | none => s
    | some r =>
      if reservedType (hdrType r.hdr) (hdrOwner r.hdr) then
        State.passReserved fuel ((s.deliver r.lsn noFetch false).advanceTap r)
      else s

/-- The tap passes reserved records at its head, and may complete a join. -/
def State.settleTap (s : State) : State := (State.passReserved (s.tap.pending.length + s.tap.redo.length + 1) s).joined

/-- What a STORE, ADD or CLAIM does to the replica, and its fetch; none when its bytes do not lie in the partition (R97). A
STORE or ADD of the reserved SIZE 2 or 3, which no sender makes (R274, R325), is passed over (DESIGN CHOICE, log entry 70). -/
def State.cmApply (s : State) (r : Stamped) : Option (State × Nat) :=
  let t := hdrType r.hdr
  let w := if t = 3 then 8 else if hdrSize r.hdr = 0 then 4 else 8
  if t ≠ 3 ∧ 1 < hdrSize r.hdr then none
  else match s.cmPlace (hdrOwner r.hdr) (r.p0.toNat % 2 ^ 22) w with
    | none => none
    | some a =>
      let old := s.cmRead a w
      let new := match t with
        | 1 => r.p1.toNat % 2 ^ (8 * w)
        | 2 => (old + r.p1.toNat) % 2 ^ (8 * w)
        | _ => if old = 0 then hdrCtx r.hdr * 2 ^ 48 + r.lsn % 2 ^ 48 else old
      some (s.cmWrite a w new, old)

/-- The next record is a STORE, ADD or CLAIM and applies or is passed over (R96, R97). -/
def State.applyCm (s : State) (t : Nat) : State :=
  match s.tap.next? with
  | none => s
  | some r =>
    if hdrType r.hdr ≠ t then s
    else
      let x := if s.passesOver r then none else s.cmApply r
      match x with
      | none => ((s.deliver r.lsn noFetch (decide (t = 2))).advanceTap r).settleTap
      | some (s, old) => ((s.deliver r.lsn old (decide (t = 2))).advanceTap r).settleTap

/-- The lowest-numbered submission queue bound to a context (R99). -/
def State.boundQueue (s : State) (ctx : Nat) : Option Nat :=
  (upFrom 0 64).find? fun q => match (atD SubQueue.zero s.queues q).bound with
    | some b => decide (b.2.2 = ctx)
    | none => false

/-- A LAUNCH record applies where its MASK names the module (R99, R100). -/
def State.launchApply (s : State) (r : Stamped) : State :=
  let ctx := hdrCtx r.hdr
  let aux := hdrAux r.hdr
  let owner := hdrOwner r.hdr
  let refused := fun (detail : Nat) =>
    (s.report (plainRec 0x0A02 9 ctx (s.ownerOf ctx) 0 r.lsn detail) (s.desc ctx).isSome true).countRecord ctx owner aux
      (2 ^ 32)
  if !r.p1.toNat.testBit s.tap.position then s
  else match s.boundQueue ctx with
    | none => refused 0
    | some q =>
      if (s.desc ctx).isNone then refused 1
      else s.mapSub q fun k =>
        let w : Waiting := { ctx := ctx, image := r.p0.toNat % 2 ^ 57, mask := r.p1.toNat, aux := aux, owner := owner,
                             lsn := r.lsn, after := k.tail }
        { k with waiting := k.waiting ++ [w] }

/-- The next record is a LAUNCH (R99). -/
def State.applyLaunch (s : State) : State :=
  match s.tap.next? with
  | none => s
  | some r =>
    if hdrType r.hdr ≠ 4 then s
    else
      let s := if s.passesOver r then s else s.launchApply r
      ((s.deliver r.lsn 0 false).advanceTap r).settleTap

/-- The slot of a pod page-table entry, reached through the tables of the replica (R269). -/
def State.podSlot (s : State) (owner va psize : Nat) : Option Nat :=
  match s.pool? owner with
  | none => none
  | some (base, size) =>
    let ok := fun a => decide (base ≤ a ∧ a + 8 ≤ base + size)
    let down := fun (a : Nat) => if ok a ∧ entV (s.phys8 a) ∧ entTbl (s.phys8 a) then some (base + entFrame (s.phys8 a)) else none
    let a1 := base + 8 * (va / 2 ^ 30 % 2 ^ 18)
    let at2 := fun (t : Nat) => t + 8 * (va / 2 ^ 21 % 512)
    let at3 := fun (t : Nat) => t + 8 * (va / 2 ^ 16 % 32)
    let slot := match psize with
      | 2 => some a1
      | 1 => (down a1).map at2
      | 0 => ((down a1).map at2).bind fun a2 => (down a2).map at3
      | _ => none
    slot.bind fun a => if ok a then some a else none

/-- Bytes of a page by PSIZE (R93). -/
def pageBytes (psize : Nat) : Nat := if psize = 0 then 2 ^ 16 else if psize = 1 then 2 ^ 21 else 2 ^ 30

/-- What leaned on the seal mark of the page that a slot maps goes with the entry (R68, R74). -/
def State.dropSlot (s : State) (slot size va : Nat) : State :=
  let e := s.phys8 slot
  if entV e && !entTbl e && entSeal e then s.dropPage { entry := e, size := size, slot := slot, pod := true } va else s

/-- The slot that a PTE record writes. -/
def State.pteSlot (s : State) (r : Stamped) : Option Nat :=
  s.podSlot (hdrOwner r.hdr) (r.p0.toNat % 2 ^ 57 / 2 ^ 16 * 2 ^ 16) (r.p0.toNat % 4)

/-- The SEAL marks of a slot once the record of an LSN has written an entry to it: a page newly sealed waits until every
module has applied the record (R185); an entry that stays as it was keeps its mark. -/
def State.pteMarks (s : State) (slot lsn entry : Nat) : List SealMark :=
  let other := s.mem.marks.filter fun k => decide (k.slot ≠ slot)
  if !entSeal entry || !entV entry || entTbl entry then other
  else if entClean (s.phys8 slot) = entry then
    s.mem.marks.map fun k => if k.slot = slot ∧ k.lsn = neverLsn then { k with lsn := lsn } else k
  else other ++ [{ slot := slot, op := 0, lsn := lsn }]

/-- The first two steps of a PTE record: the entry, without its reserved bits (R5), then the caches; the INVALs it waits for
(R98, R330). -/
def State.pteApply (s : State) (r : Stamped) : State × List (Nat × Nat) :=
  let owner := hdrOwner r.hdr
  let psize := r.p0.toNat % 4
  let va := r.p0.toNat % 2 ^ 57 / 2 ^ 16 * 2 ^ 16
  match s.pteSlot r with
  | none => (s.tapRecord 0x0609 r.lsn false true, [])
  | some a =>
    let n := pageBytes psize
    let lo := va / n * n
    let mine := fun (c : Nat) => decide (s.ownerOf c = owner)
    let e := entClean r.p1.toNat
    let marked := s.mapMem fun m => { m with marks := s.pteMarks a r.lsn e }
    (((marked.dropSlot a n lo).ownStore a (leBytes 8 e)).dropTrans mine lo (lo + n)).sendInvals mine lo (lo + n)

/-- The slot of a PTE record may be written now (R375). -/
def State.pteReady (s : State) (r : Stamped) : Bool :=
  match s.pteSlot r with
  | some a => s.ownReady 0 a 8
  | none => true

/-- A PTE record whose slot may not be written yet. -/
def State.pteWait (s : State) (r : Stamped) : State :=
  match s.pteSlot r with
  | some a => s.ownWait a 8
  | none => s

/-- The INVALs that the record of an LSN awaits, when its entry has been written (R98). -/
def Tap_.pteStarted (t : Tap_) (lsn : Nat) : Option (List (Nat × Nat)) :=
  match t.ptePending with
  | some (n, invals) => if n = lsn then some invals else none
  | none => none

/-- The next record is a PTE (R98): it is applied once every cache has acknowledged. -/
def State.applyPte (s : State) : State :=
  match s.tap.next? with
  | none => s
  | some r =>
    if hdrType r.hdr ≠ 5 then s
    else match s.tap.pteStarted r.lsn with
      | some invals =>
        if s.invalsGone invals then
          let n := pageBytes (r.p0.toNat % 4)
          let lo := r.p0.toNat % 2 ^ 57 / n * n
          let mine := fun (c : Nat) => decide (s.ownerOf c = hdrOwner r.hdr)
          ((((s.mapTap fun t => { t with ptePending := none }).retryParked mine lo (lo + n)).deliver r.lsn 0 false).advanceTap
            r).afterUpdate.settleTap
        else s
      | none =>
        if s.passesOver r then ((s.deliver r.lsn 0 false).advanceTap r).settleTap
        else if !s.pteReady r then s.pteWait r
        else
          let x := s.pteApply r
          x.1.mapTap fun t => { t with ptePending := some (r.lsn, x.2) }

/-- The next record is a management record of a type, and `f` applies it (R275), unless owner 0 is fenced (R352). -/
def State.applyManagement (s : State) (t : Nat) (f : State → Stamped → State) : State :=
  match s.tap.next? with
  | none => s
  | some r =>
    if hdrType r.hdr = t ∧ hdrOwner r.hdr = 0 then ((if s.passesOver r then s else f s r).advanceTap r).settleTap else s

/-- PART (R94, R275). -/
def State.partApply (s : State) (r : Stamped) : State := s.cmWrite (8 * (r.p0.toNat % 64)) 8 r.p1.toNat

/-- SYSST (R96, R275). -/
def State.sysstApply (s : State) (r : Stamped) : State :=
  let off := r.p0.toNat % 2 ^ 16 / 8 * 8
  if off < 512 then s else s.cmWrite off 8 r.p1.toNat

/-- KEYROLL: the owner's key from this LSN on (R275). -/
def State.keyrollApply (s : State) (r : Stamped) : State :=
  let o := r.p0.toNat % 4096
  s.mapTap fun t =>
    { t with keys := tabSet 0 t.keys o (t.keyFor o (r.lsn + 1))
             rolled := t.rolled.filter fun x => decide (x.1 ≠ o ∨ r.lsn < x.2.1) }

/-! ### Arrivals (R86-R90, R101, R348) -/

/-- A tap that takes a snapshot starts again when more than 65,536 records have come since its first (R354). -/
def Tap_.startAgain (t : Tap_) : Tap_ :=
  match t.snapshot with
  | some (j, none) => if j ≠ 0 ∧ 65536 < t.lsn + 1 - j then { t with snapshot := some (0, none), pending := [], missing := [] } else t
  | some (j, some o) => if 65536 < t.lsn + 1 - j then { t with snapshot := some (t.lsn + 1, some o) } else t
  | none => t

/-- A record reaches the tap from another module (R87, R92). -/
def State.arriveRecord (s : State) (hdr p0 p1 tag : BitVec 64) : State :=
  if !s.tap.onLoop then s
  else match s.tap.snapshot with
    | some (0, none) => s
    | snap =>
      let lsn := s.tap.lsn + 1
      let r : Stamped := { lsn := lsn, hdr := hdr, p0 := p0, p1 := p1, tag := tag,
                           valid := decide (s.tap.tagFor lsn hdr p0 p1 = tag) }
      let s := s.mapTap fun t => ((t.stamp s.clk r).noteLag s.clk).startAgain
      match snap with
      | some (_, none) => s
      | _ => s.settleTap

/-- One of this tap's records comes back (R90). -/
def State.returnRecord (s : State) (lsn : Nat) : State :=
  match s.tap.own lsn with
  | none => s
  | some r =>
    if lsn ∈ s.tap.returned then s
    else
      let s := s.mapTap fun t => { t with returned := t.returned ++ [lsn] }
      if r.origin = 0 then s.recordBack r.ref lsn else s.hbqDone lsn

/-- Records sent from the head of the queue under LSNs from n on (R86, R87, R92). -/
def State.sendRecords (s : State) : Nat → Nat → State
  | 0, _ => s
  | k + 1, n =>
    match s.tap.queue with
    | [] => s
    | r :: rest =>
      let tag := s.tap.tagFor n r.hdr r.p0 r.p1
      let st : Stamped := { lsn := n, hdr := r.hdr, p0 := r.p0, p1 := r.p1, tag := tag, valid := true }
      (s.mapTap fun t => ({ t with queue := rest, sent := t.sent ++ [(n, r)] } : Tap_).stamp s.clk st |>.startAgain).admitOutside.sendRecords k
        (n + 1)

/-- The token as the tap leaves it (R101). -/
def Tap_.passToken (t : Tap_) (k : Token) : Token :=
  if t.isOrigin then
    { k with hz := if t.skipHz then k.hz else k.hacc, hacc := t.applied, rot := (k.rot + 1) % 2 ^ 32, origin := t.position }
  else { k with hacc := min k.hacc t.applied }

/-- The token leaves the tap (R86, R88, R101, R349); the tap's records that every tap has applied are let go (R350). -/
def State.forwardToken (s : State) (k : Token) : State :=
  let k := k.sealed_
  let s := s.mapTap fun t =>
    let gone := fun (n : Nat) => decide (n ≤ k.hz) && decide (n ∈ t.returned)
    { t with
      sentToken := some k
      horizon := k.hz
      skipHz := if t.isOrigin then false else t.skipHz
      timer := if t.isOrigin then some s.clk else none
      sent := t.sent.filter fun r => !gone r.1
      returned := t.returned.filter fun n => !gone n }
  s

/-- Ready bits of a tap that a loop's first token has passed (R88). -/
def State.loopReady (s : State) : State :=
  if s.readyBit 82 then s else (s.setReady 82 true).setReady 83 true

/-- A token that a joining tap passes on as it is (R354): H(m) follows HZ, and at a tap that is the origin by its position the
loss timer starts again (R84, R349, log entry 27). -/
def Tap_.relayToken (t : Tap_) (now : Nat) (k : Token) : Tap_ :=
  { t with sentToken := some k.sealed_, horizon := k.hz, timer := if t.isOrigin then some now else t.timer }

/-- A tap that joins takes no part yet: it waits for its copy, it has not applied what it held, or the token's HZ is above
its A(m), which would let HZ fall (R353, R354). -/
def Tap_.joining (t : Tap_) (k : Token) : Bool :=
  match t.snapshot, t.catchUp with
  | some (_, none), _ => true
  | _, some n => decide (t.applied < n ∨ t.applied < k.hz)
  | _, none => false

/-- A valid token: up to 16 records go ahead of it (R86). -/
def State.takeToken (s : State) (k : Token) (send : Nat) : State :=
  let n := s.tap.queue.length
  let joining := s.tap.joining k
  let count := if n = 0 ∨ s.tap.missing ≠ [] ∨ joining = true then 0 else max 1 (min send (min 16 n))
  let s := s.sendRecords count k.nextLsn
  let k := { k with nextLsn := k.nextLsn + count }
  if joining then s.mapTap fun t => t.relayToken s.clk k
  else (((s.mapTap fun t => ({ t with catchUp := none } : Tap_).noteLag s.clk).forwardToken (s.tap.passToken k)).loopReady).settleTap

/-- Records that the tap has missed are under repair (R348, R350). -/
def Tap_.miss (t : Tap_) (now : Nat) : Nat → Nat → Tap_
  | 0, _ => t
  | k + 1, n => Tap_.miss { t with missing := t.missing ++ [(n, now)] } now k (n + 1)

/-- A token reaches the tap (R348). H(m) stays as it was when the token goes on unchanged because records were missed: R101
has it follow HZ when the token leaves after its hold (DESIGN CHOICE, log entry 83). -/
def State.arriveToken (s : State) (k : Token) (send : Nat) : State :=
  if !s.tap.onLoop then s
  else if k.sealed_.chk ≠ k.chk then s.tapRecord 0x0601 k.nextLsn false false
  else match s.tap.snapshot with
    | some (0, none) =>
      s.mapTap fun t => ({ t with lsn := k.nextLsn - 1, snapshot := some (k.nextLsn, none) } : Tap_).relayToken s.clk k
    | snap =>
      if k.nextLsn ≤ s.tap.lsn then s.tapRecord 0x0608 k.nextLsn false false
      else if k.nextLsn > s.tap.lsn + 1 then
        let s := s.mapTap fun t =>
          ({ (t.miss s.clk (k.nextLsn - 1 - t.lsn) (t.lsn + 1)) with lsn := k.nextLsn - 1, sentToken := some k } : Tap_).noteLag
            s.clk
        match snap with
        | some (_, none) => s
        | _ => s.loopReady
      else s.takeToken k send

/-- The origin's loss timer has run 20 µs: a PROBE goes out (R349). -/
def State.loseToken (s : State) : State :=
  match s.tap.timer with
  | some t =>
    if s.tap.onLoop && s.tap.isOrigin && decide (t + 20000 ≤ s.clk) then
      s.mapTap fun t => { t with timer := none, probing := true, probe := some t.lsn }
    else s
  | none => s

/-- A PROBE reaches the tap: any other tap raises MAXL and sends it on, and at the origin that sent it the token is made anew
(R349). -/
def State.arriveProbe (s : State) (maxl : Nat) : State :=
  if s.tap.onLoop && s.tap.isOrigin && s.tap.probing then
    let next := max maxl s.tap.lsn + 1
    let rot := match s.tap.sentToken with
      | some k => k.rot
      | none => 0
    let k : Token := { nextLsn := next, hz := s.tap.horizon, hacc := s.tap.applied, rot := (rot + 1) % 2 ^ 32,
                       origin := s.tap.position, chk := 0 }
    let s := s.mapTap fun t => { t with probing := false, sentToken := some k.sealed_, timer := some s.clk }
    s.tapRecord 0x0600 next false true
  else if s.tap.onLoop && !s.tap.isOrigin then s.mapTap fun t => { t with probe := some (max maxl t.lsn) }
  else s

/-! ### Repair (R350-R352) -/

/-- A record put into the held records in LSN order. -/
def insertStamped (r : Stamped) : List Stamped → List Stamped
  | [] => [r]
  | x :: rest =>
    if x.lsn = r.lsn then r :: rest else if r.lsn < x.lsn then r :: x :: rest else x :: insertStamped r rest

/-- A downstream tap asks for a record: it is answered from the replay ring, or the request goes upstream (R350). -/
def State.answerRepair (s : State) (lsn : Nat) : State :=
  if s.tap.onLoop then
    s.mapTap fun t => { t with repairs := t.repairs ++ [(lsn, t.replay.find? fun r => decide (r.lsn = lsn))] }
  else s

/-- A record under repair arrives from upstream (R350). -/
def State.repairRecord (s : State) (lsn : Nat) (hdr p0 p1 tag : BitVec 64) : State :=
  if (s.tap.missing.any fun m => decide (m.1 = lsn)) && decide (s.tap.tagFor lsn hdr p0 p1 = tag) then
    let r : Stamped := { lsn := lsn, hdr := hdr, p0 := p0, p1 := p1, tag := tag, valid := true }
    let s := s.mapTap fun t =>
      (({ t with pending := insertStamped r t.pending, missing := t.missing.filter fun m => decide (m.1 ≠ lsn) } : Tap_).keep
        r).noteRoll lsn hdr p0
    (s.tapRecord 0x0602 lsn false true).settleTap
  else s

/-- The owners that have a valid partition. -/
def State.partOwners (s : State) : List Nat := ((upFrom 0 64).filterMap s.partEntry).map (·.1)

/-- A `cm.wait` of an instruction of a file group waits no more: its threads stand at its word again (R352). -/
def State.withdrawWait (s : State) (o : Op) : State :=
  let pc := ((s.thread? o.core o.fg (leastD 0 o.lanes)).getD Thread.gone).outPc o.inst
  (s.mapLanes o.core o.fg o.lanes fun _ t =>
    { t with pc := pc, outs := t.outs.filter fun x => decide (x.inst ≠ o.inst)
             wait := if t.wait = .cmWait then .ready else t.wait }).dropOp o.id

/-- The trap of a `cm.wait` word on a fenced partition, as its lane issued it (R299, R302, R352). -/
def State.fenceInfo (s : State) (o : Op) : TrapInfo :=
  let t := (s.thread? o.core o.fg (leastD 0 o.lanes)).getD Thread.gone
  let pc := (t.outPc o.inst).toNat
  let at_ := match t.outs.find? fun x => decide (x.inst = o.inst) with
    | some x => (x.index, x.length)
    | none => (0, 1)
  let word := match s.pad? o.core, s.fg? o.core o.fg with
    | some p, some g => match s.fetchWord p g pc with
      | .word w => w.toNat
      | _ => 0
    | _, _ => 0
  { cause := 0x0604, precise := true, epc := pc, addr := 0, index := at_.1, length := at_.2, n := 0, word := word,
    start := (pc + 2 ^ 57 - 4 * at_.1) % 2 ^ 57 }

/-- The instructions of file groups that accesses belong to, each once. -/
def instKeys (os : List Op) : List (Nat × Nat × Nat) :=
  os.foldl (fun (acc : List (Nat × Nat × Nat)) o =>
    if (o.core, o.fg, o.inst) ∈ acc then acc else acc ++ [(o.core, o.fg, o.inst)]) []

/-- Threads that wait on a fenced partition take the trap of their `cm.wait` word, those of one run together; a thread of
another level takes it when its level is the file group's again (R301, R303, R352). -/
def State.fenceWaits (s : State) (os : List Op) : State :=
  let traps := (instKeys os).map fun k =>
    let mine := os.filter fun o => decide ((o.core, o.fg, o.inst) = k)
    (k, mine.flatMap (·.lanes), (mine.head?).map s.fenceInfo)
  let s := os.foldl (fun (s : State) (o : Op) => s.withdrawWait o) s
  traps.foldl (fun (s : State) x => match x.2.2 with
    | some info => s.laterTrap x.1.1 x.1.2.1 x.2.1 info
    | none => s) s

/-- Partitions fenced (R351, R352). -/
def State.fenceOwners (s : State) (owners : List Nat) : State :=
  let s := s.mapTap fun t => { t with fenced := t.fenced ++ owners.filter fun o => decide (o ∉ t.fenced) }
  s.fenceWaits (s.mem.ops.filter fun o => match o.kind with
    | .cmWait _ _ _ _ => decide (s.ownerOf o.ctx ∈ owners)
    | _ => false)

/-- A record that could not be repaired within 100 µs is void here (R351): it is passed over, and the partition of the
owner in its header is fenced, or every partition where the header names none. The sending context is told when the header
names one of that owner that is resident here. -/
def State.voidRecord (s : State) (lsn : Nat) : State :=
  match s.tap.missing.find? fun m => decide (m.1 = lsn) with
  | none => s
  | some m =>
    if s.clk < m.2 + 100000 then s
    else
      let old := s.tap.pending.find? fun r => decide (r.lsn = lsn)
      let all := s.partOwners
      let owners := match old with
        | some r => if hdrOwner r.hdr ∈ all then [hdrOwner r.hdr] else all
        | none => all
      let ctx := match old with
        | some r =>
          let c := hdrCtx r.hdr
          if (s.pads.any fun p => decide (p.ctx = c)) ∧ s.ownerOf c = hdrOwner r.hdr ∧ hdrOwner r.hdr ∈ all then c else 0xFFFF
        | none => 0xFFFF
      let blank : Stamped := { lsn := lsn, hdr := 0, p0 := 0, p1 := 0, tag := 0, valid := true }
      let s := s.mapTap fun t =>
        { t with pending := insertStamped blank t.pending, missing := t.missing.filter fun m => decide (m.1 ≠ lsn) }
      let s := (s.tellManager 0x0603 lsn).report (plainRec 0x0603 6 ctx (s.ownerOf ctx) 0 lsn 0) true true
      (s.fenceOwners owners).settleTap

/-- A(m) has trailed L(m) for more than 1 ms (R355). -/
def State.stallApply (s : State) : State :=
  match s.tap.lagSince with
  | some t =>
    if t + 1000000 < s.clk ∧ s.tap.lagSaid = false then
      (s.mapTap fun t => { t with lagSaid := true }).tapRecord 0x0605 s.tap.applied true true
    else s
  | none => s

/-! ### Taps that leave and join (R84, R352-R354) -/

/-- The lowest position of a presence map. -/
def lowestTap (present : Nat) : Nat := leastD 64 (setBits present 64)

/-- A BYPASS symbol (R353). -/
def State.bypassTap (s : State) (tap : Nat) : State :=
  let present := if s.tap.present.testBit tap then s.tap.present - 2 ^ tap else s.tap.present
  if tap = s.tap.position then
    let s := s.mapTap fun t =>
      { t with present := present, bypassed := true, isOrigin := false, timer := none, probing := false, lagSince := none,
               lagSaid := false, ptePending := none, catchUp := none, redo := [] }
    ((s.setReady 82 false).setReady 83 false).tapRecord 0x0606 s.tap.lsn false true
  else
    s.mapTap fun t =>
      let first := t.onLoop && decide (lowestTap present = t.position)
      { t with present := present, isOrigin := first, skipHz := if first && !t.isOrigin then true else t.skipHz }

/-- A JOIN symbol: this tap begins its snapshot, or another tap is present again (R353, R354). The lowest present tap is the
origin from the JOIN on (R84); a joining origin passes HZ and HACC on as they come until it has caught up, and leaves HZ
unchanged once after that (DESIGN CHOICE, log entry 27). A tap that joins without a LOOPSTART knows of the others by their
symbols alone (DESIGN CHOICE, log entry 86). -/
def State.joinTap (s : State) (tap : Nat) : State :=
  let present := s.tap.present ||| 2 ^ tap
  if tap = s.tap.position then
    (s.mapTap fun t =>
      { t with present := present, running := true, bypassed := false, snapshot := some (0, none), pending := [],
               missing := [], lagSince := none, lagSaid := false, ptePending := none, catchUp := none, redo := [], isOrigin := decide (lowestTap present = t.position),
               timer := none, probing := false }).setReady 82 true
  else
    s.mapTap fun t =>
      let first := t.isOrigin && decide (lowestTap present = t.position)
      { t with present := present, isOrigin := first, timer := if first then t.timer else none, probing := t.probing && first }

/-- A downstream tap asks for a copy: between two applies, at or above the LSN before the first it holds, the tap sends its
control memory or the partition, with its applied LSN; before that the request waits (R354). -/
def State.sendCopy (s : State) (first : Nat) (owner : Option Nat) : State :=
  let cells := match owner with
    | none => some s.tap.cmem
    | some o => (s.partition o).map fun p => s.tap.cmem.filter fun c => decide (p.1 ≤ c.1 ∧ c.1 < p.1 + p.2)
  match cells with
  | none => s
  | some c =>
    if s.tap.onLoop && s.tap.ptePending.isNone && s.tap.redo.isEmpty && s.tap.snapshot.isNone && decide (first ≤ s.tap.applied + 1) then
      s.mapTap fun t => { t with copies := t.copies ++ [(t.applied, owner, c)] }
    else s

/-- A copy of control memory, or of one partition, at LSN n is installed (R354); the held records above n are applied next.
Own records up to n, sent before a bypass, are delivered to nobody: the instructions that sent them stay outstanding
(DESIGN CHOICE, log entry 68). -/
def State.installCopy (s : State) (n : Nat) (data : List Nat) : State :=
  let bytes := data.map fun x => (BitVec.ofNat 8 x : Byte)
  match s.tap.snapshot with
  | none => s
  | some (j, none) =>
    if j = 0 ∨ n + 1 < j then s
    else
      let s := s.mapTap fun t =>
        { t with
          cmem := tabSetMany 0 [] 0 (bytes.take (2 ^ 22))
          applied := n
          pending := t.pending.filter fun r => decide (n < r.lsn)
          missing := t.missing.filter fun m => decide (n < m.1)
          snapshot := none
          fenced := []
          ptePending := none
          catchUp := some (greatest n ((t.pending.map (·.lsn)) ++ t.missing.map (·.1)))
          isOrigin := decide (lowestTap t.present = t.position)
          skipHz := true }
      (s.mapTap fun t => t.noteLag s.clk).settleTap
  | some (j, some owner) =>
    if n + 1 < j then s
    else match s.partition owner with
      | none => s.mapTap fun t => { t with snapshot := none }
      | some (base, len) =>
        let s := s.mapTap fun t =>
          { t with
            cmem := tabSetMany 0 t.cmem base (bytes.take len)
            snapshot := none
            fenced := t.fenced.filter fun o => decide (o ≠ owner)
            skip := if t.applied < n then t.skip ++ [(owner, n)] else t.skip
            redo := ((t.replay.filter fun r => decide (hdrOwner r.hdr = owner ∧ n < r.lsn ∧ r.lsn ≤ t.applied)).foldl
              (fun (a : List Stamped) (r : Stamped) => insertStamped r a) []) }
        s.scanCmWaits.settleTap

/-- RESYNC of a fenced owner (R352, R354). -/
def State.resyncOwner (s : State) (owner : Nat) : State :=
  if owner ∈ s.tap.fenced ∧ s.tap.snapshot = none then
    (s.mapTap fun t => { t with snapshot := some (t.lsn + 1, some owner) }).answerManager true
  else s.answerManager false

/-- The loop that the tap is on runs: its first token, or a record ahead of it, has come to the tap (R88). -/
def State.loopRuns (s : State) : Bool :=
  s.readyBit 82 || (s.tap.onLoop && (decide (s.tap.lsn ≠ 0) || s.tap.sentToken.isSome))

/-- LOOPSTART (R88): refused on a loop that runs. Records of the old loop that the tap had sent and not applied, or that had
not returned, are dropped, and a KEYROLL of them with them: the instructions that sent them stay outstanding (DESIGN CHOICE,
log entry 68). A SEAL mark whose record not every module had applied waits for a new one. -/
def State.startLoop (s : State) (taps : Nat) : State :=
  if s.loopRuns then s.answerManager false
  else
    let again := fun (k : SealMark) => if k.op = 0 ∧ s.tap.horizon < k.lsn then { k with lsn := neverLsn } else k
    let s := s.mapMem fun m => { m with
      marks := (m.marks.filter fun k => decide (k.op ≠ 0 ∨ s.tap.horizon < k.lsn)).map again }
    (s.mapTap fun t =>
      { t with present := taps, running := true, isOrigin := false, lsn := 0, applied := 0, horizon := 0, sent := [],
               returned := [], replay := [], pending := [], missing := [], timer := none, probing := false,
               sentToken := none, skipHz := false, lagSince := none, lagSaid := false, fenced := [], skip := [],
               fetches := [], cmem := [], ptePending := none, snapshot := none, bypassed := false,
               rolled := [], catchUp := none, redo := [] }).answerManager true

/-- LOOPGO: the lowest tap becomes the origin and sends the first token (R88). -/
def State.goLoop (s : State) : State :=
  if s.tap.onLoop && !s.readyBit 82 && decide (lowestTap s.tap.present = s.tap.position) then
    let k : Token := { nextLsn := 1, hz := 0, hacc := 0, rot := 0, origin := s.tap.position, chk := 0 }
    let s := s.mapTap fun t => { t with isOrigin := true, sentToken := some k.sealed_, timer := some s.clk }
    s.loopReady.answerManager true
  else s.answerManager false

/-- KEYLOAD (R276). -/
def State.loadKey (s : State) (owner key : Nat) : State :=
  (s.mapTap fun t => { t with pendingKeys := tabSet 0 t.pendingKeys owner key }).answerManager true

/-- A management record placed in the broadcast queue (R275). One that finds the queue full is not taken, and the fabric
manager offers it again: R89 has broadcast instructions alone wait outside (DESIGN CHOICE, log entry 82). -/
def State.manage (s : State) (rtype : Nat) (p0 p1 : BitVec 64) : State :=
  if 0x20 ≤ rtype ∧ rtype < 0x30 ∧ s.queueRoom 1 = true then
    s.enqueueRecord (headerWord rtype 0 s.tap.position false 0 0 0) p0 p1 3 0
  else s

end Sys2Proof.Machine
end

