-- ==== Sys2Proof/Machine/Collect.lean ====
section
/-! DEFINITION. Collectives (R79, R217-R220, R339): posting a receive window, combining contributions into its partials, the
window's completion, and the retries of a contribution that found no window. -/

namespace Sys2Proof.Machine

/-! ### Partials (R219) -/

/-- A NaN of A80. -/
def isNan80 (x : Nat) : Bool := decide (a80.maxCode + 1 < x % 2 ^ 79)

/-- The order of A80 numbers as integers: −0 below +0 (R162). -/
def key80 (x : Nat) : Int := if x.testBit 79 then -((x % 2 ^ 79 : Nat) : Int) - 1 else (x % 2 ^ 79 : Nat)

/-- `fmin` and `fmax` on A80 (R162, R219). -/
def pick80 (least : Bool) (x y : Nat) : Nat :=
  if isNan80 x && isNan80 y then a80.nan
  else if isNan80 x then y else if isNan80 y then x
  else if decide (key80 x ≤ key80 y) = least then x else y

/-- A partial combined with a contribution, both A80 (R219); a NaN operand raises NV (R121). -/
def combine80 (rop p x : Nat) : Rounded :=
  match rop with
  | 0 => match (a80.value p).add 0 (a80.value x) with
    | .nan => { bits := a80.nan, flags := flagNV, sat := false }
    | v => a80.round 0 0 v
  | 1 => { bits := pick80 true p x, flags := flagIf (isNan80 p || isNan80 x) flagNV, sat := false }
  | _ => { bits := pick80 false p x, flags := flagIf (isNan80 p || isNan80 x) flagNV, sat := false }

/-- A partial combined with a contribution, both 64-bit integers of a signedness (R219). -/
def combineInt (rop : Nat) (sx : Bool) (p x : Nat) : Nat :=
  let less := if sx then decide (signed 64 x < signed 64 p) else decide (x < p)
  match rop with
  | 0 => (p + x) % 2 ^ 64
  | 1 => if less then x else p
  | 2 => if less then p else x
  | 3 => p &&& x
  | 4 => p ||| x
  | _ => p ^^^ x

/-- The window holds A80 partials. -/
def floatFmt (fmt : Nat) : Bool := decide (fmt ≤ 3)

/-- An element in the partial's format, converted exactly (R119, R219). -/
def toPartial (fmt bits : Nat) : Nat :=
  if floatFmt fmt then elemIn fmt bits
  else if fmt = 4 then twos 64 (signed 32 bits) else bits

/-- A partial narrowed to the window's format (R122, R219). -/
def fromPartial (fmt rm p : Nat) : Rounded :=
  match fmtOf fmt with
  | some f => match a80.value p with
    | .nan => { bits := f.nan, flags := flagNV, sat := false }
    | .inf neg => f.round rm 0 (.inf neg)
    | .num neg n d =>
      if magLt (f.value f.maxCode) (.num neg n d) then
        { bits := f.signBit neg + f.maxCode, flags := flagOF + flagNX, sat := true }
      else f.round rm 0 (.num neg n d)
  | none =>
    if fmt = 4 then intOut 0 4 (FVal.ofInt (signed 64 p))
    else if fmt = 5 then intOut 0 5 (FVal.ofInt (p : Int))
    else { bits := p, flags := 0, sat := false }

/-! ### Windows -/

/-- Bytes of an element of a window. -/
def Window.size (w : Window) : Nat := fmtBytes (shFmt w.shape) 1

/-- The window covers a byte. -/
def Window.covers (w : Window) (key : Nat) : Bool := decide (w.key ≤ key ∧ key < w.key + w.elems * w.size)

/-- Bytes of home buffer that a window's partials take (log entry 19). -/
def Window.storage (w : Window) : Nat := if w.expect = 0 then 0 else w.elems * (if floatFmt (shFmt w.shape) then 10 else 8)

/-- The window of an owner that covers a byte: one that still expects contributions before a completed one (R217). -/
def State.window? (s : State) (owner key : Nat) : Option Window :=
  match s.mem.windows.find? fun w => decide (w.owner = owner ∧ w.expect ≠ 0) && w.covers key with
  | some w => some w
  | none => s.mem.windows.find? fun w => decide (w.owner = owner) && w.covers key

/-- The state with a window changed. -/
def State.mapWindow (s : State) (id : Nat) (f : Window → Window) : State :=
  s.mapMem fun m => { m with windows := m.windows.map fun w => if w.id = id then f w else w }

/-- A record's place as one number: a key of this module, or another module's address. -/
def recPlace (s : State) : Loc → Option Nat
  | .mem k => some (s.tap.position % 64 * 2 ^ 60 + k)
  | .remote m pa => some (m * 2 ^ 60 + pa)
  | _ => none

/-- Bytes of a die's home buffer for partials: it keeps 64 KiB of its 2 MiB for spilled barriers (R16, R342). -/
def partialRoom : Nat := 2 * 2 ^ 20 - 64 * 2 ^ 10

/-- A window registered for a posting, where its die's home buffer has room (R217, R339). -/
def State.register (s : State) (owner ctx key va : Nat) (sh : Shape) (rec : Nat) : Option State :=
  let w : Window := { id := s.nextId, owner := owner, ctx := ctx, key := key, va := va, shape := sh,
                      elems := windowElems sh, expect := shExpect sh, partials := [], counts := [], recs := [rec],
                      flags := 0, elemFlags := [] }
  let die := homeOf (lineOf key)
  let used := (s.mem.windows.filter fun x => decide (homeOf (lineOf x.key) = die)).foldl (fun n x => n + x.storage) 0
  if partialRoom < used + w.storage then none
  else some (State.bump (s.mapMem fun m =>
    { m with windows := (m.windows.filter fun x =>
        decide (x.expect ≠ 0 ∨ x.key + x.elems * x.size ≤ key ∨ key + w.elems * w.size ≤ x.key)) ++ [w] }))

/-- A write of a window's completion meets a stack that is gone: it is not made, and a record says so (R283; DEDUCED, log entry
41). -/
def State.homeFault (s : State) (ctx va key : Nat) : State :=
  s.report (plainRec 0x0911 3 ctx (s.ownerOf ctx) va 0 (homeOf (lineOf key))) true true

/-- A completion record of another module that cannot be updated (R359, R360). -/
def State.recordFailed (s : State) (ctx pa cause : Nat) : State :=
  s.report { plainRec cause 3 ctx (s.ownerOf ctx) pa 0 0 with die := some 0 } true (decide (cause / 2 ^ 8 = 9))

/-- A completion record's update, with a write time no earlier than the window data's (R79, R220). -/
def State.completionRecord (s : State) (ctx floor place sat flags : Nat) : State :=
  let m := place / 2 ^ 60
  let k := place % 2 ^ 60
  if m = s.tap.position % 64 then
    if s.stackGone k then s.homeFault ctx k k else
    let s := s.mapMem fun m => m.recallLine (lineOf k)
    s.ownStoreFrom floor k (leBytes 8 (leValue (s.mem.latestBytes k 8) + 1) ++ leBytes 4 sat ++ leBytes 1 flags)
  else if s.maySend (s.ownerOf ctx) then s.sendPacket m (s.ownerOf ctx) 8 0 k [sat, flags, ctx]
  else (s.refuseSend m (s.ownerOf ctx)).recordFailed ctx k 0x0710

/-- Lines that a completion writes on this module. -/
def Window.lines (w : Window) (position : Nat) : List Nat :=
  upFrom (lineOf w.key) ((w.elems * w.size + 255) / 256 + 1) ++
    (w.recs.filter fun r => decide (r / 2 ^ 60 = position)).map fun r => lineOf (r % 2 ^ 60)

/-- Every element of a window has the contributions it expects. -/
def Window.full (w : Window) : Bool :=
  decide (w.expect ≠ 0) && (upFrom 0 w.elems).all fun i => decide (tabGet 0 w.counts i = w.expect)

/-- A full window completes once no line it writes has a pending version or is a guest die's to write (R79, R219, R260):
the elements, its lines recalled before, then the records. -/
def State.completeWindow (s : State) (w : Window) : State :=
  let lines := w.lines (s.tap.position % 64)
  let s := lines.foldl (fun (s : State) (l : Nat) => s.mapMem fun m => m.commitDue l (s.dieClk (homeOf l))) s
  if !w.full || lines.any fun l => (s.mem.pending l).isSome then s
  else if lines.any s.mem.guestDirty then lines.foldl (fun (s : State) (l : Nat) => s.recallGuests l) s
  else
    let s := lines.foldl (fun (s : State) (l : Nat) => s.mapMem fun m => m.recallLine l) s
    let out := (upFrom 0 w.elems).map fun i => fromPartial (shFmt w.shape) (shRm w.shape) (tabGet 0 w.partials i)
    let sat := (out.filter (·.sat)).length
    let flags := orFlags (out.map (·.flags)) ||| orFlags (w.elemFlags.map (·.2))
    let s := if s.stackGone w.key then s.homeFault w.ctx w.va w.key
      else s.ownStore w.key (out.flatMap fun r => leBytes w.size r.bits)
    let floor := s.mem.latestWt w.key (w.elems * w.size)
    let s := w.recs.foldl (fun (s : State) (r : Nat) => s.completionRecord w.ctx floor r sat flags) s
    (s.mapWindow w.id fun w => { w with expect := 0, partials := [], counts := [], recs := [], elemFlags := [] }).afterUpdate

/-- Every full window completes where it can. -/
def State.closeWindows (s : State) : State := s.mem.windows.foldl (fun s w => s.completeWindow w) s

/-- What a home agent answers to a contribution's element. -/
inductive Answer where
  | taken
  | notReady
  | refused
  deriving DecidableEq, Repr

/-- A window takes an element (R219): its format and operator are the window's, and the element has not had all its
contributions yet; one more is refused (DESIGN CHOICE, log entry 55). -/
def Window.takes (w : Window) (key fmt rop : Nat) : Bool :=
  decide (w.expect ≠ 0 ∧ shFmt w.shape = fmt ∧ shRop w.shape = rop ∧ (key - w.key) % w.size = 0 ∧
    tabGet 0 w.counts ((key - w.key) / w.size) < w.expect)

/-- A window with an element combined, and the record that its contribution names noted (R219). -/
def Window.combine (w : Window) (key fmt rop bits : Nat) (rec : Option Nat) : Window :=
  let i := (key - w.key) / w.size
  let x := toPartial fmt bits
  let r : Rounded :=
    if tabGet 0 w.counts i = 0 then { bits := x, flags := 0, sat := false }
    else if floatFmt fmt then combine80 rop (tabGet 0 w.partials i) x
    else { bits := combineInt rop (decide (fmt = 6 ∨ fmt = 4)) (tabGet 0 w.partials i) x, flags := 0, sat := false }
  { w with
    partials := tabSet 0 w.partials i r.bits
    counts := tabSet 0 w.counts i (tabGet 0 w.counts i + 1)
    elemFlags := tabSet 0 w.elemFlags i (tabGet 0 w.elemFlags i ||| r.flags)
    recs := w.recs ++ rec.toList }

/-- A contribution's element reaches the home agent of its byte, the first of a destination (`win` 0) or one of the window
that the first went to (R218, R219, R339): the answer, and the window. -/
def State.contribute (s : State) (owner key fmt rop bits : Nat) (rec : Option Nat) (win : Nat) : State × Answer × Nat :=
  match s.window? owner key with
  | none => (s, if win = 0 then .notReady else .refused, 0)
  | some w =>
    if (win ≠ 0 ∧ win ≠ w.id) ∨ !w.takes key fmt rop then (s, .refused, 0)
    else (s.mapWindow w.id fun w => w.combine key fmt rop bits rec, .taken, w.id)

/-! ### Ring entries -/

/-- An answer from another module to an entry, taken from the arrived ones. -/
def State.takeAnswer (s : State) (ref : Nat) : Option (State × List Nat) :=
  match s.fabric.inbound.find? fun q => decide (q.kind = 9 ∧ q.ref = ref) with
  | none => none
  | some q =>
    some ({ s with fabric := { s.fabric with inbound := s.fabric.inbound.filter fun x => decide (x.id ≠ q.id) } }, q.data)

/-- The place of a record's RECADDR; none where the record names none (R217, R220). -/
def State.recOf (s : State) (e : Entry) : Except Nat (Option Nat) :=
  if shAddr38 e.shape = 0 then .ok none
  else match (s.engineRes e (shAddr38 e.shape) true).2 with
    | .bad c => .error c
    | .at_ l => match recPlace s l with
      | some p => .ok (some p)
      | none => .error 0x020A

/-- A stalled record written the first time an entry meets a cause (R339). -/
def State.sayStalled (s : State) (e : Entry) (cause : Nat) : State :=
  if e.parkedOn = cause then s
  else (s.mapRing e.id fun e => { e with parkedOn := cause }).entryRecord e cause 1 true e.dst true

/-- A POST is carried to the home agent of its window's first byte (R217, R339). -/
def State.postEntry (s : State) (id : Nat) : State :=
  match s.entry? id with
  | none => s
  | some e =>
    if e.op ≠ 3 ∨ !s.entryReady e then s
    else if !s.windowInPage e.ctx e.shape e.dst then s.failEntry id 8 0x0302 e.dst
    else match s.takeAnswer id with
      | some (s, data) =>
        if data.headD 0 = 0 then s.mapRing id fun e => { e with finished := true } else s.sayStalled e 0x0321
      | none =>
        if !s.entryQuiet e then s
        else match s.recOf e with
          | .error c => s.badAddress id c (shAddr38 e.shape)
          | .ok rec =>
            match s.engineRes e e.dst true with
            | (s, .bad c) => s.badAddress id c e.dst
            | (s, .at_ (.mem k)) =>
              (match s.register (s.ownerOf e.ctx) e.ctx k e.dst e.shape (rec.getD 0) with
               | none => s.sayStalled e 0x0321
               | some s => s.mapRing id fun e => { e with finished := true })
            | (s, .at_ (.remote m pa)) =>
              if s.maySend (s.ownerOf e.ctx) then
                s.sendPacket m (s.ownerOf e.ctx) 7 id pa [e.shape.toNat, e.ctx, e.dst, rec.getD 0]
              else (s.refuseSend m (s.ownerOf e.ctx)).failEntry id 9 0x0710 e.dst
            | (s, .at_ _) => s.failEntry id 9 0x020A e.dst

/-- Element n of a contribution, replica by replica and row by row: source and destination (R203, R218). -/
def redElem (e : Entry) (n : Nat) : Nat × Nat :=
  let per := shRows e.shape * shExt0 e.shape
  let size := fmtBytes (shFmt e.shape) 1
  let j := atD 0 (replicas e.shape) (n / per)
  let row := n % per / shExt0 e.shape
  let off := n % shExt0 e.shape * size
  ((shSrcRow e.shape row + off) % 2 ^ 64,
   (moveAddr (shDstRow e.shape e.dst row) (j * shRstride e.shape) + off) % 2 ^ 64)

/-- Elements of a contribution over all its replicas. -/
def redCount (sh : Shape) : Nat := (replicas sh).length * shRows sh * shExt0 sh

/-- An element was answered NOTREADY: the entry waits, longer each time (R339). -/
def Entry.notReady (e : Entry) (now : Nat) : Entry :=
  let gap := if e.retryGap = 0 then 256 else min 65536 (2 * e.retryGap)
  { e with retryGap := gap, retryAt := now + gap, firstTry := if e.firstTry = 0 then now else e.firstTry }

/-- The next element begins a destination of the contribution (R218). -/
def Entry.atFirst (e : Entry) : Bool := decide (e.rows % (shRows e.shape * shExt0 e.shape) = 0)

/-- What an answer makes of an entry's next element (R218, R335, R339). -/
def State.redAnswer (s : State) (e : Entry) (a : Answer) (win : Nat) : State :=
  match a with
  | .taken => s.mapRing e.id fun e =>
    { e with rows := e.rows + 1, win := win, retryGap := 0, retryAt := 0, firstTry := 0, parkedOn := 0, held := none,
             finished := decide (redCount e.shape ≤ e.rows + 1) }
  | .notReady => s.mapRing e.id fun x => x.notReady (s.coreClk x.core)
  | .refused => s.failEntry e.id 13 0x0302 (redElem e e.rows).2

/-- The answer that a packet's data names. -/
def answerOf (data : List Nat) : Answer :=
  match data.headD 0 with
  | 0 => .taken
  | 1 => .notReady
  | _ => .refused

/-- The value of the next element of a contribution: as the retry buffer has it, or read from the source (R218, R339). -/
def State.redRead (s : State) (e : Entry) : State × Got :=
  let size := fmtBytes (shFmt e.shape) 1
  match e.held with
  | some v => (s, .bytes (leBytes size v))
  | none => s.engineRead e (redElem e e.rows).1 size e.floor

/-- The element stays in the retry buffer until a window takes it (R339). -/
def State.holdElem (s : State) (e : Entry) (v : Nat) : State := s.mapRing e.id fun e => { e with held := some v }

/-- The next element of a contribution is sent (R218, R219): its record goes with the first of each destination. -/
def State.redNext (s : State) (e : Entry) : State :=
  match s.recOf e with
  | .error c => s.badAddress e.id c (shAddr38 e.shape)
  | .ok named =>
    let x := redElem e e.rows
    let place := if e.atFirst then named else none
    let win := if e.atFirst then 0 else e.win
    match s.redRead e with
    | (s, .waits) => s
    | (s, .bad c) => s.badRead e.id c x.1
    | (s, .bytes bs) =>
      match s.engineRes e x.2 true with
      | (s, .bad c) => s.badAddress e.id c x.2
      | (s, .at_ (.mem k)) =>
        if s.stackGone k then s.failEntry e.id (remoteStatus 0x0911) 0x0911 x.2 else
        let s := s.holdElem e (leValue bs)
        let y := s.contribute (s.ownerOf e.ctx) k (shFmt e.shape) (shRop e.shape) (leValue bs) place win
        (y.1.redAnswer e y.2.1 y.2.2).closeWindows
      | (s, .at_ (.remote m pa)) =>
        if s.maySend (s.ownerOf e.ctx) then
          (s.holdElem e (leValue bs)).sendPacket m (s.ownerOf e.ctx) 4 e.id pa
            [shFmt e.shape, shRop e.shape, leValue bs, if place.isSome then 1 else 0, place.getD 0, win]
        else (s.refuseSend m (s.ownerOf e.ctx)).failEntry e.id 9 0x0710 x.2
      | (s, .at_ _) => s.failEntry e.id 13 0x0302 x.2

/-- A contribution goes on by at most so many elements, in order (R218, R219). -/
def State.combineEntry : Nat → State → Nat → State
  | 0, s, _ => s
  | fuel + 1, s, id =>
    match s.entry? id with
    | none => s
    | some e =>
      if e.op ≠ 2 ∨ e.retryAt ≠ 0 ∨ !s.entryReady e then s
      else match s.takeAnswer id with
        | some (s, data) => State.combineEntry fuel (s.redAnswer e (answerOf data) (atD 0 data 1)) id
        | none => if s.entryQuiet e then State.combineEntry fuel (s.redNext e) id else s

/-- A contribution that was answered NOTREADY tries again when its interval is over, and is reported after 1,000,000
ticks (R339). -/
def State.retryEntry (s : State) (id : Nat) : State :=
  match s.entry? id with
  | none => s
  | some e =>
    let now := s.coreClk e.core
    if e.retryAt = 0 ∨ now < e.retryAt then s
    else
      let s := if e.firstTry + 1000000 ≤ now then s.sayStalled e 0x0320 else s
      (s.mapRing id fun e => { e with retryAt := 0 }).combineEntry 2 id

end Sys2Proof.Machine
end

