-- ==== Sys2Proof/Machine/MergeOps.lean ====
section
/-! DEFINITION. Finishing a task and merging its view (R234, R239-R241, R343, R344). -/

namespace Sys2Proof.Machine

/-- An integer operator of a view (R234). -/
def viewInt (width : Nat) (sx : Bool) (op a b : Nat) : Nat :=
  let less := if sx then decide (signed width b < signed width a) else decide (b < a)
  match op with
  | 0 => (a + b) % 2 ^ width
  | 1 => if less then b else a
  | 2 => if less then a else b
  | 3 => a &&& b
  | 4 => a ||| b
  | _ => a ^^^ b

/-- A float operator of a view on FP32 numbers (R162, R234). -/
def viewF32 (op a b : Nat) : Nat :=
  match op with
  | 0 => f32Sum a b
  | 1 => (fmin32 (BitVec.ofNat 32 a) (BitVec.ofNat 32 b)).toNat
  | _ => (fmax32 (BitVec.ofNat 32 a) (BitVec.ofNat 32 b)).toNat

/-- A float operator of a view on BF16 numbers, the upper halves of FP32 numbers (R162, R234). -/
def viewBf16 (op a b : Nat) : Nat :=
  match op with
  | 0 => (bf16.round 0 0 (FVal.add 0 (bf16.value a) (bf16.value b))).bits
  | _ => viewF32 op (a * 2 ^ 16) (b * 2 ^ 16) / 2 ^ 16

/-- The combining function of a tile on two elements (R234). -/
def viewCombine (t : Tile) (a b : Nat) : Nat :=
  match t.fmt with
  | 0 => viewInt 32 true t.op a b
  | 1 => viewInt 32 false t.op a b
  | 2 => viewInt 64 true t.op a b
  | 3 => viewF32 t.op a b
  | _ => viewBf16 t.op a b

/-- Two sectors combined element by element (R239, R240). -/
def combineSector (t : Tile) (a b : List Byte) : List Byte :=
  let n := viewElem t.fmt
  (upFrom 0 (64 / n)).flatMap fun i =>
    leBytes n (viewCombine t (leValue ((a.drop (n * i)).take n)) (leValue ((b.drop (n * i)).take n)))

/-! ### Finishing (R239) -/

/-- The state with a view-table record's entry changed. -/
def State.mapVRec (s : State) (ctx va : Nat) (f : VRec → VRec) : State :=
  s.mapMem fun m => { m with records := m.records.map fun r => if r.ctx = ctx ∧ r.va = va then f r else r }

/-- A child record of a parent, by slot. -/
def State.kidRec (s : State) (ctx parent slot : Nat) : Nat := s.devNum ctx (parent + 0x18 + 8 * slot) 8

/-- Step 2 of R239: the merge target of a task. -/
def State.mergeTarget (s : State) (ctx rec : Nat) : Option Nat :=
  let parent := s.devNum ctx (rec + 0x10) 8
  let slot := s.recByte ctx rec 9
  if parent = 0 then none
  else
    let live := setBits (s.recByte ctx parent 0x0A % 16) 4
    let below := live.filter fun x => decide (x < slot)
    let above := live.filter fun x => decide (slot < x)
    match below.getLast?, above.head? with
    | some x, _ => some (s.kidRec ctx parent x)
    | none, some x => some (s.kidRec ctx parent x)
    | none, none => some parent

/-- A task that finishes chooses its merge target (R239 steps 1 and 2). -/
def State.chooseTarget (s : State) (ctx rec : Nat) : State :=
  let target := s.mergeTarget ctx rec
  let parent := s.devNum ctx (rec + 0x10) 8
  let slot := s.recByte ctx rec 9
  let s := s.setRecState ctx rec 3
  let s := if parent = 0 then s
    else
      let live := s.recByte ctx parent 0x0A
      s.devWrite ctx (parent + 0x0A) [BitVec.ofNat 8 (if live.testBit slot then live - 2 ^ slot else live)]
  s.mapVRec ctx rec fun r => { r with target := some target }

/-- A dirty sector of a page map: its bytes, and whether it is poisoned; none where it is not dirty or cannot be read. -/
def State.dirtySector (s : State) (ctx map page sector : Nat) : Option (List Byte × Bool) :=
  if map = 0 then none
  else
    let e := s.mapEntry ctx map page
    if e.2.testBit sector then
      (s.devRead ctx (e.1 + 64 * sector) 64).map fun bs =>
        (bs, match s.devKey ctx (e.1 + 64 * sector) false with
          | some k => s.poisonedAt k
          | none => false)
    else none

/-- What a task's view and its held contributions come to in one sector (R239 step 4). -/
def State.outSector (s : State) (ctx vmap hmap page sector : Nat) (t : Tile) : Option (List Byte × Bool) :=
  match s.dirtySector ctx vmap page sector, s.dirtySector ctx hmap page sector with
  | some v, some h => some (combineSector t v.1 h.1, v.2 || h.2)
  | some v, none => some v
  | none, h => h

/-- The pages of a map that have storage. -/
def State.mapPages (s : State) (ctx map pages : Nat) : List Nat :=
  if map = 0 then [] else (upFrom 0 pages).filter fun n => decide ((s.mapEntry ctx map n).1 ≠ 0)

/-- The storage of a task's maps can be read (R344). -/
def State.mapsReadable (s : State) (ctx map : Nat) (pages : List Nat) : Bool :=
  pages.all fun n => (s.devRead ctx (s.mapEntry ctx map n).1 4096).isSome

/-- The merge messages of one tile (R239 steps 4 and 5). -/
def State.sendTile (s : State) (r : VRec) (target : Option Nat) (n : Nat) (t : Tile) : State :=
  let vmap := s.viewMap r.ctx r.va n 0
  let hmap := s.viewMap r.ctx r.va n 8
  (upFrom 0 t.pages).foldl (fun (s : State) (page : Nat) =>
    (upFrom 0 64).foldl (fun (s : State) (sector : Nat) =>
      match s.outSector r.ctx vmap hmap page sector t with
      | none => s
      | some (bs, bad) =>
        let m : Merge := { id := s.nextId, ctx := r.ctx, launch := r.launch, source := r.va, target := target, tile := n,
                           page := page, sector := sector, decl := t, bytes := bs, poison := bad, stalled := none,
                           stallVa := 0, parkedOn := 0, die := r.die }
        s.bump.mapMem fun x => { x with merges := x.merges ++ [m] }) s) s

/-- Pool space of a map and its storage pages given back (R239 step 6). -/
def State.freeMap (s : State) (ctx map pages : Nat) : State :=
  if map = 0 then s
  else ((s.mapPages ctx map pages).foldl (fun (s : State) (n : Nat) => s.poolGive ctx (s.mapEntry ctx map n).1) s).poolGive
    ctx map

/-- Steps 4 to 6 of R239. -/
def State.sendView (s : State) (r : VRec) (target : Option Nat) : State :=
  let numbered := (mapFrom (fun n t => (n, t)) 0 r.tiles).filter fun x => decide (x.2.pages ≠ 0)
  let readable := numbered.all fun x => [0, 8].all fun which =>
    let map := s.viewMap r.ctx r.va x.1 which
    s.mapsReadable r.ctx map (s.mapPages r.ctx map x.2.pages)
  if !readable then s
  else
    let s := numbered.foldl (fun (s : State) (x : Nat × Tile) => s.sendTile r target x.1 x.2) s
    let s := s.setRecState r.ctx r.va 4
    let s := numbered.foldl (fun (s : State) (x : Nat × Tile) =>
      (s.freeMap r.ctx (s.viewMap r.ctx r.va x.1 0) x.2.pages).freeMap r.ctx (s.viewMap r.ctx r.va x.1 8) x.2.pages) s
    (s.poolGive r.ctx r.va).mapMem fun m =>
      { m with records := m.records.filter fun x => decide (x.ctx ≠ r.ctx ∨ x.va ≠ r.va) }

/-- A contribution is still on its way to a record, or a task that chose it as its target has yet to send (R239). -/
def State.mergesTo (s : State) (ctx rec : Nat) : Bool :=
  (s.mem.merges.any fun m => decide (m.ctx = ctx ∧ m.target = some rec)) ||
    s.mem.records.any fun r => decide (r.ctx = ctx ∧ r.target = some (some rec))

/-- The record of a task, when it is alive. -/
def State.vrec? (s : State) (ctx rec : Nat) : Option VRec :=
  s.mem.records.find? fun r => decide (r.ctx = ctx ∧ r.va = rec)

/-- A task finishes (R239): it is finishing, or a tadpole whose last live child has merged into it. -/
def State.finishRec (s : State) (ctx rec : Nat) : State :=
  match s.vrec? ctx rec with
  | none => s
  | some r =>
    let st := s.recByte ctx rec 8
    let s := if r.target.isNone && (decide (st = 3) || (decide (st = 2 ∧ s.recByte ctx rec 0x0A % 16 = 0) && !s.mergesTo ctx rec)) then
        s.chooseTarget ctx rec
      else s
    match s.vrec? ctx rec with
    | none => s
    | some r => match r.target with
      | none => s
      | some target => if s.mergesTo ctx rec then s else s.sendView r target

/-! ### Combining (R240, R344) -/

/-- The address of a sector of a tile. -/
def Merge.va (m : Merge) : Nat := m.decl.base + 4096 * m.page + 64 * m.sector

/-- The state with a merge message changed. -/
def State.mapMerge (s : State) (id : Nat) (f : Merge → Merge) : State :=
  s.mapMem fun m => { m with merges := m.merges.map fun x => if x.id = id then f x else x }

/-- A merge message is combined and gone. -/
def State.dropMerge (s : State) (id : Nat) : State :=
  s.mapMem fun m => { m with merges := m.merges.filter fun x => decide (x.id ≠ id) }

/-- The die whose home agent reports a merge: that of the sector's home, or where the sector has none here the merging task's
own (R374), and that of the task's record where the module does not know it (DEDUCED, log entry 56). -/
def State.mergeDie (s : State) (m : Merge) : Nat :=
  let sector := match m.target with
    | none => s.devKey m.ctx m.va false
    | some target =>
      let a := (s.mapEntry m.ctx (s.viewMap m.ctx target m.tile 8) m.page).1
      if a = 0 then none else s.devKey m.ctx (a + 64 * m.sector) false
  match sector, m.die, s.devKey m.ctx m.source false with
  | some k, _, _ => homeOf (lineOf k)
  | none, some d, _ => d
  | none, none, some k => homeOf (lineOf k)
  | none, none, none => 0

/-- A record of a merge: INFO names the merging task's record, DETAIL the home agent's die (R299, R344). -/
def State.mergeRecord (s : State) (m : Merge) (cause : Nat) (stall : Bool) : State :=
  let owner := s.ownerOf m.ctx
  let die := s.mergeDie m
  s.report (if stall then stalledRec cause 3 m.ctx owner m.va m.source die
    else plainRec cause 3 m.ctx owner m.va m.source die) true true

/-- A merge stalls: a record the first time it meets a cause (R330, R344). -/
def State.stallMerge (s : State) (m : Merge) (cause : Nat) : State :=
  let s' := s.mapMerge m.id fun x => { x with stalled := some cause, stallVa := m.va, parkedOn := cause }
  if m.parkedOn = cause then s' else s'.mergeRecord m cause true

/-- A merged sector written at its key; a poisoned input poisons it. It stalls where the sector's stack is gone (R344,
R368), and waits as a store does for a lease about to lapse and for what a guest die wrote to the line (R63, R260). -/
def State.putSector (s : State) (m : Merge) (key : Nat) (bs : List Byte) (bad : Bool) : State :=
  if s.stackGone key then s.stallMerge m 0x0911
  else if !s.ownReady 0 key bs.length then s.ownWait key bs.length
  else
  let s := s.raiseLaunch m.launch (s.mem.ownStoreWt (s.dieClk (homeOf (lineOf key))) 0 key bs.length)
  let s := s.ownStore key bs
  let s := if bad then
      (s.mapMem fun x => { x with poison := if sectorOf key ∈ x.poison then x.poison else sectorOf key :: x.poison }).mergeRecord
        m 0x0912 false
    else s
  (s.dropMerge m.id).afterUpdate

/-- The HMAP of a task's tile, allocated where it has none (R235). -/
def State.heldMap (s : State) (m : Merge) (target : Nat) : Option (State × Nat) :=
  let map := s.viewMap m.ctx target m.tile 8
  if map ≠ 0 then some (s, map)
  else (s.poolTake m.ctx (16 * m.decl.pages) 16 true).map fun x =>
    (x.1.devWrite m.ctx (target + 0x40 + 32 * m.tile + 8) (leBytes 8 x.2), x.2)

/-- A sector of the same merge is still to combine before this one: a merge combines its sectors in the order of their tiles
and pages, and stalls as a whole (R344, R374; log entry 77). -/
def State.sectorBehind (s : State) (m : Merge) : Bool :=
  s.mem.merges.any fun x => decide (x.ctx = m.ctx ∧ x.source = m.source ∧ x.target = m.target ∧ x.id < m.id)

/-- A contribution reaches a task's HMAP (R240, R343). -/
def State.arriveMerge (s : State) (id : Nat) : State :=
  match s.mem.merges.find? fun m => decide (m.id = id) with
  | none => s
  | some m => match m.target with
    | none => s
    | some target =>
      if m.stalled.isSome || s.sectorBehind m then s
      else match s.heldMap m target with
        | none => s.stallMerge m 0x0402
        | some (s1, map) =>
          let dirty := (s1.mapEntry m.ctx map m.page).2.testBit m.sector
          match s1.viewSector m.ctx target m.tile 8 map m.page m.sector m.decl with
          | none => s1.stallMerge m 0x0402
          | some (s2, a) =>
            let va := a + 64 * m.sector
            match s2.devKey m.ctx va true, s2.devRead m.ctx va 64 with
            | some k, some old =>
              let bad := dirty && s2.poisonedAt k
              s2.putSector m k (if dirty then combineSector m.decl old m.bytes else m.bytes) (bad || m.poison)
            | _, _ => s.stallMerge m 0x0200

/-- The packet of a root merge is on its way to another module. -/
def State.mergeSent (s : State) (id : Nat) : Bool :=
  s.fabric.packets.any fun k => decide (k.kind = 10 ∧ k.ref = id)

/-- A root merge reaches home memory (R240, R344). -/
def State.arriveRoot (s : State) (id : Nat) : State :=
  match s.mem.merges.find? fun m => decide (m.id = id) with
  | none => s
  | some m =>
    if m.target.isSome || m.stalled.isSome || s.mergeSent id || s.sectorBehind m then s
    else match s.walk m.ctx m.va with
      | none => s.stallMerge m 0x0200
      | some p => match p.check true with
        | .absent => s.stallMerge m 0x0200
        | .denied => s.stallMerge m 0x0201
        | .sealed_ => s.stallMerge m 0x0202
        | .unanswered => s
        | .page p => match s.pageLoc p m.va with
          | .mem k => match s.hostFault (s.ownerOf m.ctx) k with
            | some c => s.stallMerge m c
            | none => s.putSector m k (combineSector m.decl (s.mem.latestBytes k 64) m.bytes) (m.poison || s.poisonedAt k)
          | .remote mo pa =>
            if s.maySend (s.ownerOf m.ctx) then
              s.sendPacket mo (s.ownerOf m.ctx) 10 m.id pa
                ([m.decl.fmt, m.decl.op, if m.poison then 1 else 0] ++ m.bytes.map (·.toNat))
            else (s.refuseSend mo (s.ownerOf m.ctx)).stallMerge m 0x0710
          | _ => s

end Sys2Proof.Machine
end

