-- ==== Sys2Proof/Machine/MemRows.lean ====
section
/-! DEFINITION. Rows that perform the accesses in flight, and the rows of merges (R58, R61-R64, R186, R205, R214,
R239, R240). A row that the state does not enable leaves it as it is. -/

namespace Sys2Proof.Machine

/-- A store reaches its home (R58, R63). -/
def State.storeArrival (s : State) (id : Nat) : State :=
  match s.op? id with
  | none => s
  | some o => match o.kind with
    | .store bytes rel => if s.mayPerform o && o.hold.isNone then s.performStore o bytes rel else s
    | _ => s

/-- The leases that held a store or an atomic have run out (R63). -/
def State.leaseLapse (s : State) (id : Nat) : State :=
  match s.op? id with
  | none => s
  | some o => match o.hold, o.loc with
    | some e, .mem key =>
      if e < s.dieClk (homeOf (lineOf key)) then
        match o.kind with
        | .store bytes rel => s.performStore { o with hold := none } bytes rel
        | .atomic aop wide xs ys dst => s.performAtomic { o with hold := none } aop wide xs ys dst
        | _ => s
      else s
    | _, _ => s

/-- A line's pending version becomes current (R58, R63). -/
def State.versionCurrent (s : State) (line : Nat) : State :=
  ((s.mapMem fun m => m.commitDue line (s.dieClk (homeOf line))).afterUpdate).closeWindows

/-- The 64 bytes that `shld` has read are checked and written into the handle (R205, R326). -/
def State.finishShape (s : State) (o : Op) (handle v : Nat) : State :=
  let sh : Shape := BitVec.ofNat 512 v
  let s' := (s.finishLanes o.core o.fg o.lanes o.inst []).dropOp o.id
  if shOk sh then s'.mapPad o.core fun p => p.setShape handle sh (s.coreClk o.core)
  else s'.impreciseTrap o.core o.fg o.lanes 0x0300 o.va

/-- `shld` reads its record as a load does (R205). -/
def State.performShape (s : State) (o : Op) (l2 l1 handle : Nat) : State :=
  match o.loc with
  | .spad core off =>
    match s.pad? core with
    | none => s
    | some p => match p.laneRead off 64 with
      | none => s.failOp o 0x0900
      | some (v, _) => s.finishShape o handle v
  | .blank e n => s.finishShape o handle (blankValue e n o.va 64)
  | .remote m pa =>
    if o.packet.isSome then s
    else if s.maySend (s.ownerOf o.ctx) then
      (s.sendPacket m (s.ownerOf o.ctx) 0 o.id pa [64]).mapOp o.id fun x => { x with packet := some s.nextId }
    else (s.refuseSend m (s.ownerOf o.ctx)).failOp o 0x0710
  | .mem key =>
    match s.hostFault (s.ownerOf o.ctx) key with
    | some c => s.failOp o c
    | none =>
      if s.poisonedAt key then s.failOp o 0x0911
      else match s.readLine o key l2 l1 (s.opThread o).floor with
        | none => s
        | some (s, rt) => s.finishShape o handle (leValue (s.loadBytes o rt key 64))

/-- `ctr.ld` reads its counter as an acquire at `pod` scope does (R214). -/
def State.performCounterLoad (s : State) (o : Op) (l2 l1 index dst : Nat) : State :=
  match s.counterKey o.ctx index with
  | none => s
  | some k => s.performLoad { o with loc := .mem k } l2 l1 4 dst false (some 6)

/-- An access that reads is performed (R61, R62, R64, R186, R205, R214). -/
def State.fetchLine (s : State) (id l2 l1 : Nat) : State :=
  match s.op? id with
  | none => s
  | some o =>
    if !s.mayPerform o then s
    else match o.kind with
      | .load size dst sx acq => s.performLoad o l2 l1 size dst sx acq
      | .loadRo size dst => s.performLoadRo o l2 l1 size dst
      | .prefetch => s.performPrefetch o l2 l1
      | .watch c dst scope reg =>
        match reg, o.loc with
        | some _, .mem _ => if o.met.isSome then s.completeWatch o else s
        | _, _ => s.performWatch o c dst scope
      | .shapeLoad h => s.performShape o l2 l1 h
      | .counter i none dst => s.performCounterLoad o l2 l1 i dst
      | _ => s

/-- `ctr.add` is applied at its counter's home (R214). -/
def State.performCounterAdd (s : State) (o : Op) (index add : Nat) : State :=
  if (s.counterKey o.ctx index).isNone then s
  else if s.counterGone o.ctx index then s.failOp o 0x0911
  else if !s.counterReady o.ctx index then s.recallCounter o.ctx index
  else (((s.counterAdd o.ctx index add).afterUpdate).finishLanes o.core o.fg o.lanes o.inst []).dropOp o.id

/-- An aggregated request reaches its home (R183, R214). -/
def State.atomicArrival (s : State) (id : Nat) : State :=
  match s.op? id with
  | none => s
  | some o =>
    if !(s.mayPerform o && o.hold.isNone) then s
    else match o.kind with
      | .atomic aop wide xs ys dst => s.performAtomic o aop wide xs ys dst
      | .counter i (some add) _ => s.performCounterAdd o i add
      | _ => s

/-- A registered watch has run for 1,000,000 ticks of its home's clk (R186). -/
def State.watchTimeout (s : State) (id : Nat) : State :=
  match s.op? id with
  | none => s
  | some o => match o.kind, o.loc with
    | .watch _ _ _ (some t), .mem k =>
      if t + 1000000 ≤ s.dieClk (homeOf (lineOf k)) then s.completeWatch o else s
    | .watch _ _ _ (some t), .blank _ _ => if t + 1000000 ≤ s.clk then s.completeWatch o else s
    | _, _ => s

/-- R58, R63, R260. -/
def execStoreArrival (op : Nat) (s : State) : Result := .next (s.storeArrival op)

/-- R63. -/
def execLeaseLapse (op : Nat) (s : State) : Result := .next (s.leaseLapse op)

/-- R61, R62, R64: `l2` and `l1` are the leases asked for. -/
def execLineFetch (op : Nat) (l2 : Nat) (l1 : Nat) (s : State) : Result := .next (s.fetchLine op l2 l1)

/-- R64, R183, R341. -/
def execAtomicRequest (op : Nat) (s : State) : Result := .next (s.atomicArrival op)

/-- R186. -/
def execWatchTimeout (op : Nat) (s : State) : Result := .next (s.watchTimeout op)

/-- R239. -/
def execTaskFinish (ctx : Nat) (rec : Nat) (s : State) : Result := .next (s.finishRec ctx rec)

/-- R240, R344. -/
def execContributionArrive (msg : Nat) (s : State) : Result := .next (s.arriveMerge msg)

/-- R240, R344. -/
def execRootMerge (msg : Nat) (s : State) : Result := .next (s.arriveRoot msg)

end Sys2Proof.Machine
end

