-- ==== Sys2Proof/Machine/RingRows.lean ====
section
/-! DEFINITION. The machine's own steps at the copy engines, trigger tables and collectives: the rows ENTRY_TAKE to
CONTRIBUTION_RETRY and MERGE_WINDOW_HOLD_END (R67, R210, R214, R215, R217, R219, R335, R337, R339). -/

namespace Sys2Proof.Machine

/-- R210, R212: what may be published is, and the engine takes the next entry. -/
def execEntryTake (core : Nat) (promise : Nat) (s : State) : Result :=
  .next ((s.publishDue core).takeEntry core promise)

/-- R210. -/
def execEntryRetire (core : Nat) (s : State) : Result := .next (s.retireEntry core).afterUpdate

/-- R210, R213, R335: the entry goes on by up to so many bytes, and stalls at a page that is not present. -/
def execEntryStall (entry : Nat) (rows : Nat) (s : State) : Result := .next (s.advanceEntry entry rows).afterUpdate

/-- R214. -/
def execCntIncrement (entry : Nat) (s : State) : Result := .next (s.countEntry entry).afterUpdate

/-- R215, R336. -/
def execTriggerSlotFree (die : Nat) (slot : Nat) (s : State) : Result := .next (s.runFired die slot).afterUpdate

/-- R337. -/
def execPromiseRevision (entry : Nat) (promise : Nat) (s : State) : Result := .next (s.revisePromise entry promise)

/-- R217, R339. -/
def execWindowPost (entry : Nat) (s : State) : Result := .next (s.postEntry entry)

/-- R218, R219. -/
def execContributionCombine (entry : Nat) (elements : Nat) (s : State) : Result :=
  .next (s.combineEntry elements entry).closeWindows

/-- R339. -/
def execContributionRetry (entry : Nat) (s : State) : Result := .next (s.retryEntry entry).closeWindows

/-- R67. -/
def execMergeWindowHoldEnd (hold : Nat) (s : State) : Result := .next (s.endHold hold)

end Sys2Proof.Machine
end

