-- ==== Sys2Proof/Machine/FabricOps.lean ====
section
/-! DEFINITION. The fabric: the fabric manager's commands, packets that arrive, answers, requests and the windows that admit
them, ports and routes (R276-R279, R357-R360). -/

namespace Sys2Proof.Machine

/-- The state with the fabric changed. -/
def State.mapFabric (s : State) (f : Fabric → Fabric) : State := { s with fabric := f s.fabric }

/-! ### Routes and ports (R276, R283, R357, R358) -/

/-- Packets of other modules go on whose route has a port up, by the table in force here (R277). -/
def State.passOn (s : State) : State :=
  let go := fun (t : Transit) => s.routeUp t.dest
  s.mapFabric fun f => { f with transit := f.transit.filter fun t => !go t, passed := f.passed ++ f.transit.filter go }

/-- Since when each packet waits for a port of its route (R358). -/
def State.settleRoutes (s : State) : State :=
  let settle := fun (k : Packet) =>
    if s.routeUp k.dest then { k with stalledSince := none, saidStall := false }
    else match k.stalledSince with
      | some _ => k
      | none => { k with stalledSince := some s.clk }
  (s.mapFabric fun f => { f with packets := f.packets.map settle }).passOn

/-- A port leaves service or comes back: its ready bit (R283, R284). -/
def State.setPort (s : State) (port : Nat) (up : Bool) : State := (s.setReady (48 + port % 32) up).settleRoutes

/-- SETOWNERS (R276). The pod module number, which the fabric manager assigns (R84), comes with it (DESIGN CHOICE, log entry
66). -/
def State.setOwners (s : State) (m : Membership) (port : Nat) (portOwners : List Nat) : State :=
  (((s.mapFabric fun f => { f with owners := m.owners, portOwners := modifyAt f.portOwners port fun _ => portOwners }).mapTap
    fun t => { t with position := m.position % 64 }).answerManager true).afterUpdate

/-- SETROUTE (R276): refused with more than 8 hops (R277), and with more than 4 ports, or with a port or weight out of range
(DESIGN CHOICE, log entry 81). -/
def State.setRoute (s : State) (dest : Nat) (ports weights : List Nat) (hops : Nat) : State :=
  if 8 < hops ∨ 4 < ports.length ∨ weights.length ≠ ports.length ∨
      !(weights.all fun w => decide (1 ≤ w ∧ w ≤ 15)) ∨ !(ports.all fun p => decide (p < 32)) then s.answerManager false
  else ((s.mapFabric fun f => { f with routes := tabSet ([], 0) f.routes dest (ports.zip weights, hops) }).settleRoutes).answerManager true

/-- SETPPT (R269, R276). -/
def State.setPool (s : State) (owner base size : Nat) : State :=
  (s.mapFabric fun f => { f with ppt := (owner, base, size) :: f.ppt.filter fun x => decide (x.1 ≠ owner) }).answerManager true

/-- A packet that nothing has acknowledged for 50 µs goes out again by the table in force (R357). -/
def State.resend (s : State) (id : Nat) : State :=
  let again := fun (k : Packet) =>
    if k.id = id ∧ !k.acked ∧ k.sentAt + 50000 ≤ s.clk ∧ s.routeUp k.dest then { k with sentAt := s.clk } else k
  s.mapFabric fun f => { f with packets := f.packets.map again }

/-- Packets of a destination without a port have waited 1,000,000 ticks: one record (R358). -/
def State.sayRouteStall (s : State) (dest : Nat) : State :=
  let late := fun (k : Packet) => decide (k.dest = dest) && !k.saidStall && (match k.stalledSince with
    | some t => decide (t + 1000000 ≤ s.clk)
    | none => false)
  if s.fabric.packets.any late then
    let say := fun (k : Packet) => if k.dest = dest then { k with saidStall := true } else k
    let s := s.mapFabric fun f => { f with packets := f.packets.map say }
    (s.tellManager 0x0702 dest).report (stalledRec 0x0702 7 0xFFFF 0 0 dest ((s.routePorts dest).headD 0)) false true
  else s

/-! ### Answers (R347, R360) -/

/-- A packet leaves the retry buffer. -/
def State.dropPacket (s : State) (id : Nat) : State :=
  s.mapFabric fun f => { f with packets := f.packets.filter fun k => decide (k.id ≠ id) }

/-- The core whose matrix queue holds a command. -/
def State.cmdCore (s : State) (id : Nat) : Option (Nat × MatCmd) :=
  s.pads.findSome? fun p => (p.mq.find? fun c => decide (c.id = id)).map fun c => (p.core, c)

/-- Bytes or words for an engine that waits for them: kind 3 data read, kind 9 an answer to a post or contribution. -/
def State.giveEngine (s : State) (k : Packet) (kind : Nat) (data : List Nat) : State :=
  let q : Inbound := { id := s.nextId, src := k.dest, owner := k.owner, kind := kind, ref := k.ref, addr := k.addr,
                       data := data, checked := none }
  (s.mapFabric fun f => { f with inbound := f.inbound ++ [q] }).bump

/-- Some unit of this module still waits for an answer under a name. -/
def State.awaits (s : State) (ref : Nat) : Bool := (s.entry? ref).isSome || (s.cmdCore ref).isSome

/-- A response sent to a guest die (R253). -/
def State.reply (s : State) (sock : Nat) (r : GReply) : State :=
  { s with sockets := modifyAt s.sockets sock fun k => { k with replies := k.replies ++ [r] } }

/-- The name under which a socket's single accesses to other modules travel: no unit's own (R259). -/
def guestRef (sock : Nat) : Nat := farRef + 1 + sock

/-- The answer to a request of this module: its data, by the request's kind. -/
def State.remoteAnswer (s : State) (k : Packet) (data : List Nat) : State :=
  let s := s.dropPacket k.id
  match s.op? k.ref with
  | some o => match o.kind with
    | .load _ _ _ _ => s.remoteDone o [leValue (data.map (BitVec.ofNat 8))]
    | .loadRo _ _ => s.remoteDone o [leValue (data.map (BitVec.ofNat 8))]
    | .shapeLoad handle => s.finishShape o handle (leValue (data.map (BitVec.ofNat 8)))
    | .prefetch => s.remoteDone o [leValue (data.map (BitVec.ofNat 8))]
    | _ => s.remoteDone o data
  | none => match k.kind with
    | 0 =>
      if k.ref = farRef then s.keepFar (k.owner, k.dest, k.addr) data
      else if farRef < k.ref then
        s.reply (k.ref - guestRef 0) (.bytes (2 ^ 60 + k.dest * 2 ^ 54 + k.addr) false data)
      else if s.awaits k.ref then s.giveEngine k 3 data else s
    | 2 =>
      if farRef < k.ref then s.reply (k.ref - guestRef 0) (.old (2 ^ 60 + k.dest * 2 ^ 54 + k.addr) (data.headD 0)) else s
    | 4 => if s.awaits k.ref then s.giveEngine k 9 data else s
    | 7 => if s.awaits k.ref then s.giveEngine k 9 data else s
    | 5 =>
      if data.headD 0 = 0 then s.mapRing k.ref fun e => { e with counted := true }
      else match s.entry? k.ref with
        | some e => s.failEntry e.id 12 0x0312 e.dst
        | none => s
    | 10 =>
      let s := match s.mem.merges.find? fun m => decide (m.id = k.ref) with
        | some m => if data.headD 0 = 1 then s.mergeRecord m 0x0912 false else s
        | none => s
      s.dropMerge k.ref
    | _ => s

/-- A byte of a context's memory lies in host memory. -/
def State.hostAt (s : State) (ctx va : Nat) : Bool :=
  match s.devKey ctx va false with
  | some k => isHost k
  | none => false

/-- The addresses that an entry's next access is to. -/
def Entry.atNow (e : Entry) : List Nat :=
  match e.op with
  | 1 => let x := tilePiece e.shape e.dst e.rows 1; [x.1, x.2.1]
  | 2 => let x := redElem e e.rows; [x.1, x.2]
  | 3 => [e.dst]
  | _ => []

/-- The address in host memory that an entry under way is at (R360, R365). -/
def State.entryHost (s : State) (e : Entry) : Option Nat :=
  if s.entryReady e && (e.started || decide (e.op ≠ 1)) then e.atNow.find? (s.hostAt e.ctx) else none

/-- The address that a command under way is at: of its tile, or its status word once its bank work is done. -/
def MatCmd.atNow (c : MatCmd) : List Nat :=
  if c.applied then (if shAddr38 c.a = 0 ∨ c.kind = 3 ∨ c.kind = 4 ∨ c.statSent = true then [] else [shAddr38 c.a])
  else if c.kind = 4 then [(accAddr c.a c.addr c.buf.length).1]
  else if c.kind = 5 ∧ c.rows < 128 then [(accAddr c.a c.addr (c.rows * shRowBytes c.a)).1]
  else []

/-- The address in host memory that the command in a sequencer is at (R360, R365). -/
def State.cmdHost (s : State) (core : Nat) (c : MatCmd) : Option Nat :=
  if c.stalled.isSome || s.matrixHeld core c then none else c.atNow.find? (s.hostAt c.ctx)

/-- The access to host memory that an entry or a command is at ends with a cause: STATUS 9, a deferred record, or the loss of
the flags (R335, R340, R360). -/
def State.failEngine (s : State) (id cause : Nat) : State :=
  match s.entry? id, s.cmdCore id with
  | some e, _ => match s.entryHost e with
    | some va => s.failEntry id 9 cause va
    | none => s
  | none, some (core, c) => match s.cmdHost core c with
    | some va =>
      if c.applied then (s.matRecord core c 0x0330 va (c.flags % 32) false).endCmd core c.id else s.failCmd core c cause va
    | none => s
  | none, none => s

/-- The entries and commands on the module: their names and contexts. -/
def State.engineWork (s : State) : List (Nat × Nat) :=
  ((s.pads.flatMap (·.ring)) ++ s.triggers).map (fun e => (e.id, e.ctx)) ++
    (s.pads.flatMap fun p => (p.mq.take 1).map fun c => (c.id, c.ctx))

/-- A request of this module ends without being performed (R360). -/
def State.remoteFailed (s : State) (k : Packet) (cause : Nat) : State :=
  let s := s.dropPacket k.id
  match s.op? k.ref with
  | some o => s.failOp o cause
  | none => match s.entry? k.ref with
    | some e =>
      let va := if k.kind = 0 then (tilePiece e.shape e.dst e.rows 64).1 else e.dst
      s.failEntry e.id (remoteStatus cause) cause va
    | none => match s.cmdCore k.ref with
      | some (core, c) => s.badCmd core c cause c.addr
      | none =>
        if farRef < k.ref then s.reply (k.ref - guestRef 0) (.failed (2 ^ 60 + k.dest * 2 ^ 54 + k.addr) cause)
        else match k.kind with
        | 0 => if k.ref = farRef then s.keepFar (k.owner, k.dest, k.addr) [] else s
        | 1 => s.saveFailed k
        | 2 =>
          if atD 0 k.data 0 = 13 ∧ k.ref < farRef then
            let ctx := atD 0 k.data 5
            s.report (plainRec 0x0330 2 ctx (s.ownerOf ctx) (atD 0 k.data 6) 0 (atD 0 k.data 7)) true false
          else if k.ref = 0 then s.wordFailed (atD 0 k.data 5) (atD 0 k.data 6) (atD 0 k.data 7) cause
          else s
        | 8 => s.recordFailed (atD 0 k.data 2) k.addr cause
        | 10 => match s.mem.merges.find? fun m => decide (m.id = k.ref) with
          | some m => s.stallMerge m cause
          | none => s
        | _ => s

/-- The request of this module that an answer of a module names. -/
def State.asked (s : State) (src ref addr : Nat) : Option Packet :=
  s.fabric.packets.find? fun k =>
    decide (k.dest = src ∧ k.ref = ref ∧ k.addr = addr) && decide (k.kind ∉ [3, 11, 12, 14])

/-- The answers of R360 and their causes. -/
def answerCause (kind : Nat) : Nat := if kind = 11 then 0x0207 else if kind = 12 then 0x0710 else 0x0911

/-- A packet that its flow delivers: an answer, or a request that waits to be checked (R278, R357). A refused packet takes
its place in the flow and no more. -/
def State.deliverPacket (s : State) (q : Inbound) : State :=
  match q.kind with
  | 16 => s
  | 3 => match s.asked q.src q.ref q.addr with
    | some k => s.remoteAnswer k q.data
    | none => s
  | k =>
    if k ∈ [11, 12, 14] then
      match s.asked q.src q.ref q.addr with
      | some p => s.remoteFailed p (answerCause k)
      | none => s
    else s.mapFabric fun f => { f with inbound := f.inbound ++ [q] }

/-! ### Arrival (R277, R357, R359) -/

/-- Packets of a source that arrived early are delivered in sequence order. -/
def State.deliverEarly (src : Nat) : Nat → State → State
  | 0, s => s
  | fuel + 1, s =>
    let n := tabGet 0 s.fabric.expectSeq src
    match s.fabric.early.find? fun e => decide (e.1 = src ∧ e.2.1 = n) with
    | none => s
    | some e =>
      let s := s.mapFabric fun f =>
        { f with early := f.early.filter fun x => decide (x.1 ≠ src ∨ x.2.1 ≠ n)
                 expectSeq := tabSet 0 f.expectSeq src ((n + 1) % 2 ^ 32) }
      State.deliverEarly src fuel (s.deliverPacket e.2.2)

/-- A packet of a flow: delivered at its turn, held when early, dropped when it is a duplicate (R357). -/
def State.takePacket (s : State) (src seqNo : Nat) (q : Inbound) : State :=
  let n := tabGet 0 s.fabric.expectSeq src
  let ahead := countDiff seqNo n
  if 2 ^ 31 ≤ ahead ∨ s.fabric.early.any (fun e => decide (e.1 = src ∧ e.2.1 = seqNo % 2 ^ 32)) then s
  else
    let s := s.mapFabric fun f => { f with early := f.early ++ [(src, seqNo % 2 ^ 32, q)] }
    State.deliverEarly src s.fabric.early.length s

/-- The destination has acknowledged a packet: an answer leaves the retry buffer, a request waits for its answer. -/
def State.packetAcked (s : State) (src seqNo : Nat) : State :=
  let mark := fun (k : Packet) => if k.dest = src ∧ k.seqNo = seqNo then { k with acked := true } else k
  s.mapFabric fun f => { f with packets :=
    (f.packets.filter fun k => decide (k.dest ≠ src ∨ k.seqNo ≠ seqNo ∨ k.kind ∉ [3, 11, 12, 14])).map mark }

/-- A packet is refused at an ingress port (R359): it is counted and reported, and answered OWNERREJECT; the access that a
refused answer was for ends with 0x0710. -/
def State.refuseIngress (s : State) (port seqNo : Nat) (q : Inbound) : State :=
  let s := s.countRefusal port q.owner
  let s := if q.kind ∈ [3, 11, 12, 14] then
      match s.asked q.src q.ref q.addr with
      | some k => s.remoteFailed k 0x0710
      | none => s
    else s.sendPacket q.src q.owner 12 q.ref q.addr []
  s.takePacket q.src seqNo { q with kind := 16 }

/-- A packet for another module: refused where its owner may not enter by this port (R359), else it joins the virtual output
queue of the next class, and goes on once its route has a port (R277). A packet that has taken 8 hops goes no further: the
manual gives no route such a packet (DESIGN CHOICE, log entry 71). -/
def State.transitPacket (s : State) (src dest hops seqNo owner port kind ref addr : Nat) (data : List Nat) : State :=
  if owner ∉ atD [] s.fabric.portOwners port then
    let s := s.countRefusal port owner
    if kind ∈ [3, 11, 12, 14, 15] then s else s.sendPacket src owner 12 ref addr []
  else if 7 ≤ hops then s
  else
    let t : Transit := { port := port, cls := hops + 1, src := src, dest := dest, seqNo := seqNo, owner := owner, kind := kind,
                         ref := ref, addr := addr, data := data }
    (s.mapFabric fun f => { f with transit := f.transit ++ [t] }).passOn

/-- A packet reaches a port of this module, its destination or a module on its way (R277, R357). Kind 15 is an
acknowledgement; addr names its sequence number. -/
def State.arrivePacket (s : State) (w : Flow) (seqNo owner port kind ref addr : Nat) (data : List Nat) : State :=
  if !s.readyBit (48 + port) ∨ 32 ≤ port ∨ w.src = s.tap.position then s
  else if w.dest ≠ s.tap.position then s.transitPacket w.src w.dest w.hops seqNo owner port kind ref addr data
  else if kind = 15 then s.packetAcked w.src addr
  else
    let q : Inbound := { id := s.nextId, src := w.src, owner := owner, kind := kind, ref := ref, addr := addr, data := data,
                         checked := none }
    let s := s.bump
    if owner ∈ atD [] s.fabric.portOwners port then s.takePacket w.src seqNo q else s.refuseIngress port seqNo q

/-! ### Windows (R278, R279) -/

/-- A window that nothing holds. -/
def ExportWindow.zero : ExportWindow := { owner := 0, base := 0, length := 0, peers := [], rights := 0, state := 0 }

/-- A window of the module. -/
def State.exportWindow (s : State) (n : Nat) : ExportWindow := tabGet ExportWindow.zero s.fabric.windows n

/-- The state with a window changed. -/
def State.putExport (s : State) (n : Nat) (w : ExportWindow) : State :=
  s.mapFabric fun f => { f with windows := tabSet ExportWindow.zero f.windows n w }

/-- Bytes that a request reaches. -/
def Inbound.span (q : Inbound) : Nat :=
  match q.kind with
  | 0 => q.data.headD 1
  | 1 => q.data.length
  | 2 => if atD 0 q.data 1 = 1 then 8 else 4
  | 4 => fmtBytes (q.data.headD 0) 1
  | 5 => 8
  | 6 => 4
  | 7 =>
    let sh : Shape := BitVec.ofNat 512 (q.data.headD 0)
    windowElems sh * fmtBytes (shFmt sh) 1
  | 8 => 16
  | _ => 64

/-- Rights that a request takes: bit 0 read, bit 1 write, bit 2 atomic (R278, log entry 28). -/
def Inbound.right (q : Inbound) : Nat :=
  match q.kind with
  | 0 => 0
  | 6 => 0
  | 1 => 1
  | 7 => 1
  | _ => 2

/-- An open window admits a request (R278). -/
def ExportWindow.admits (w : ExportWindow) (q : Inbound) : Bool :=
  decide (w.state = 1 ∧ w.base ≤ q.addr ∧ q.addr + q.span ≤ w.base + 65536 * w.length ∧ q.owner ∈ w.peers) &&
    w.rights.testBit q.right

/-- The window that admits a request. -/
def State.admitting (s : State) (q : Inbound) : Option Nat :=
  (s.fabric.windows.find? fun w => w.2.admits q).map (·.1)

/-- The state with a request that waits changed. -/
def State.mapInbound (s : State) (id : Nat) (f : Inbound → Inbound) : State :=
  let g := fun (q : Inbound) => if q.id = id then f q else q
  s.mapFabric fun x => { x with inbound := x.inbound.map g }

/-- A request is answered and gone (R278, R360). An answer of an owner that is not in the module's owner set is not sent (R277,
R359). -/
def State.answer (s : State) (q : Inbound) (kind : Nat) (data : List Nat) : State :=
  let s := s.mapFabric fun f => { f with inbound := f.inbound.filter fun x => decide (x.id ≠ q.id) }
  if s.maySend q.owner then s.sendPacket q.src q.owner kind q.ref q.addr data else s.refuseSend q.src q.owner

/-- A write of another module reaches the home agent; it is answered when it is visible (R58, R63). -/
def State.remoteStore (s : State) (q : Inbound) : State :=
  let line := lineOf q.addr
  let now := s.dieClk (homeOf line)
  if s.stackGone q.addr then s.answer q 14 []
  else if s.mem.guestHeld line then s.recallGuests line
  else
    let s := s.mapMem fun m => m.commitDue line now
    match s.mem.arrive line now 0 with
    | .hold _ => s
    | .behind _ => s
    | .at_ wt =>
      let s := (s.mapMem fun m => m.store now wt q.addr (q.data.map (BitVec.ofNat 8))).afterUpdate
      if wt ≤ now then s.answer q 3 [] else s.mapInbound q.id fun q => { q with kind := 20, data := [wt] }

/-- An atomic of another module is performed at the home agent, and answered when its value is visible (R58, R64, R71, R182,
R183, R341). -/
def State.remoteAtomic (s : State) (q : Inbound) : State :=
  let line := lineOf q.addr
  let now := s.dieClk (homeOf line)
  let n := q.span
  let count := atD 0 q.data 2
  let xs := (q.data.drop 3).take count
  let ys := (q.data.drop (3 + count)).take count
  if s.poisonedAt q.addr then s.answer q 14 []
  else if s.mem.guestHeld line then s.recallGuests line
  else
    let s := s.mapMem fun m => m.commitDue line now
    match s.mem.arrive line now 0 with
    | .hold _ => s
    | .behind _ => s
    | .at_ wt =>
      let r := atomAll (atD 0 q.data 0) (8 * n) (leValue (s.mem.latestBytes q.addr n)) xs ys
      let s := (s.mapMem fun m => m.store now wt q.addr (leBytes n r.2)).afterUpdate
      if wt ≤ now then s.answer q 3 r.1 else s.mapInbound q.id fun q => { q with kind := 22, data := wt :: r.1 }

/-- A watch of another module: it is answered when the word differs, or after 1,000,000 ticks (R186). -/
def State.remoteWatch (s : State) (q : Inbound) : State :=
  let now := s.dieClk (homeOf (lineOf q.addr))
  let s := s.mapMem fun m => m.commitDue (lineOf q.addr) now
  let v := leValue (s.mem.bytesAt q.addr 4 now)
  if s.poisonedAt q.addr then s.answer q 14 []
  else if v ≠ q.data.headD 0 then s.answer q 3 [v]
  else match q.kind with
    | 6 => s.mapInbound q.id fun q => { q with kind := 21, data := [q.data.headD 0, s.clk] }
    | _ => if atD 0 q.data 1 + 1000000 ≤ s.clk then s.answer q 3 [v] else s

/-- A root merge of another module combines a sector (R240, R344), behind what a guest die has written to it (R260). It is
answered when the sector is visible (R58, R375), with 1 where the sector is poisoned. -/
def State.remoteMerge (s : State) (q : Inbound) : State :=
  if s.stackGone q.addr then s.answer q 14 []
  else if !s.ownReady 0 q.addr 64 then s.ownWait q.addr 64
  else
  let t : Tile := { base := 0, pages := 0, fmt := atD 0 q.data 0, op := atD 0 q.data 1 }
  let bs := (q.data.drop 3).map (BitVec.ofNat 8)
  let bad := decide (atD 0 q.data 2 ≠ 0) || s.poisonedAt q.addr
  let now := s.dieClk (homeOf (lineOf q.addr))
  let wt := s.mem.ownStoreWt now 0 q.addr 64
  let say := if bad then [1] else []
  let s := s.ownStore q.addr (combineSector t (s.mem.latestBytes q.addr 64) bs)
  let s := if bad then s.mapMem fun m =>
      { m with poison := if sectorOf q.addr ∈ m.poison then m.poison else sectorOf q.addr :: m.poison } else s
  (if wt ≤ now then s.answer q 3 say else s.mapInbound q.id fun q => { q with kind := 22, data := wt :: say }).afterUpdate

/-- The counter that a counter increment names, for a context of this module (R214). -/
def State.countTarget (s : State) (q : Inbound) : Option Nat :=
  let ctx := q.data.headD 0
  if (s.ctx? ctx).isSome ∧ s.ownerOf ctx = q.owner then s.counterKey ctx q.addr else none

/-- A counter increment for a context of this module (R214), behind what a guest die has written to its line (R260). -/
def State.remoteCount (s : State) (q : Inbound) : State :=
  let ctx := q.data.headD 0
  if (s.countTarget q).isNone then s.answer q 3 [1]
  else if s.counterGone ctx q.addr then s.answer q 14 []
  else if !s.counterReady ctx q.addr then s.recallCounter ctx q.addr
  else ((s.counterAdd ctx q.addr (atD 0 q.data 1)).answer q 3 [0]).afterUpdate

/-- A checked request is performed at its home as far as it may be (R58, R63, R64, R217-R220, R240). -/
def State.performRequest (s : State) (q : Inbound) : State :=
  let now := s.dieClk (homeOf (lineOf q.addr))
  match q.kind with
  | 0 =>
    if s.poisonedAt q.addr then s.answer q 14 []
    else
      let s := s.mapMem fun m => m.commitDue (lineOf q.addr) now
      s.answer q 3 ((s.mem.bytesAt q.addr q.span now).map (·.toNat))
  | 1 => s.remoteStore q
  | 2 => s.remoteAtomic q
  | 4 =>
    let place := if atD 0 q.data 3 = 0 then none else some (atD 0 q.data 4)
    if s.stackGone q.addr then s.answer q 14 [] else
    let r := s.contribute q.owner q.addr (atD 0 q.data 0) (atD 0 q.data 1) (atD 0 q.data 2) place (atD 0 q.data 5)
    (r.1.answer q 3 [match r.2.1 with
      | .taken => 0
      | .notReady => 1
      | .refused => 2, r.2.2]).closeWindows
  | 6 => s.remoteWatch q
  | 21 => s.remoteWatch q
  | 7 =>
    match s.register q.owner (atD 0 q.data 1) q.addr (atD 0 q.data 2) (BitVec.ofNat 512 (q.data.headD 0)) (atD 0 q.data 3) with
    | none => s.answer q 3 [1]
    | some s => s.answer q 3 [0]
  | 8 =>
    if s.stackGone q.addr then s.answer q 14 []
    else if s.mem.guestDirty (lineOf q.addr) then s.recallGuests (lineOf q.addr)
    else
      ((s.completionRecord 0 0 (s.tap.position % 64 * 2 ^ 60 + q.addr) (atD 0 q.data 0) (atD 0 q.data 1)).answer q 3
        []).afterUpdate
  | 10 => s.remoteMerge q
  | 5 => s.remoteCount q
  | 20 => if q.data.headD 0 ≤ now then s.answer q 3 [] else s
  | 22 => if q.data.headD 0 ≤ now then s.answer q 3 q.data.tail else s
  | _ => s

/-- The request as a window sees it: a counter increment is an update of its counter's 8 bytes (R214, R278). A counter that is
not there has no bytes, and the increment is answered so. -/
def State.windowView (s : State) (q : Inbound) : Option Inbound :=
  if q.kind = 5 then (s.countTarget q).map fun k => { q with addr := k } else some q

/-- WINDOW_REQUEST: a request is checked once, then performed, or answered REVOKED (R278). -/
def State.serveRequest (s : State) (id : Nat) : State :=
  match s.fabric.inbound.find? fun q => decide (q.id = id) with
  | none => s
  | some q =>
    if q.kind = 3 ∨ q.kind = 9 then s
    else match q.checked, s.windowView q with
      | some _, _ => s.performRequest q
      | none, none => s.performRequest q
      | none, some v => match s.admitting v with
        | none => s.answer q 11 []
        | some w =>
          let q := { q with checked := some w }
          (s.mapInbound id fun _ => q).performRequest q

/-- The state with a TDI changed. -/
def State.mapTdi (s : State) (n : Nat) (f : Tdi → Tdi) : State :=
  { s with service := { s.service with tdis := modifyAt s.service.tdis n f } }

/-- A TDI's window commands act: it is in RUN and no revoke of it is under way (R279, R366). -/
def Tdi.commands (t : Tdi) : Bool := decide (t.tdiState = 2) && t.busy.isNone

/-- The peers that WPEERS names. -/
def peersOf (w : Nat) : List Nat :=
  ((upFrom 0 4).filter fun i => w.testBit (16 * i + 15)).map fun i => w / 2 ^ (16 * i) % 4096

/-- OPEN (R279). -/
def State.openWindow (s : State) (n : Nat) : State :=
  match s.service.tdis[n]? with
  | none => s
  | some t =>
    if !t.commands then s
    else
      let w := s.exportWindow t.wsel
      if w.state ≠ 0 then s.mapTdi n fun t => { t with result := if w.owner = t.owner then 2 else 1 }
      else if t.wlen = 0 ∨ hbmBytes < t.wbase + 65536 * t.wlen then s.mapTdi n fun t => { t with result := 4 }
      else
        (s.putExport t.wsel { owner := t.owner, base := t.wbase, length := t.wlen, peers := peersOf t.wpeers,
                              rights := t.wrights, state := 1 }).mapTdi n fun t => { t with result := 0 }

/-- REVOKE (R278, R279). -/
def State.revokeWindow (s : State) (n : Nat) : State :=
  match s.service.tdis[n]? with
  | none => s
  | some t =>
    if !t.commands then s
    else
      let w := s.exportWindow t.wsel
      if w.state ≠ 0 ∧ w.owner ≠ t.owner then s.mapTdi n fun t => { t with result := 1 }
      else if w.state ≠ 1 then s.mapTdi n fun t => { t with result := 3 }
      else (s.putExport t.wsel { w with state := 2 }).mapTdi n fun t => { t with busy := some t.wsel }

/-- WINDOW_CLOSE: no checked request of a window being revoked is left (R278); MSI-X vector 1 of the TDI's function. -/
def State.closeExport (s : State) (n : Nat) : State :=
  if (s.exportWindow n).state = 2 ∧ s.fabric.inbound.all (fun q => decide (q.checked ≠ some n)) then
    let s := s.putExport n ExportWindow.zero
    (mapFrom (fun i t => (i, t)) 0 s.service.tdis).foldl (fun (s : State) (x : Nat × Tdi) =>
      if x.2.busy = some n then
        let s := s.mapTdi x.1 fun t => { t with busy := none, result := 0 }
        { s with service := { s.service with msix := ((x.1 + 1) * 2048 + 1) :: s.service.msix } }
      else s) s
  else s

end Sys2Proof.Machine
end

