-- ==== Sys2Proof/Machine/FabricRows.lean ====
section
/-! DEFINITION. Rows of the fabric (R276-R279, R357-R360). A row that the state does not enable leaves it as it is. -/

namespace Sys2Proof.Machine

/-- A packet of this module was refused at a port on its way (R359, R360). -/
def State.packetRejected (s : State) (id : Nat) : State :=
  match s.fabric.packets.find? fun k => decide (k.id = id) with
  | none => s
  | some k => if k.kind ∈ [3, 11, 12, 14] then s.dropPacket id else s.remoteFailed k 0x0710

/-- The access of an operation ends with a failed answer: REVOKED, OWNERREJECT or a failed host transaction (R360). -/
def State.accessFailed (s : State) (id cause : Nat) : State :=
  match s.op? id with
  | none =>
    let owner := match s.engineWork.find? fun x => decide (x.1 = id) with
      | some x => s.ownerOf x.2
      | none => 0
    if cause = 0x0800 ∨ s.hostFault owner (2 ^ 54) = some cause then s.failEngine id cause else s
  | some o => match o.loc with
    | .remote _ _ =>
      (match s.fabric.packets.find? fun k => decide (k.ref = id) with
       | some k => if cause = 0x0207 ∨ cause = 0x0710 then s.remoteFailed k cause else s
       | none => s)
    | .mem key =>
      (match o.kind with
       | .visible _ _ => s
       | _ => if isHost key && decide (cause = 0x0800 ∨ s.hostFault (s.ownerOf o.ctx) key = some cause) then
           s.failOp o cause else s)
    | _ => s

/-- R276. -/
def execSetowners (members : Membership) (port : Nat) (portOwners : List Nat) (s : State) : Result :=
  .next (s.setOwners members port portOwners)

/-- R276, R277. -/
def execSetroute (dest : Nat) (ports : List Nat) (weights : List Nat) (hops : Nat) (s : State) : Result :=
  .next (s.setRoute dest ports weights hops)

/-- R276, R283. -/
def execPortdrain (port : Nat) (s : State) : Result := .next ((s.setPort port false).answerManager true)

/-- R276, R283. -/
def execPortup (port : Nat) (s : State) : Result := .next ((s.setPort port true).answerManager true)

/-- R269, R276. -/
def execSetppt (owner : Nat) (base : Nat) (size : Nat) (s : State) : Result :=
  .next (s.setPool owner base size)

/-- R277, R357-R360. -/
def execFabricPacket (flow : Flow) (seqNo : Nat) (owner : Nat) (port : Nat) (kind : Nat) (ref : Nat)
    (addr : Nat) (data : List Nat) (s : State) : Result :=
  .next (s.arrivePacket flow seqNo owner port kind ref addr data)

/-- R277, R357. -/
def execPacketResend (packet : Nat) (s : State) : Result := .next (s.resend packet)

/-- R357, R358. -/
def execPortDown (port : Nat) (s : State) : Result :=
  .next (if s.readyBit (48 + port % 32) then (s.setPort port false).tellManager 0x0700 port else s)

/-- R358. -/
def execRouteStall (dest : Nat) (s : State) : Result := .next (s.sayRouteStall dest)

/-- R359, R360. The refusal counts in the DETAIL record of the port that refused, on its own module. -/
def execOwnerreject (packet : Nat) (_port : Nat) (s : State) : Result := .next (s.packetRejected packet)

/-- R360. -/
def execRemoteAccessFailed (op : Nat) (cause : Nat) (s : State) : Result := .next (s.accessFailed op cause)

/-- R278. -/
def execWindowRequest (req : Nat) (s : State) : Result := .next (s.serveRequest req)

/-- R279. -/
def execWinOpen (tdi : Nat) (s : State) : Result := .next (s.openWindow tdi)

/-- R278, R279. -/
def execWinRevoke (tdi : Nat) (s : State) : Result := .next (s.revokeWindow tdi)

/-- R278, R279. -/
def execWindowClose (win : Nat) (s : State) : Result := .next (s.closeExport win)

end Sys2Proof.Machine
end

