-- ==== Sys2Proof/Machine/Transc.lean ====
section
/-! DEFINITION. The allowed sets of R167: each function is evaluated in fixed point with 640 fraction bits, far more than any
FP32 result needs to be placed between its two neighbours (DEDUCED, log entry 14). -/

namespace Sys2Proof.Machine

/-- Fraction bits of the fixed-point evaluation. -/
def fxBits : Nat := 640

/-- 1 in fixed point. -/
def fxOne : Nat := 2 ^ fxBits

/-- The integer square root, bit by bit from bit k - 1 down; `r` is the root so far. -/
def isqrtFrom (n : Nat) : Nat → Nat → Nat
  | 0, r => r
  | k + 1, r => isqrtFrom n k (if (r + 2 ^ k) * (r + 2 ^ k) ≤ n then r + 2 ^ k else r)

/-- The integer square root. -/
def isqrt (n : Nat) : Nat := isqrtFrom n (Nat.log2 n / 2 + 1) 0

/-- Sum of t/(i), t/(i+2)·q, ... : a series of odd terms, each power shrunk by num/den; signs alternate when `alt`. -/
def oddSeries (alt : Bool) (num den : Nat) : Nat → Nat → Nat → Int
  | 0, _, _ => 0
  | k + 1, i, t =>
    let rest := oddSeries alt num den k (i + 2) (t * num / den)
    (t / i : Nat) + (if alt then -rest else rest)

/-- 2 atanh(a / b) in fixed point. -/
def fxAtanh2 (a b : Nat) : Nat := (oddSeries false (a * a) (b * b) 220 1 (2 * fxOne * a / b)).toNat

/-- ln 2 in fixed point. -/
def fxLn2 : Nat := fxAtanh2 1 3

/-- atan(1 / b) in fixed point. -/
def fxAtanInv (b : Nat) : Int := oddSeries true 1 (b * b) 150 1 (fxOne / b)

/-- π in fixed point. -/
def fxPi : Nat := (16 * fxAtanInv 5 - 4 * fxAtanInv 239).toNat

/-- Taylor series of exp at a fixed-point x below 1: the sum of the terms from t = x^i / i! on. -/
def expSeries (x : Nat) : Nat → Nat → Nat → Nat
  | 0, _, _ => 0
  | k + 1, i, t => t + expSeries x k (i + 1) (t * x / fxOne / (i + 1))

/-- exp of a fixed-point x below 1. -/
def fxExp (x : Nat) : Nat := expSeries x 170 0 fxOne

/-- The alternating series of sin (from t = x, i = 1) and cos (from t = 1, i = 0) at a fixed-point x. -/
def trigSeries (x : Nat) : Nat → Nat → Nat → Int
  | 0, _, _ => 0
  | k + 1, i, t => (t : Int) - trigSeries x k (i + 2) (t * x / fxOne * x / fxOne / ((i + 1) * (i + 2)))

/-- sin of a fixed-point x up to π / 2. -/
def fxSin (x : Nat) : Nat := (trigSeries x 90 1 x).toNat
/-- cos of a fixed-point x up to π / 2. -/
def fxCos (x : Nat) : Nat := (trigSeries x 90 0 fxOne).toNat

/-- A fixed-point number times 2^k as a value. -/
def fxVal (neg : Bool) (v : Nat) (k : Int) : FVal := dyadic neg v (k - fxBits)

/-- The result of an allowed set: the value itself when it is representable, else one of its two FP32 neighbours
(R167), as `Config.pickUpper` has it. -/
def allowed (fn : Nat) (x : Word) (seq : Nat) (exact : Bool) (v : FVal) : Word :=
  match v with
  | .num neg n d =>
    let lo := (fp32.round 1 0 (.num false n d)).bits
    let mag := if exact then lo else if Config.pickUpper fn x seq then lo + 1 else lo
    BitVec.ofNat 32 (fp32.signBit neg + mag)
  | v => toF32 0 0 v

/-- The number of a lane's own draw in a step: no two lanes of a step, and no two steps, share one (R7). -/
def drawOf (seq lane : Nat) : Nat := 256 * seq + lane % 256

/-- The canonical NaN of FP32. -/
def nan32 : Word := 0x7FC00000#32

/-- `rcp` (R167). -/
def rcp32 (x : Word) : Word := toF32 0 0 (FVal.div (.num false 1 1) (f32 x))

/-- √(n / d) with 640 bits below the point, and whether it is exact. -/
def fxSqrt (n d : Nat) : Nat × Bool :=
  let s := isqrt (n * d * 2 ^ (2 * fxBits))
  (s, decide (s * s = n * d * 2 ^ (2 * fxBits)))

/-- `sqrt`: correctly rounded (R167). -/
def sqrt32 (x : Word) : Word :=
  match f32 x with
  | .num false n d =>
    if n = 0 then x
    else
      let s := fxSqrt n d
      toF32 0 0 (.num false (2 * s.1 + (if s.2 then 0 else 1)) (2 * d * fxOne))
  | .num true n _ => if n = 0 then x else nan32
  | .inf false => x
  | _ => nan32

/-- `rsqrt` (R167). -/
def rsqrt32 (seq : Nat) (x : Word) : Word :=
  match f32 x with
  | .num s n d =>
    if n = 0 then (if s then 0xFF800000#32 else 0x7F800000#32)
    else if s then nan32
    else
      let r := isqrt (d * 2 ^ (2 * fxBits) / n)
      allowed 1 x seq (decide (r * r * n = d * 2 ^ (2 * fxBits))) (.num false r fxOne)
  | .inf false => 0
  | _ => nan32

/-- `exp2` (R167); beyond ±200 the neighbours are those at ±200. -/
def exp2_32 (seq : Nat) (x : Word) : Word :=
  match f32 x with
  | .num s n d =>
    let big := decide (200 * d ≤ n)
    let n' := if big then 200 else n
    let d' := if big then 1 else d
    let whole := if n' % d' = 0 then n' / d' else if s then n' / d' + 1 else n' / d'
    let frac := if s then whole * d' - n' else n' - whole * d'
    let k : Int := if s then -(whole : Int) else whole
    let exact := decide (frac = 0) && decide (-149 ≤ k ∧ k ≤ 127)
    allowed 3 x seq exact (fxVal false (fxExp (fxLn2 * frac / d')) k)
  | .inf true => 0
  | .inf false => x
  | .nan => nan32

/-- log2 of n / d in fixed point: its exponent and the logarithm of its fraction. -/
def fxLog2 (n d : Nat) : Int :=
  let e := expOf n d
  let m := scaleDown n d e
  e * fxOne + (fxAtanh2 (m.1 - m.2) (m.1 + m.2) * fxOne / fxLn2 : Nat)

/-- `log2` (R167). -/
def log2_32 (seq : Nat) (x : Word) : Word :=
  match f32 x with
  | .num s n d =>
    if n = 0 then 0xFF800000#32
    else if s then nan32
    else
      let e := expOf n d
      let m := scaleDown n d e
      if m.1 = m.2 then toF32 0 0 (FVal.ofInt e)
      else
        let v := fxLog2 n d
        allowed 4 x seq false (.num (decide (v < 0)) v.natAbs fxOne)
  | .inf false => x
  | _ => nan32

/-- sin(π t) for t = n / d in [0, 1/2], as a fixed-point number. -/
def fxSinPi (n d : Nat) : Nat := fxSin (fxPi * n / d)

/-- |sin(π n / d)| for any n: the fold of n / d into [0, 1/2], and whether the sine is negative. -/
def foldHalf (n d : Nat) : Nat × Bool :=
  let r := n % (2 * d)
  let neg := decide (d ≤ r)
  let r := if neg then r - d else r
  (if d < 2 * r then d - r else r, neg)

/-- `sinpi` (R167). -/
def sinpi32 (seq : Nat) (x : Word) : Word :=
  match f32 x with
  | .num s n d =>
    let f := foldHalf n d
    if f.1 = 0 then BitVec.ofNat 32 (fp32.signBit s)
    else if 2 * f.1 = d then toF32 0 0 (.num (s != f.2) 1 1)
    else allowed 5 x seq false (fxVal (s != f.2) (fxSinPi f.1 d) 0)
  | _ => nan32

/-- `cospi` (R167): cos(π t) = sin(π (t + 1/2)). -/
def cospi32 (seq : Nat) (x : Word) : Word :=
  match f32 x with
  | .num _ n d =>
    let f := foldHalf (2 * n + d) (2 * d)
    if f.1 = 0 then 0
    else if f.1 = d then toF32 0 0 (.num f.2 1 1)
    else
      -- near the extremes the cosine series of the complement keeps every bit
      let c := d - f.1
      allowed 6 x seq false (fxVal f.2 (if 2 * c < d then fxCos (fxPi * c / (2 * d)) else fxSinPi f.1 (2 * d)) 0)
  | _ => nan32

/-- e^(n / d) in fixed point for n / d up to 128. -/
def fxExpBig (n d : Nat) : Nat :=
  let y := n * fxOne / d
  let k := y / fxLn2
  fxExp (y - k * fxLn2) * 2 ^ k

/-- `tanh` (R167); from 64 on the neighbours are those at 64. -/
def tanh32 (seq : Nat) (x : Word) : Word :=
  match f32 x with
  | .num s n d =>
    if n = 0 then x
    else
      let big := decide (64 * d ≤ n)
      let e := if big then fxExpBig 128 1 else fxExpBig (2 * n) d
      allowed 7 x seq false (.num s (e - fxOne) (e + fxOne))
  | .inf s => toF32 0 0 (.num s 1 1)
  | .nan => nan32

end Sys2Proof.Machine
end

