-- ==== Sys2Proof/Machine/FloatOps.lean ====
section
/-! DEFINITION. The float, conversion, exchange, transcendental and divide instructions, majors 0x10-0x21 (R160-R168). -/

namespace Sys2Proof.Machine

/-! ### Lanes that round -/

/-- What a lane that rounds writes: under SR (RM 4) it steps its generator once for each of n results, whether exact or
not, and the results draw in order (R115); other modes draw nothing. -/
def drawn (rm : BitVec 3) (t : Thread) (n d : Nat) (f : List Nat → Word) : LaneWrite :=
  if rm.toNat = 4 then
    let s1 := rngStep t.rng
    let s2 := rngStep s1
    if n = 2 then { regs := [(d, f [rngDraw s1, rngDraw s2])], preds := [], rng := some s2 }
    else { regs := [(d, f [rngDraw s1, 0])], preds := [], rng := some s1 }
  else { regs := [(d, f [0, 0])], preds := [], rng := none }

/-- Draw k of a list. -/
def drawAt (l : List Nat) (k : Nat) : Nat := atD 0 l k

/-- A word whose lanes give one FP32 result rounded once (R160). -/
def State.floatWord (s : State) (i : Instr) (d : BitVec 6) (rm : BitVec 3) (f : List Word → FVal) : State :=
  s.laneWord i fun _ t vs => drawn rm t 1 d.toNat fun ds => toF32 rm.toNat (drawAt ds 0) (f vs)

/-- A word whose lanes give two BF16 results, each rounded once (R161). -/
def State.bfWord (s : State) (i : Instr) (d : BitVec 6) (rm : BitVec 3) (f : List Word → Nat → FVal) : State :=
  s.laneWord i fun _ t vs => drawn rm t 2 d.toNat fun ds =>
    BitVec.ofNat 32 ((bf16.round rm.toNat (drawAt ds 0) (f vs 0)).bits +
      (bf16.round rm.toNat (drawAt ds 1) (f vs 1)).bits * 2 ^ 16)

/-- Element e of BF16 operand n. -/
def bfOp (vs : List Word) (n e : Nat) : FVal := bfElem (nth vs n) (e)

/-- FP32 operand n. -/
def fOp (vs : List Word) (n : Nat) : FVal := f32 (nth vs n)

/-- `frint` of a value: the integer by the mode, a zero result with A's sign (R164). -/
def frintVal (mode draw : Nat) : FVal → FVal
  | .num s n d => .num s (roundMag mode s draw n d) 1
  | v => v

/-- An i32 exponent held within the range that any FP32 operand can use (R164). -/
def scaleArg (w : Word) : Int := clampInt (-500) 500 w.toInt

/-! ### Exchange -/

/-- The A value of a participant. -/
def partner (ps : List (Nat × List Word)) (idx : Int) : Option Word :=
  (ps.find? fun x => decide ((x.1 : Int) = idx)).map fun x => nth x.2 0

/-- A word whose lanes read each other's A (R166). -/
def State.exchange (s : State) (i : Instr) (d : BitVec 6) (f : List (Nat × List Word) → Nat → List Word → Word) :
    State :=
  s.runWord i fun s r lanes =>
    let (s, ps) := s.collect r i.reads lanes
    ps.foldl (fun s x => s.applyWrite r.core r.fg x.1 (writeOne d.toNat (f ps x.1 x.2))) s

/-- A's value from the partner of the index given, or the lane's own (R166). -/
def fromPartner (ps : List (Nat × List Word)) (vs : List Word) (idx : Int) : Word := (partner ps idx).getD (nth vs 0)

/-- `ballot` of a lane (R166). -/
def ballotOf (ps : List (Nat × List Word)) (l : Nat) : Word :=
  BitVec.ofNat 32 (((upFrom 0 32).map fun j =>
    match partner ps ((l / 32 * 32 + j : Nat) : Int) with
    | some a => if a ≠ 0 then 2 ^ j else 0
    | none => 0).foldl (· + ·) 0)

/-! ### Meanings -/

/-- R160: A + B, rounded once. -/
def execFadd (c : Bool) (g : BitVec 4) (d : BitVec 6) (a : BitVec 6) (b : BitVec 6) (r : BitVec 3)
    (s : State) : Result :=
  .next (s.floatWord (.fadd c g d a b r) d r fun vs => (fOp vs 0).add r.toNat (fOp vs 1))

/-- R160: A − B, rounded once. -/
def execFsub (c : Bool) (g : BitVec 4) (d : BitVec 6) (a : BitVec 6) (b : BitVec 6) (r : BitVec 3)
    (s : State) : Result :=
  .next (s.floatWord (.fsub c g d a b r) d r fun vs => (fOp vs 0).add r.toNat (fOp vs 1).negate)

/-- R160: A × B, rounded once. -/
def execFmul (c : Bool) (g : BitVec 4) (d : BitVec 6) (a : BitVec 6) (b : BitVec 6) (r : BitVec 3)
    (s : State) : Result :=
  .next (s.floatWord (.fmul c g d a b r) d r fun vs => (fOp vs 0).mul (fOp vs 1))

/-- R160: A × B + D, rounded once. -/
def execFfma (c : Bool) (g : BitVec 4) (d : BitVec 6) (a : BitVec 6) (b : BitVec 6) (r : BitVec 3)
    (s : State) : Result :=
  .next (s.floatWord (.ffma c g d a b r) d r fun vs => ((fOp vs 0).mul (fOp vs 1)).add r.toNat (fOp vs 2))

/-- R160: A × B − D, rounded once. -/
def execFfms (c : Bool) (g : BitVec 4) (d : BitVec 6) (a : BitVec 6) (b : BitVec 6) (r : BitVec 3)
    (s : State) : Result :=
  .next (s.floatWord (.ffms c g d a b r) d r fun vs => ((fOp vs 0).mul (fOp vs 1)).add r.toNat (fOp vs 2).negate)

/-- R160: −(A × B) + D, rounded once. -/
def execFnma (c : Bool) (g : BitVec 4) (d : BitVec 6) (a : BitVec 6) (b : BitVec 6) (r : BitVec 3)
    (s : State) : Result :=
  .next (s.floatWord (.fnma c g d a b r) d r fun vs => ((fOp vs 0).mul (fOp vs 1)).negate.add r.toNat (fOp vs 2))

/-- R161: A.e + B.e. -/
def execHaddBf16x2 (c : Bool) (g : BitVec 4) (d : BitVec 6) (a : BitVec 6) (b : BitVec 6) (r : BitVec 3)
    (s : State) : Result :=
  .next (s.bfWord (.haddBf16x2 c g d a b r) d r fun vs e => (bfOp vs 0 e).add r.toNat (bfOp vs 1 e))

/-- R161: A.e × B.e. -/
def execHmulBf16x2 (c : Bool) (g : BitVec 4) (d : BitVec 6) (a : BitVec 6) (b : BitVec 6) (r : BitVec 3)
    (s : State) : Result :=
  .next (s.bfWord (.hmulBf16x2 c g d a b r) d r fun vs e => (bfOp vs 0 e).mul (bfOp vs 1 e))

/-- R161: A.e × B.e + D.e. -/
def execHfmaBf16x2 (c : Bool) (g : BitVec 4) (d : BitVec 6) (a : BitVec 6) (b : BitVec 6) (r : BitVec 3)
    (s : State) : Result :=
  .next (s.bfWord (.hfmaBf16x2 c g d a b r) d r fun vs e => ((bfOp vs 0 e).mul (bfOp vs 1 e)).add r.toNat (bfOp vs 2 e))

/-- R161: A.0 × B.0 + A.1 × B.1 + D, rounded once to FP32. -/
def execFdot2Bf16 (c : Bool) (g : BitVec 4) (d : BitVec 6) (a : BitVec 6) (b : BitVec 6) (r : BitVec 3)
    (s : State) : Result :=
  .next (s.floatWord (.fdot2Bf16 c g d a b r) d r fun vs => 
    (((bfOp vs 0 0).mul (bfOp vs 1 0)).add r.toNat ((bfOp vs 0 1).mul (bfOp vs 1 1))).add r.toNat (fOp vs 2))

/-- R162. -/
def execFmin (c : Bool) (g : BitVec 4) (d : BitVec 6) (a : BitVec 6) (b : BitVec 6) (s : State) : Result :=
  .next (s.word2 (.fmin c g d a b) d fun x y => fmin32 x y)

/-- R162. -/
def execFmax (c : Bool) (g : BitVec 4) (d : BitVec 6) (a : BitVec 6) (b : BitVec 6) (s : State) : Result :=
  .next (s.word2 (.fmax c g d a b) d fun x y => fmax32 x y)

/-- R162. -/
def execFcopysign (c : Bool) (g : BitVec 4) (d : BitVec 6) (a : BitVec 6) (b : BitVec 6) (s : State) : Result :=
  .next (s.word2 (.fcopysign c g d a b) d fun x y => (x &&& 0x7FFFFFFF#32) ||| (y &&& 0x80000000#32))

/-- R162. -/
def execFabs (c : Bool) (g : BitVec 4) (d : BitVec 6) (a : BitVec 6) (s : State) : Result :=
  .next (s.word1 (.fabs c g d a) d fun x => x &&& 0x7FFFFFFF#32)

/-- R162. -/
def execFneg (c : Bool) (g : BitVec 4) (d : BitVec 6) (a : BitVec 6) (s : State) : Result :=
  .next (s.word1 (.fneg c g d a) d fun x => x ^^^ 0x80000000#32)

/-- R162. -/
def execFclass (c : Bool) (g : BitVec 4) (d : BitVec 6) (a : BitVec 6) (s : State) : Result :=
  .next (s.word1 (.fclass c g d a) d fun x => fclass32 x)

/-- R163. -/
def execFcmpEq (c : Bool) (g : BitVec 4) (d : BitVec 3) (a : BitVec 6) (b : BitVec 6) (s : State) : Result :=
  .next (s.wordP (.fcmpEq c g d a b) d fun x y => !isNan32 x && !isNan32 y && feq32 x y)

/-- R163. -/
def execFcmpNe (c : Bool) (g : BitVec 4) (d : BitVec 3) (a : BitVec 6) (b : BitVec 6) (s : State) : Result :=
  .next (s.wordP (.fcmpNe c g d a b) d fun x y => isNan32 x || isNan32 y || !feq32 x y)

/-- R163. -/
def execFcmpLt (c : Bool) (g : BitVec 4) (d : BitVec 3) (a : BitVec 6) (b : BitVec 6) (s : State) : Result :=
  .next (s.wordP (.fcmpLt c g d a b) d fun x y => !isNan32 x && !isNan32 y && flt32 x y)

/-- R163. -/
def execFcmpLe (c : Bool) (g : BitVec 4) (d : BitVec 3) (a : BitVec 6) (b : BitVec 6) (s : State) : Result :=
  .next (s.wordP (.fcmpLe c g d a b) d fun x y => !isNan32 x && !isNan32 y && (flt32 x y || feq32 x y))

/-- R163. -/
def execFcmpUn (c : Bool) (g : BitVec 4) (d : BitVec 3) (a : BitVec 6) (b : BitVec 6) (s : State) : Result :=
  .next (s.wordP (.fcmpUn c g d a b) d fun x y => isNan32 x || isNan32 y)

/-- R164: A × 2^sB. -/
def execFscale (c : Bool) (g : BitVec 4) (d : BitVec 6) (a : BitVec 6) (b : BitVec 6) (r : BitVec 3)
    (s : State) : Result :=
  .next (s.floatWord (.fscale c g d a b r) d r fun vs => (fOp vs 0).scale (scaleArg (nth vs 1)))

/-- R164: an integral value by RM. -/
def execFrint (c : Bool) (g : BitVec 4) (d : BitVec 6) (a : BitVec 6) (r : BitVec 3) (s : State) : Result :=
  .next (s.laneWord (.frint c g d a r) fun _ t vs => drawn r t 1 d.toNat fun ds =>
    toF32 0 0 (frintVal r.toNat (drawAt ds 0) (fOp vs 0)))

/-- R165 code 0. -/
def execCvtBf16F32 (c : Bool) (g : BitVec 4) (d : BitVec 6) (a : BitVec 6) (r : BitVec 3) (s : State) : Result :=
  .next (s.laneWord (.cvtBf16F32 c g d a r) fun _ t vs => drawn r t 1 d.toNat fun ds =>
    BitVec.ofNat 32 (bf16.round r.toNat (drawAt ds 0) (fOp vs 0)).bits)

/-- R165 code 2. -/
def execCvtE4m3F32 (c : Bool) (g : BitVec 4) (d : BitVec 6) (a : BitVec 6) (r : BitVec 3) (s : State) : Result :=
  .next (s.laneWord (.cvtE4m3F32 c g d a r) fun _ t vs => drawn r t 1 d.toNat fun ds =>
    BitVec.ofNat 32 (e4m3.round r.toNat (drawAt ds 0) (fOp vs 0)).bits)

/-- R165 code 4. -/
def execCvtI32F32 (c : Bool) (g : BitVec 4) (d : BitVec 6) (a : BitVec 6) (r : BitVec 3) (s : State) : Result :=
  .next (s.laneWord (.cvtI32F32 c g d a r) fun _ t vs => drawn r t 1 d.toNat fun ds =>
    BitVec.ofInt 32 ((fOp vs 0).toInt r.toNat (drawAt ds 0) (-(2 ^ 31)) (2 ^ 31 - 1)))

/-- R165 code 5. -/
def execCvtN32F32 (c : Bool) (g : BitVec 4) (d : BitVec 6) (a : BitVec 6) (r : BitVec 3) (s : State) : Result :=
  .next (s.laneWord (.cvtN32F32 c g d a r) fun _ t vs => drawn r t 1 d.toNat fun ds =>
    BitVec.ofInt 32 ((fOp vs 0).toInt r.toNat (drawAt ds 0) 0 (2 ^ 32 - 1)))

/-- R165 code 6. -/
def execCvtF32I32 (c : Bool) (g : BitVec 4) (d : BitVec 6) (a : BitVec 6) (r : BitVec 3) (s : State) : Result :=
  .next (s.laneWord (.cvtF32I32 c g d a r) fun _ t vs => drawn r t 1 d.toNat fun ds =>
    toF32 r.toNat (drawAt ds 0) (FVal.ofInt (nth vs 0).toInt))

/-- R165 code 7. -/
def execCvtF32N32 (c : Bool) (g : BitVec 4) (d : BitVec 6) (a : BitVec 6) (r : BitVec 3) (s : State) : Result :=
  .next (s.laneWord (.cvtF32N32 c g d a r) fun _ t vs => drawn r t 1 d.toNat fun ds =>
    toF32 r.toNat (drawAt ds 0) (FVal.ofInt (nth vs 0).toNat))

/-- R165 code 1: exact, or clamped; the mode has no effect and draws nothing. -/
def execCvtF32Bf16 (c : Bool) (g : BitVec 4) (d : BitVec 6) (a : BitVec 6) (r : BitVec 3) (s : State) : Result :=
  .next (s.word1 (.cvtF32Bf16 c g d a r) d fun x => toF32 0 0 (bf16.value x.toNat))

/-- R165 code 3: exact, or clamped; the mode has no effect and draws nothing. -/
def execCvtF32E4m3 (c : Bool) (g : BitVec 4) (d : BitVec 6) (a : BitVec 6) (r : BitVec 3) (s : State) : Result :=
  .next (s.word1 (.cvtF32E4m3 c g d a r) d fun x => toF32 0 0 (e4m3.value x.toNat))

/-- R165 code 8: exact, or clamped; the mode has no effect and draws nothing. -/
def execCvtI16I32 (c : Bool) (g : BitVec 4) (d : BitVec 6) (a : BitVec 6) (r : BitVec 3) (s : State) : Result :=
  .next (s.word1 (.cvtI16I32 c g d a r) d fun x => BitVec.ofNat 32 (twos 16 (clampInt (-(2 ^ 15)) (2 ^ 15 - 1) x.toInt)))

/-- R165 code 9: exact, or clamped; the mode has no effect and draws nothing. -/
def execCvtI8I32 (c : Bool) (g : BitVec 4) (d : BitVec 6) (a : BitVec 6) (r : BitVec 3) (s : State) : Result :=
  .next (s.word1 (.cvtI8I32 c g d a r) d fun x => BitVec.ofNat 32 (twos 8 (clampInt (-(2 ^ 7)) (2 ^ 7 - 1) x.toInt)))

/-- R165 code 10: exact, or clamped; the mode has no effect and draws nothing. -/
def execCvtN16N32 (c : Bool) (g : BitVec 4) (d : BitVec 6) (a : BitVec 6) (r : BitVec 3) (s : State) : Result :=
  .next (s.word1 (.cvtN16N32 c g d a r) d fun x => BitVec.ofNat 32 (min x.toNat 65535))

/-- R165 code 11: exact, or clamped; the mode has no effect and draws nothing. -/
def execCvtN8N32 (c : Bool) (g : BitVec 4) (d : BitVec 6) (a : BitVec 6) (r : BitVec 3) (s : State) : Result :=
  .next (s.word1 (.cvtN8N32 c g d a r) d fun x => BitVec.ofNat 32 (min x.toNat 255))

/-- R166. -/
def execShfl (c : Bool) (g : BitVec 4) (d : BitVec 6) (a : BitVec 6) (b : BitVec 6) (s : State) : Result :=
  .next (s.exchange (.shfl c g d a b) d fun ps _ vs => fromPartner ps vs (nth vs 1).toNat)

/-- R166. -/
def execShflUp (c : Bool) (g : BitVec 4) (d : BitVec 6) (a : BitVec 6) (b : BitVec 6) (s : State) : Result :=
  .next (s.exchange (.shflUp c g d a b) d fun ps l vs => fromPartner ps vs ((l : Int) - (nth vs 1).toNat))

/-- R166. -/
def execShflDown (c : Bool) (g : BitVec 4) (d : BitVec 6) (a : BitVec 6) (b : BitVec 6) (s : State) : Result :=
  .next (s.exchange (.shflDown c g d a b) d fun ps l vs => fromPartner ps vs ((l : Int) + (nth vs 1).toNat))

/-- R166. -/
def execShflXor (c : Bool) (g : BitVec 4) (d : BitVec 6) (a : BitVec 6) (b : BitVec 6) (s : State) : Result :=
  .next (s.exchange (.shflXor c g d a b) d fun ps l vs => fromPartner ps vs ((l ^^^ (nth vs 1).toNat : Nat) : Int))

/-- R166: bit j of the result is set when thread base + j takes part and its A is not 0. -/
def execBallot (c : Bool) (g : BitVec 4) (d : BitVec 6) (a : BitVec 6) (s : State) : Result :=
  .next (s.exchange (.ballot c g d a) d fun ps l _ => ballotOf ps l)

/-- R167. -/
def execRcp (c : Bool) (g : BitVec 4) (d : BitVec 6) (a : BitVec 6) (s : State) : Result :=
  .next (s.word1 (.rcp c g d a) d fun x => rcp32 x)

/-- R167. -/
def execRsqrt (c : Bool) (g : BitVec 4) (d : BitVec 6) (a : BitVec 6) (s : State) : Result :=
  .next (s.laneWord (.rsqrt c g d a) fun l _ vs => writeOne d.toNat (rsqrt32 (drawOf s.seq l) (nth vs 0)))

/-- R167. -/
def execSqrt (c : Bool) (g : BitVec 4) (d : BitVec 6) (a : BitVec 6) (s : State) : Result :=
  .next (s.word1 (.sqrt c g d a) d fun x => sqrt32 x)

/-- R167. -/
def execExp2 (c : Bool) (g : BitVec 4) (d : BitVec 6) (a : BitVec 6) (s : State) : Result :=
  .next (s.laneWord (.exp2 c g d a) fun l _ vs => writeOne d.toNat (exp2_32 (drawOf s.seq l) (nth vs 0)))

/-- R167. -/
def execLog2 (c : Bool) (g : BitVec 4) (d : BitVec 6) (a : BitVec 6) (s : State) : Result :=
  .next (s.laneWord (.log2 c g d a) fun l _ vs => writeOne d.toNat (log2_32 (drawOf s.seq l) (nth vs 0)))

/-- R167. -/
def execSinpi (c : Bool) (g : BitVec 4) (d : BitVec 6) (a : BitVec 6) (s : State) : Result :=
  .next (s.laneWord (.sinpi c g d a) fun l _ vs => writeOne d.toNat (sinpi32 (drawOf s.seq l) (nth vs 0)))

/-- R167. -/
def execCospi (c : Bool) (g : BitVec 4) (d : BitVec 6) (a : BitVec 6) (s : State) : Result :=
  .next (s.laneWord (.cospi c g d a) fun l _ vs => writeOne d.toNat (cospi32 (drawOf s.seq l) (nth vs 0)))

/-- R167. -/
def execTanh (c : Bool) (g : BitVec 4) (d : BitVec 6) (a : BitVec 6) (s : State) : Result :=
  .next (s.laneWord (.tanh c g d a) fun l _ vs => writeOne d.toNat (tanh32 (drawOf s.seq l) (nth vs 0)))

/-- R168. -/
def execDiv (c : Bool) (g : BitVec 4) (d : BitVec 6) (a : BitVec 6) (b : BitVec 6) (s : State) : Result :=
  .next (s.word2 (.div c g d a b) d fun x y => divS x y)

/-- R168. -/
def execDivu (c : Bool) (g : BitVec 4) (d : BitVec 6) (a : BitVec 6) (b : BitVec 6) (s : State) : Result :=
  .next (s.word2 (.divu c g d a b) d fun x y => divU x y)

/-- R168. -/
def execRem (c : Bool) (g : BitVec 4) (d : BitVec 6) (a : BitVec 6) (b : BitVec 6) (s : State) : Result :=
  .next (s.word2 (.rem c g d a b) d fun x y => remS x y)

/-- R168. -/
def execRemu (c : Bool) (g : BitVec 4) (d : BitVec 6) (a : BitVec 6) (b : BitVec 6) (s : State) : Result :=
  .next (s.word2 (.remu c g d a b) d fun x y => remU x y)

/-- R168: A / B rounded by RNE. -/
def execFdiv (c : Bool) (g : BitVec 4) (d : BitVec 6) (a : BitVec 6) (b : BitVec 6) (s : State) : Result :=
  .next (s.word2 (.fdiv c g d a b) d fun x y => toF32 0 0 ((f32 x).div (f32 y)))

/-- R168: the lane's generator steps once, and D is its output's high half. -/
def execRand (c : Bool) (g : BitVec 4) (d : BitVec 6) (s : State) : Result :=
  .next (s.laneWord (.rand c g d) fun _ t _ =>
    { regs := [(d.toNat, BitVec.ofNat 32 (rngDraw (rngStep t.rng)))], preds := [], rng := some (rngStep t.rng) })

end Sys2Proof.Machine
end

