-- ==== Sys2Proof/Machine/FrontRows.lean ====
section
/-! DEFINITION. Rows of the front end, the dispatchers and the issue unit (R25, R30, R40, R41, R44-R51, R69, R172, R188, R273,
R317). A row that the state does not enable leaves it as it is. -/

namespace Sys2Proof.Machine

/-- A doorbell of a submission queue (R273); held while intake is closed (R284, R370), and lost while the host link is down
(R365). -/
def State.doorbell (s : State) (q tail : Nat) : State :=
  if !s.service.linkUp then s
  else if s.intake then s.mapSub q fun k => { k with tail := tail % 2 ^ 32, seen := none }
  else s.mapSub q fun k => { k with seen := some (tail % 2 ^ 32) }

/-- The page of an eft's address is there, or an eft number is free: a held run may form its eft (R332). -/
def State.heldOver (s : State) (p : Pad) (g : FileGroup) (e : Eft) : Bool :=
  g.freeEft.isSome || (s.accessFault p e.va 1 e.write).isNone

/-- An eft whose retry has been asked for, or a held run that may go on, re-executes its word (R51, R330, R332); one that a
handler has interrupted once its level is the file group's again (R303). -/
def State.resumeEft (s : State) (core fg num : Nat) : State :=
  match s.pad? core, s.fg? core fg with
  | some p, some g =>
    match g.efts.find? fun e => decide (e.num = num) with
    | none => s
    | some e =>
      let now := e.lanes.all fun l => decide ((g.thread l).level = g.level)
      if now && (e.retry || (e.held && s.heldOver p g e)) then
        let s := s.mapFg core fg fun g =>
          { g.mapLanes e.lanes (fun _ t => if t.wait = .eft ∧ t.waitSub = num then { t with wait := .ready } else t) with
            efts := g.efts.filter fun x => decide (x.num ≠ num) }
        let ats := fun (o : Op) => match o.kind with
          | .ats => decide (o.core = core ∧ o.fg = fg ∧ o.lanes = e.lanes)
          | _ => false
        s.mapMem fun m => { m with ops := m.ops.filter fun o => !ats o }
      else s
  | _, _ => s

/-- The issue unit of a file group chooses a run (R47, R48). -/
def State.selectRun (s : State) (core fg : Nat) : State :=
  match s.cur, s.pad? core, s.fg? core fg with
  | none, some p, some g =>
    if !p.issues g then s
    else match s.chooseRun p fg g with
      | none => s
      | some x =>
        let inst := s.nextId
        { ((s.ageOthers p fg g x.2).bump) with cur := some (mkRun core fg x.1 x.2 inst []) }
  | _, _, _ => s

/-- A sleeping thread whose tick has come wakes (R25, R188), once its level is the file group's (R303); one that a save has
found at its safe point sleeps on, and is saved asleep (R52, R373). -/
def State.wake (s : State) (core fg thread : Nat) : State :=
  match s.pad? core, s.thread? core fg thread with
  | none, _ => s
  | some _, none => s
  | some p, some t =>
    if p.stopped = false ∧ t.wait = .sleep ∧ reached (s.coreClk core) t.waitArg.toNat = true ∧ (s.fg? core fg).map (·.level) = some t.level then
      s.mapThread core fg thread fun t => { t with wait := .ready, waitArg := 0 }
    else s

/-- The chosen run's fetch faults (R317). -/
def State.fetchFault (s : State) : State :=
  match s.cur with
  | none => s
  | some r => match s.pad? r.core, s.fg? r.core r.fg with
    | some p, some g => s.fetchTrap r p g
    | _, _ => s

/-- R317. -/
def execFetchFault (s : State) : Result := .next s.fetchFault

/-- R273. -/
def execSqTail (q : Nat) (tail : Nat) (s : State) : Result := .next (s.doorbell q tail)

/-- R39-R41: the front end picks a queue and its command starts, is refused, or restores an image (R54). -/
def execQueuePick (pref : List Nat) (s : State) : Result := .next (s.pickQueue pref)

/-- R30, R99. -/
def execCommandComplete (launch : Nat) (s : State) : Result := .next (s.completeLaunch launch)

/-- R44. -/
def execDispatch (core : Nat) (s : State) : Result := .next (s.dispatchCore core)

/-- R45. -/
def execSteal (die : Nat) (launch : Nat) (s : State) : Result := .next (s.stealWork die launch)

/-- R46, R238. -/
def execSlotRelease (core : Nat) (s : State) : Result := .next (s.releaseSlot core)

/-- R47, R48. -/
def execIssueSelect (core : Nat) (fg : Nat) (s : State) : Result := .next (s.selectRun core fg)

/-- R51, R330, R332. -/
def execEftResume (core : Nat) (fg : Nat) (eft : Nat) (s : State) : Result := .next (s.resumeEft core fg eft)

/-- R172. -/
def execReconvRelease (core : Nat) (fg : Nat) (s : State) : Result := .next (s.mapFg core fg FileGroup.rejoin)

/-- R25, R188. -/
def execSleepWake (core : Nat) (fg : Nat) (thread : Nat) (s : State) : Result := .next (s.wake core fg thread)

/-- R69. -/
def execTokenClear (core : Nat) (fg : Nat) (inst : Nat) (s : State) : Result := .next (s.tokenClear core fg inst)

end Sys2Proof.Machine
end

