-- ==== Sys2Proof/Machine/ServiceOps.lean ====
section
/-! DEFINITION. The service registers: host broadcast queue doorbells, retries of parked work, local-translation
invalidations, socket resets and plain register writes (R118, R271, R273, R274, R279, R330, R364). -/

namespace Sys2Proof.Machine

/-- The state with the service registers changed. -/
def State.mapService (s : State) (f : Service → Service) : State := { s with service := f s.service }

/-! ### Host broadcast queues (R274) -/

/-- Every store that the host has issued over the link is performed (R274 step 3). -/
def State.hostPerformed (s : State) : Bool :=
  s.mem.pend.all fun v => decide (s.service.hostStores < v.wt ∨ v.wt ≤ s.dieClk (homeOf v.line))

/-- A ring record passes step 1 of R274 for an owner. -/
def State.hostRecordOk (s : State) (owner : Nat) (h : BitVec 64) : Bool :=
  match hdrType h with
  | 1 => decide (hdrSize h ≤ 1)
  | 2 => decide (hdrSize h ≤ 1)
  | 4 => decide (hdrSize h = 0) && (s.desc (hdrCtx h)).isSome && decide (s.ownerOf (hdrCtx h) = owner)
  | 5 => decide (hdrSize h = 0)
  | _ => false

/-- The header that the fabric die makes of an accepted record (R274 step 2). -/
def hostHeader (owner position : Nat) (h : BitVec 64) : BitVec 64 :=
  let launch := decide (hdrType h = 4)
  headerWord (hdrType h) owner position true (hdrSize h) (if launch then hdrCtx h else 0) (if launch then hdrAux h else 0)

/-- A refused ring record: its status word, and a 0x0A01 record whose INFO is 64 × queue + slot (R274). -/
def State.refuseHost (s : State) (q slot : Nat) : State :=
  (s.hbqStatus q slot 0 (2 ^ 63 + 2 ^ 62)).report (plainRec 0x0A01 8 0xFFFF 0 0 (64 * q + slot) 0) false true

/-- New ring records are read in order, while the broadcast queue has room (R89, R274). -/
def State.readHbq : Nat → State → Nat → State
  | 0, s, _ => s
  | fuel + 1, s, q =>
    let k := atD Hbq.zero s.service.hbqs q
    if k.next = k.tail ∨ !s.queueRoom 1 ∨ !s.service.linkUp ∨ !s.intake ∨ !s.hostPerformed then s
    else
      let slot := k.next % 64
      let word := fun i => BitVec.ofNat 64 (leValue (s.mem.latestBytes (hostKey (k.base + 32 * slot) + 8 * i) 8))
      let taken : Option Nat := match k.owner with
        | some owner => if s.hostRecordOk owner (word 0) then some owner else none
        | none => none
      if taken.isNone && !s.hbqReady q slot then s.ownWait (s.hbqSlot q slot) 16
      else
      let s := s.mapHbq q fun k => { k with next := (k.next + 1) % 2 ^ 32 }
      let s := match taken with
        | none => s.refuseHost q slot
        | some owner =>
            let h := word 0
            s.enqueueRecord (hostHeader owner s.tap.position h) (payload0 (hdrType h) (word 1))
              (payload1 (hdrType h) (hdrSize h) (word 2)) 2 (64 * q + slot)
      State.readHbq fuel s q

/-- Records of host broadcast queues whose status had to wait are finished as far as they may be (R274, R375). -/
def State.endHbqs (s : State) : State :=
  s.tap.fetches.foldl (fun (s : State) (x : Nat × Nat) => s.hbqDone x.1) s

/-- Records that a doorbell announced and that had to wait are read as far as they may be (R89, R274, R284). -/
def State.pollHbqs (s : State) : State :=
  (upFrom 0 8).foldl (fun (s : State) (q : Nat) => State.readHbq 64 s q) s.endHbqs

/-- A doorbell of a host broadcast queue (R274): lost while the link is down (R365), not taken while the owner's TDI is out
of RUN (R366). -/
def State.hbqDoorbell (s : State) (q tail : Nat) : State :=
  let k := atD Hbq.zero s.service.hbqs q
  let cut : Bool := match k.owner with
    | some o => s.ownerCut o
    | none => false
  if !s.service.linkUp || cut then s
  else State.readHbq 64 (s.mapHbq q fun k => { k with tail := tail % 2 ^ 32 }) q

/-! ### Parked work (R330) -/

/-- FRESUME: parked work of a context whose faulting page covers the address tries again; 0 is every address (R330). -/
def State.resumeParked (s : State) (ctx addr : Nat) : State :=
  let mine := fun (c : Nat) => decide (c = ctx)
  let a := addr % 2 ^ 57
  if a = 0 then s.retryParked mine 0 vaTop
  else
    let size := match s.walk ctx a with
      | some p => p.size
      | none => 2 ^ 16
    s.retryParked mine (a / size * size) (a / size * size + size)

/-- VPGROW (R330). -/
def State.growPool (s : State) (ctx size : Nat) : State :=
  (s.mapCtx ctx fun c => { c with vpSize := max c.vpSize (size / 4096 * 4096) }).resumeParked ctx 0

/-! ### LTINVAL (R271) -/

/-- The range that an LTINVAL word names. -/
def invalRange (w : Nat) : Nat × Nat :=
  if w.testBit 2 then (0, vaTop)
  else
    let n := pageBytes (w % 4)
    (w % 2 ^ 57 / n * n, w % 2 ^ 57 / n * n + n)

/-- Steps 1 and 2 of an invalidation. -/
def State.startInval (s : State) (ctx w : Nat) : State :=
  let r := invalRange w
  let mine := fun (c : Nat) => decide (c = ctx)
  let x := (s.dropTrans mine r.1 r.2).sendInvals mine r.1 r.2
  x.1.mapService fun v => { v with ltInval := some (ctx, w, x.2) }

/-- A write to LTINVAL: held while one is running. -/
def State.writeInval (s : State) (ctx w : Nat) : State :=
  if s.service.ltInval.isSome then s.mapService fun v => { v with ltQueue := v.ltQueue ++ [(ctx, w)] }
  else s.startInval ctx w

/-- Step 3 is over: COUNT rises, parked work of the range tries again, and a held write starts. -/
def State.endInval (s : State) : State :=
  match s.service.ltInval with
  | none => s
  | some (ctx, w, invals) =>
    let r := invalRange w
    let mine := fun (c : Nat) => decide (c = ctx)
    if s.invalsGone invals && s.transGone mine r.1 r.2 then
      let s := (s.mapService fun v => { v with ltInval := none, ltCount := (v.ltCount + 1) % 2 ^ 32 }).retryParked mine r.1 r.2
      match s.service.ltQueue with
      | [] => s
      | (c, x) :: rest => (s.mapService fun v => { v with ltQueue := rest }).startInval c x
    else s

/-! ### Other registers -/

/-- LOTSEED (R118, R273). -/
def State.seedLottery (s : State) (v : BitVec 64) : State := { s with lottery := if v = 0 then 1 else v }

/-- SOCKRESET of one socket (R364). -/
def State.resetSocket (s : State) (sock : Nat) : State :=
  { s with sockets := modifyAt s.sockets sock fun k => if k.isolated || k.drained then Socket.zero else k }

/-- SOCKRESET (R364). -/
def State.resetSockets (s : State) (v : Nat) : State :=
  let s := if v.testBit 0 then s.resetSocket 0 else s
  if v.testBit 1 then s.resetSocket 1 else s

/-- A register's value after a write of its first bytes. -/
def mergeReg (old size v : Nat) : Nat := old / 2 ^ (8 * size) * 2 ^ (8 * size) + v % 2 ^ (8 * size)

/-- A write to a register of the physical function (R273): reserved bits act as 0 (R5). -/
def State.writePf (s : State) (offset size v : Nat) : State :=
  let k := s.service
  if offset = 0x0008 then s.mapService fun x => { x with sysEntry := mergeReg k.sysEntry size v % 2 ^ 57 }
  else if offset = 0x0010 then s.mapService fun x => { x with ctxTab := mergeReg k.ctxTab size v % 2 ^ 54 / 2 ^ 21 * 2 ^ 21 }
  else if offset = 0x0018 then s.mapService fun x => { x with modCap := mergeReg k.modCap size v % 2 ^ 16 }
  else if offset = 0x0050 then
    s.mapService fun x =>
      { x with sfqBase := mergeReg k.sfqBase size v % 2 ^ 54 / 2 ^ 12 * 2 ^ 12 + mergeReg k.sfqBase size v % 16 }
  else if 0x0100 ≤ offset ∧ offset < 0x0900 then
    let q := (offset - 0x0100) / 32
    if offset % 32 = 0 then
      s.mapSub q fun x => { x with ring := BitVec.ofNat 64 (mergeReg x.ring.toNat size v / 2 ^ 12 * 2 ^ 12) }
    else if offset % 32 = 8 then s.mapSub q fun x => { x with nent := mergeReg x.nent size v % 2 ^ 16 }
    else s
  else if 0x1000 ≤ offset ∧ offset < 0x1100 ∧ offset % 32 = 0 then
    s.mapHbq ((offset - 0x1000) / 32) fun x => { x with base := mergeReg x.base size v % 2 ^ 64 / 2 ^ 12 * 2 ^ 12 }
  else s

/-- The bits of WPEERS that are no reserved ones. -/
def peerMask : Nat := 0x8FFF8FFF8FFF8FFF

/-- A write to a TDI's window registers or to a host broadcast queue bound to its owner (R279); refused outside RUN
(R366). -/
def State.writeTdi (s : State) (n offset size v : Nat) : State :=
  match s.service.tdis[n]? with
  | none => s
  | some t =>
    if t.tdiState ≠ 2 then s
    else if offset = 0x000 then s.mapTdi n fun t => { t with wsel := mergeReg t.wsel size v % 256 }
    else if offset = 0x008 then s.mapTdi n fun t => { t with wbase := mergeReg t.wbase size v % 2 ^ 54 / 2 ^ 16 * 2 ^ 16 }
    else if offset = 0x010 then s.mapTdi n fun t => { t with wlen := mergeReg t.wlen size v % 2 ^ 32 }
    else if offset = 0x014 then s.mapTdi n fun t => { t with wrights := mergeReg t.wrights size v % 8 }
    else if offset = 0x018 then s.mapTdi n fun t => { t with wpeers := mergeReg t.wpeers size v &&& peerMask }
    else if offset = 0x020 then
      if v % 2 ^ 32 = 1 then s.openWindow n
      else if v % 2 ^ 32 = 2 then s.revokeWindow n
      else if t.busy.isSome then s
      else s.mapTdi n fun t => { t with result := 4 }
    else if 0x1000 ≤ offset ∧ offset < 0x1100 ∧ offset % 32 = 0 ∧
        (atD Hbq.zero s.service.hbqs ((offset - 0x1000) / 32)).owner = some t.owner then
      s.mapHbq ((offset - 0x1000) / 32) fun x => { x with base := mergeReg x.base size v % 2 ^ 64 / 2 ^ 12 * 2 ^ 12 }
    else s

/-! ### Reading registers (R271, R273, R274, R279, R284) -/

/-- FWVER. -/
def State.fwver (s : State) : Nat := s.firmware.active % 2 ^ 32 * 2 ^ 32 + s.firmware.tableVersion % 2 ^ 32

/-- The die with the lowest clock, of several the lowest-numbered (DESIGN CHOICE, log entry 73). -/
def State.slowestDie (s : State) : Nat :=
  let clock := fun (d : Nat) => (atD DieState.zero s.dies d).clock
  (upFrom 1 23).foldl (fun (a d : Nat) => if clock d < clock a then d else a) 0

/-- GOVSTAT. -/
def State.govstat (s : State) : Nat := s.slowestDie + (atD DieState.zero s.dies s.slowestDie).clock % 256 * 256

/-- LTSTAT. -/
def State.ltstat (s : State) : Nat := (if s.service.ltInval.isSome then 1 else 0) + s.service.ltCount % 2 ^ 32 * 2 ^ 32

/-- A register of a host broadcast queue, read at its offset; TAIL is only written. -/
def Hbq.read (k : Hbq) (offset : Nat) : Nat :=
  match offset with
  | 0x00 => k.base
  | 0x0C => k.head
  | 0x10 => match k.owner with
    | some o => 2 ^ 15 + o % 4096
    | none => 0
  | _ => 0

/-- A register of a submission queue, read at its offset; TAIL is only written. -/
def SubQueue.read (k : SubQueue) (offset : Nat) : Nat :=
  match offset with
  | 0x00 => k.ring.toNat
  | 0x08 => k.nent
  | 0x14 => k.head
  | _ => 0

/-- A register of the physical function, read at its offset (R273); the DETAIL records in words of 8 bytes (R284). -/
def State.readPf (s : State) (offset : Nat) : Nat :=
  if 0x0100 ≤ offset ∧ offset < 0x0900 then (atD SubQueue.zero s.queues ((offset - 0x0100) / 32)).read (offset % 32)
  else if 0x1000 ≤ offset ∧ offset < 0x1100 then (atD Hbq.zero s.service.hbqs ((offset - 0x1000) / 32)).read (offset % 32)
  else if 0x2000 ≤ offset ∧ offset < 0x4000 then tabGet 0 s.service.detail ((offset - 0x2000) / 8)
  else match offset with
    | 0x0000 => s.lottery.toNat
    | 0x0008 => s.service.sysEntry
    | 0x0010 => s.service.ctxTab
    | 0x0018 => s.service.modCap
    | 0x0020 => s.service.ready % 2 ^ 64
    | 0x0028 => s.service.ready / 2 ^ 64
    | 0x0030 => s.fwver
    | 0x0040 => s.govstat
    | 0x0050 => s.service.sfqBase
    | 0x00A0 => s.ltstat
    | _ => 0

/-- WSTAT (R279): the state of window WSEL where this owner holds it, BUSY and RESULT. -/
def State.wstat (s : State) (t : Tdi) : Nat :=
  let w := s.exportWindow t.wsel
  (if w.state ≠ 0 ∧ w.owner = t.owner then w.state else 0) + (if t.busy.isSome then 4 else 0) + t.result % 256 * 256

/-- A register of a TDI, read at its offset (R279): a host broadcast queue that is not bound to its owner reads 0. -/
def State.readTdi (s : State) (n offset : Nat) : Nat :=
  match s.service.tdis[n]? with
  | none => 0
  | some t =>
    if 0x1000 ≤ offset ∧ offset < 0x1100 then
      let k := atD Hbq.zero s.service.hbqs ((offset - 0x1000) / 32)
      if k.owner = some t.owner then k.read (offset % 32) else 0
    else match offset with
      | 0x000 => t.wsel
      | 0x008 => t.wbase
      | 0x010 => t.wlen
      | 0x014 => t.wrights
      | 0x018 => t.wpeers
      | 0x024 => s.wstat t
      | _ => 0

/-- A register read: TDI 63 names the physical function. -/
def State.readRegister (s : State) (tdi offset : Nat) : Nat := if tdi = 63 then s.readPf offset else s.readTdi tdi offset

/-- A register write: TDI 63 names the physical function. -/
def State.writeRegister (s : State) (tdi offset size v : Nat) : State :=
  if tdi = 63 then s.writePf offset size v else s.writeTdi tdi offset size v

end Sys2Proof.Machine
end

