-- ==== Sys2Proof/Machine/GuestOps.lean ====
section
/-! DEFINITION. The guest sockets: binding, packets, the coherent port, translations, duties and isolation (R253-R265,
R361-R364). -/

namespace Sys2Proof.Machine

/-- A guest socket. -/
def State.socket (s : State) (sock : Nat) : Socket := atD Socket.zero s.sockets sock

/-- The state with a socket changed. -/
def State.mapSocket (s : State) (sock : Nat) (f : Socket → Socket) : State :=
  { s with sockets := modifyAt s.sockets sock f }

/-- Traffic of the guest die is accepted (R284, R362); a link that retrains holds its channels (R363), and from an attach
die that is cut off nothing comes across (R20, R368; DEDUCED, log entry 96). -/
def State.guestLive (s : State) (sock : Nat) : Bool :=
  s.readyBit (80 + sock) && !(s.socket sock).isolated && !(s.socket sock).down && (s.socket sock).retraining.isNone &&
    !(atD DieState.zero s.dies (attachDie sock)).cut

/-! ### Binding (R252, R261, R265) -/

/-- The threads that wait at `gbind` or `gunbind` of a queue go on. -/
def State.releaseBinders (s : State) (sock : Nat) (q : Nat → Bool) : State :=
  s.mapThreads fun t => match t.wait with
    | .binding k n => if k = sock ∧ q n = true then { t with wait := .ready } else t
    | _ => t

/-- BINDACK: the queue is bound, and `gbind` completes. -/
def State.bindAck (s : State) (sock q : Nat) : State :=
  match (s.guestQueue sock q).binding with
  | none => s
  | some (ctx, _, _) =>
    if s.guestLive sock then
      (s.mapQueue sock q fun k => { k with bound := some (ctx, s.ownerOf ctx), binding := none }).releaseBinders sock fun n =>
        decide (n = q)
    else s

/-- The packets of a queue are dropped, each with a 0x0C06 record (R265, R362). -/
def State.losePackets (s : State) (sock q : Nat) (items : List GItem) : State :=
  match (s.guestQueue sock q).bound with
  | none => s
  | some (ctx, _) => items.foldl (fun (s : State) (i : GItem) => match i with
    | .packet _ data _ => s.packetLost sock q ctx data.toNat
    | .join _ _ _ _ => s) s

/-- Another queue of the socket is bound to the context. -/
def State.otherBound (s : State) (sock q ctx : Nat) : Bool :=
  (s.socket sock).queues.any fun x => decide (x.1 ≠ q) && decide (x.2.bound.map (·.1) = some ctx)

/-- QSTATE with U = 1: the FIFO is emptied and the queue unbound. For the context's last queue `gunbind` still waits for
the INVACK of an INVAL of everything (R262, R265). -/
def State.unbound (s : State) (sock q : Nat) : State :=
  let k := s.guestQueue sock q
  match k.bound with
  | none => s
  | some (ctx, _) =>
    let s := s.losePackets sock q k.fifo
    let joins := k.fifo.filter fun i => match i with
      | .join _ _ _ _ => true
      | .packet _ _ _ => false
    let free : GQueue := { GQueue.zero with fifo := joins }
    if s.otherBound sock q ctx then
      (s.mapQueue sock q fun _ => free).releaseBinders sock fun n => decide (n = q)
    else
      let id := s.nextId
      let s := s.mapQueue sock q fun _ => { free with unbinding := some (id, s.clk) }
      (s.bump).mapSocket sock fun k => { k with invals := k.invals ++ [(id, ctx, 0, vaTop, s.clk)] }

/-- QSTATE (R264, R265): of the pulled packets the last `returned` go back to the head of the FIFO, a stalled one stays, the
others are done. A boundary for UNBIND stands behind every packet accepted before it (R252). -/
def State.queueState (s : State) (sock q : Nat) (isUnbound stalled : Bool) (returned : Nat) : State :=
  let k := s.guestQueue sock q
  let asked : Bool := if isUnbound then (match k.unbinding with
      | some (id, _) => decide (id = 0 ∧ (k.owed = 0 ∨ k.stopped = true))
      | none => false) else k.awaiting.isSome
  if !s.guestLive sock || k.bound.isNone || !asked then s
  else
    let rest := k.pulled.take (k.pulled.length - returned)
    let back := k.pulled.drop (k.pulled.length - returned)
    let keep := if stalled && !isUnbound then rest.drop (rest.length - 1) else []
    let s := s.mapQueue sock q fun k =>
      { k with fifo := back ++ k.fifo, pulled := keep, awaiting := none, stalled := stalled && !isUnbound }
    if isUnbound then s.unbound sock q else s

/-! ### Isolation (R361, R362) -/

/-- Step 2 of an isolation for a line that the guest held E: its sectors are poisoned, with a record. -/
def State.poisonLine (s : State) (line : Nat) : State :=
  let secs := (upFrom (4 * line) 4).filter fun x => decide (x ∉ s.mem.poison)
  let s := s.mapMem fun m => { m with poison := secs ++ m.poison }
  s.report (plainRec 0x0C0D 3 0xFFFF 0 (line * 256) 0 (homeOf line)) false true

/-- A breach isolates a socket (R362). -/
def State.isolate (s : State) (sock cause : Nat) : State :=
  let k := s.socket sock
  if k.isolated then s
  else
    let ctxs := k.boundCtxs
    let owned := (s.mem.gdir.filter fun d => decide (d.1 = sock) && d.2.2).map (·.2.1)
    let s := s.mapMem fun m =>
      { m with gdir := m.gdir.filter fun d => decide (d.1 ≠ sock)
               recalls := m.recalls.filter fun r => decide (r.1 ≠ sock) }
    let s := owned.foldl (fun (s : State) (l : Nat) => s.poisonLine l) s
    let s := k.queues.foldl (fun (s : State) (q : Nat × GQueue) =>
      s.losePackets sock q.1 (q.2.pulled ++ q.2.fifo)) s
    let s := (s.mapSocket sock fun k =>
      { k with isolated := true, queues := [], invals := [], trans := [] }).setReady (80 + sock) false
    let s := s.releaseBinders sock fun _ => true
    let r := fun (ctx owner : Nat) => { (plainRec 0x0C0D 5 ctx owner 0 0 cause) with sub := sock }
    let s := s.report (r 0xFFFF 0) false true
    ctxs.foldl (fun (s : State) (c : Nat) => s.report (r c (s.ownerOf c)) true false) s

/-- The guest die pulls packets: the oldest `done` of those it had are finished, and it takes the next. More than 4 pulled
or started are a breach; a join entry or a stop holds the queue (R229, R256, R264, R361). -/
def State.pullPacket (s : State) (sock q done : Nat) (pull : Bool) : State :=
  let k := s.guestQueue sock q
  if !s.guestLive sock || k.bound.isNone || k.stopped then s
  else
    let s := s.mapQueue sock q fun k => { k with pulled := k.pulled.drop done }
    if !pull then s
    else match k.fifo with
      | .packet id data op :: rest =>
        if 4 ≤ packetCount (k.pulled.drop done) then s.isolate sock 0x0C0B
        else s.mapQueue sock q fun k => { k with pulled := k.pulled ++ [.packet id data op], fifo := rest, owed := k.owed - 1 }
      | _ => s

/-- A message of the guest die is overdue (R361); 0x0C0B is a breach of the protocol itself. -/
def State.overdue (s : State) (sock cause : Nat) : Bool :=
  let k := s.socket sock
  let late := fun (since bound : Nat) => decide (since + bound ≤ s.clk)
  match cause with
  | 0x0C07 => k.invals.any fun i => late i.2.2.2.2 10500
  | 0x0C08 => k.queues.any fun q =>
    (match q.2.awaiting with
     | some t => late t 100500
     | none => false) ||
    (match q.2.unbinding with
     | some (id, t) => decide (id = 0) && late t 100500
     | none => false)
  | 0x0C09 => s.mem.recalls.any fun r => decide (r.1 = sock) && late r.2.2 2500
  | 0x0C0A => k.queues.any fun q => match q.2.binding with
    | some (_, _, t) => late t 10500
    | none => false
  | 0x0C0B => true
  | _ => false

/-- A duty's bound expires (R361). -/
def State.dutyTimeout (s : State) (sock cause : Nat) : State :=
  if s.guestLive sock && s.overdue sock cause then (s.isolate sock cause).afterUpdate else s

/-! ### Translation (R259, R262) -/

/-- A place as the guest die names it: the key of module or host memory, or another module's address. -/
def guestPlace : Loc → Option Nat
  | .mem k => some k
  | .remote m pa => some (2 ^ 60 + m * 2 ^ 54 + pa)
  | _ => none

/-- The place that a guest address names. -/
def guestLoc (pa : Nat) : Loc :=
  if 2 ^ 60 ≤ pa then .remote ((pa - 2 ^ 60) / 2 ^ 54) (pa % 2 ^ 54) else .mem pa

/-- A CO request is in order: its context is bound on the socket and the address translated for it (R259, R361), for writing
where it would write: a sealed page is given read-only (R262; DEDUCED, log entry 72). -/
def State.coAllowed (s : State) (sock ctx pa : Nat) (write : Bool) : Bool :=
  (s.socket sock).serves (fun c => decide (c = ctx)) &&
    (s.socket sock).trans.any fun t =>
      decide (t.ctx = ctx ∧ t.place ≤ pa ∧ pa < t.place + t.size) && (!write || t.write)

/-- A CO request: refused while the guest die is cut off, a breach where it is not in order. -/
def State.coRequest (s : State) (sock ctx pa : Nat) (write : Bool) (f : State → State) : State :=
  if !s.guestLive sock then s
  else if s.coAllowed sock ctx pa write then f s
  else (s.isolate sock 0x0C0B).afterUpdate

/-- The translation of a page as it is answered (R262): a sealed page read-only. -/
def State.guestPage (s : State) (ctx va : Nat) (p : Page) : Option GTrans :=
  let page := va / p.size * p.size
  (guestPlace (s.pageLoc p page)).map fun k =>
    { ctx := ctx, page := page, place := k, size := p.size, write := entW p.entry && !entSeal p.entry,
      isSealed := entSeal p.entry }

/-- A translation request (R262): OK with the page, NOTPRESENT, or DENIED for a write to a page that takes none. -/
def State.guestTranslate (s : State) (sock ctx va : Nat) (write : Bool) : State :=
  if !s.guestLive sock then s
  else if !(s.socket sock).serves (fun c => decide (c = ctx)) then (s.isolate sock 0x0C0B).afterUpdate
  else match s.walk ctx va with
    | none => s.reply sock (.notPresent ctx va)
    | some p =>
      if write && !entW p.entry then s.reply sock (.denied ctx va)
      else match s.guestPage ctx va p with
        | none => s.reply sock (.notPresent ctx va)
        | some g =>
          if isHost g.place && !s.service.linkUp then s
          else (s.mapSocket sock fun x =>
            { x with trans := g :: x.trans.filter fun t => decide (t.ctx ≠ g.ctx ∨ t.page ≠ g.page ∨ t.size ≠ g.size) }).reply
              sock (.trans g)

/-! ### Host invalidations that wait (R268) -/

/-- No access that was translated to a host page before its invalidation is in flight. -/
def State.hostGone (s : State) (page size : Nat) : Bool :=
  s.mem.ops.all fun o => match o.loc with
    | .mem k => !(o.fresh && decide (hostKey page ≤ k ∧ k < hostKey page + size))
    | _ => true

/-- Invalidations that are over are completed, and a host sync that waited for them is performed (R268). -/
def State.settleAts (s : State) : State :=
  let s := s.mapService fun v => { v with atsPending := v.atsPending.filter fun a =>
    !(s.invalsGone a.2.2.2 && s.hostGone a.1 a.2.1) }
  if s.service.atsPending.isEmpty then
    s.mapService fun v => { v with hostSyncs := v.hostSyncs + v.syncsHeld, syncsHeld := 0 }
  else s

/-- INVACK (R262): the translations are gone, and what waited for it goes on; a `gunbind` completes. -/
def State.invAck (s : State) (sock id : Nat) : State :=
  match (s.socket sock).invals.find? fun i => decide (i.1 = id) with
  | none => s
  | some i =>
    if !s.guestLive sock then s
    else
      let lo := i.2.2.1
      let hi := i.2.2.1 + i.2.2.2.1
      let s := s.mapSocket sock fun k =>
        { k with invals := k.invals.filter fun x => decide (x.1 ≠ id)
                 trans := k.trans.filter fun t => !(decide (t.ctx = i.2.1) && meets t.page (t.page + t.size) lo hi) }
      let held := ((s.socket sock).queues.filter fun q => decide (q.2.unbinding.map (·.1) = some id)).map (·.1)
      let s := held.foldl (fun (s : State) (q : Nat) => s.mapQueue sock q fun k => { k with unbinding := none }) s
      (s.releaseBinders sock fun n => decide (n ∈ held)).settleAts

/-! ### The coherent port (R260) -/

/-- A directory entry written. -/
def Mem.gdirPut (m : Mem) (sock line : Nat) (ex : Bool) : Mem :=
  { m with gdir := (m.gdir.filter fun d => decide (d.1 ≠ sock ∨ d.2.1 ≠ line)) ++ [(sock, line, ex)] }

/-- The directory of a line's home agent has no entry for it and none free (R260). -/
def Mem.gdirFull (m : Mem) (line : Nat) : Bool :=
  m.gdir.all (fun d => decide (d.2.1 ≠ line)) &&
    decide (131072 ≤ ((m.gdir.filter fun d => decide (homeOf d.2.1 = homeOf line)).map (·.2.1)).eraseDups.length)

/-- The line that a home agent's directory has held longest. -/
def Mem.gdirOldest (m : Mem) (line : Nat) : Option Nat :=
  (m.gdir.find? fun d => decide (homeOf d.2.1 = homeOf line)).map (·.2.1)

/-- The other socket's copy of a line is recalled (R260). -/
def State.recallOther (s : State) (sock line : Nat) : State :=
  let now := s.dieClk (homeOf line)
  s.mapMem fun m =>
    { m with recalls := m.recalls ++ ((m.gdir.filter fun d => decide (d.1 ≠ sock ∧ d.2.1 = line) &&
        m.recalls.all fun r => decide (r.1 ≠ d.1 ∨ r.2.1 ≠ line)).map fun d => (d.1, line, now)) }

/-- A line is not given: its stack is gone, or a sector that a read would return is poisoned (R347, R368; DEDUCED, log entry
76). -/
def State.lineFails (s : State) (line : Nat) (ex : Bool) : Bool :=
  s.stackGone (256 * line) || (!ex && (upFrom (4 * line) 4).any fun x => decide (x ∈ s.mem.poison))

/-- A line is given to a guest die, shared or exclusive: once no version of it is pending and no other guest die stands
against it (R260). -/
def State.giveLine (s : State) (sock line : Nat) (ex : Bool) : State :=
  if s.lineFails line ex then s.reply sock (.failed (256 * line) 0x0911) else
  let s := s.mapMem fun m => m.commitDue line (s.dieClk (homeOf line))
  let against := s.mem.gdir.any fun d => decide (d.1 ≠ sock ∧ d.2.1 = line) && (ex || d.2.2)
  if (s.mem.pending line).isSome then s
  else if s.mem.recalls.any fun r => decide (r.2.1 = line ∧ r.1 = sock) then s
  else if against then s.recallOther sock line
  else if s.mem.gdirFull line then
    match s.mem.gdirOldest line with
    | some l => s.recallGuests l
    | none => s
  else (s.mapMem fun m => m.gdirPut sock line ex).reply sock
    (.bytes (line * 256) ex ((s.mem.latestBytes (line * 256) 256).map (·.toNat)))

/-- The page of an address translated for a context has been sealed since (R74, R260). -/
def State.sealedSince (s : State) (sock ctx pa : Nat) : Bool :=
  (s.socket sock).trans.any fun t => decide (t.ctx = ctx ∧ t.place ≤ pa ∧ pa < t.place + t.size) &&
    (match s.walk ctx t.page with
     | some p => entSeal p.entry
     | none => false)

/-- A single access of a guest die to another module: a request, or a failure where its owner is not in the owner sets (R259,
R278, R360). -/
def State.guestSends (s : State) (sock ctx m kind addr : Nat) (data : List Nat) : State :=
  if s.maySend (s.ownerOf ctx) then s.sendPacket m (s.ownerOf ctx) kind (guestRef sock) addr data
  else (s.refuseSend m (s.ownerOf ctx)).reply sock (.failed (2 ^ 60 + m * 2 ^ 54 + addr) 0x0710)

/-- A guest read (R259, R260): a line of module memory is given shared; other memory is read as a single access. -/
def State.guestReads (s : State) (sock ctx pa : Nat) : State :=
  s.coRequest sock ctx pa false fun s => match guestLoc pa with
    | .mem k =>
      if isHost k then
        match s.hostFault (s.ownerOf ctx) k with
        | some c => s.reply sock (.failed k c)
        | none => s.reply sock (.bytes (k / 64 * 64) false ((s.mem.latestBytes (k / 64 * 64) 64).map (·.toNat)))
      else s.giveLine sock (lineOf k) false
    | .remote m a => s.guestSends sock ctx m 0 (a / 64 * 64) [64]
    | _ => s

/-- A guest ownership request (R260). A line whose page has been sealed since is not given: the INVAL of the seal is on its
way. -/
def State.guestOwns (s : State) (sock ctx pa : Nat) : State :=
  s.coRequest sock ctx pa true fun s => match guestLoc pa with
    | .mem k => if isHost k || s.sealedSince sock ctx pa then s else s.giveLine sock (lineOf k) true
    | _ => s

/-- Cells of the dirty sectors of a line, without bytes that a later store has written. -/
def State.dirtyCells (s : State) (line sectors : Nat) (data : List Nat) : List Host.Cell :=
  let secs := setBits (sectors % 16) 4
  let cells := (mapFrom (fun i n => (i, n)) 0 secs).flatMap fun x =>
    cellsFrom (line * 256 + 64 * x.2) ((upFrom 0 64).map fun j => BitVec.ofNat 8 (atD 0 data (64 * x.1 + j)))
  cells.filter fun c => decide ((line, c.1) ∉ s.mem.staleLines)

/-- Dirty sectors are a store under R63 with floor 0; none while it waits for a lease. -/
def State.storeDirty (s : State) (line : Nat) (cells : List Host.Cell) : Option State :=
  if cells.isEmpty then some s
  else
    let now := s.dieClk (homeOf line)
    let s := s.mapMem fun m => m.commitDue line now
    match s.mem.arrive line now 0 with
    | .hold _ => none
    | .behind _ => none
    | .at_ wt =>
      let full := (upFrom (4 * line) 4).filter fun x =>
        decide ((cells.filter fun c => decide (sectorOf c.1 = x)).length = 64)
      some (s.mapMem fun m => { ((m.putPending line wt cells).commitDue line now) with
        poison := m.poison.filter fun x => decide (x ∉ full) })

/-- A guest write that cannot be performed: the host's answer fails, or the stack is gone (R360, R368). -/
def State.writeFault (s : State) (ctx key : Nat) : Option Nat :=
  if s.stackGone key then some 0x0911 else s.hostFault (s.ownerOf ctx) key

/-- A guest write-back (R260): the sectors are stored, and the directory has the line I or S. Host and remote memory is
written uncached (R259). -/
def State.guestWrites (s : State) (sock ctx pa sectors : Nat) (data : List Nat) (keep : Bool) : State :=
  s.coRequest sock ctx pa true fun s => match guestLoc pa with
    | .mem k =>
      let line := lineOf k
      let held := s.mem.gdir.any fun d => decide (d.1 = sock ∧ d.2.1 = line) && d.2.2
      if !isHost k && !held then s
      else match s.writeFault ctx k with
      | some c => s.reply sock (.failed k c)
      | none => match s.storeDirty line (s.dirtyCells line sectors data) with
        | none => s
        | some s =>
          let s := if isHost k then s
            else if keep then s.mapMem fun m => m.gdirPut sock line false
            else s.mapMem fun m => { m with gdir := m.gdir.filter fun d => decide (d.1 ≠ sock ∨ d.2.1 ≠ line) }
          s.afterUpdate
    | .remote m a => s.guestSends sock ctx m 1 (a / 64 * 64) (data.take 64)
    | _ => s

/-- The answer to a recall (R260): dirty sectors are stored, and the directory has the line I or S as the message states. -/
def State.recallDone (s : State) (sock line sectors : Nat) (data : List Nat) (keep : Bool) : State :=
  if !s.guestLive sock || s.mem.recalls.all fun r => decide (r.1 ≠ sock ∨ r.2.1 ≠ line) then s
  else match s.storeDirty line (s.dirtyCells line sectors data) with
    | none => s
    | some s =>
      (s.mapMem fun m =>
        let recalls := m.recalls.filter fun r => decide (r.1 ≠ sock ∨ r.2.1 ≠ line)
        { (if keep then m.gdirPut sock line false
           else { m with gdir := m.gdir.filter fun d => decide (d.1 ≠ sock ∨ d.2.1 ≠ line) }) with
          recalls := recalls
          staleLines := if recalls.any fun r => decide (r.2.1 = line) then m.staleLines
            else m.staleLines.filter fun x => decide (x.1 ≠ line) }).afterUpdate

/-- A guest atomic on module or host memory (R182, R260). -/
def State.guestAtomicAt (s : State) (sock key aop : Nat) (wide : Bool) (x y : Nat) : State :=
  let n := if wide then 8 else 4
  let line := lineOf key
  let now := s.dieClk (homeOf line)
  if s.poisonedAt key then s.reply sock (.failed key 0x0911)
  else if s.mem.gdir.any fun d => decide (d.1 ≠ sock ∧ d.2.1 = line) then s.recallOther sock line
  else
    let s := s.mapMem fun m => m.commitDue line now
    match s.mem.arrive line now 0 with
    | .hold _ => s
    | .behind _ => s
    | .at_ wt =>
      let r := atomAll aop (8 * n) (leValue (s.mem.latestBytes key n)) [x] [y]
      ((s.mapMem fun m => m.store now wt key (leBytes n r.2)).reply sock (.old key (r.1.headD 0))).afterUpdate

/-- A guest atomic (R258, R260); number 14 adds to the event counter that the address names. -/
def State.guestAtomics (s : State) (sock ctx pa aop : Nat) (wide : Bool) (x y : Nat) : State :=
  if aop = 14 then
    if !s.guestLive sock then s
    else if (s.socket sock).serves (fun c => decide (c = ctx)) then
      if s.counterReady ctx pa then (s.counterAdd ctx pa x).afterUpdate else s.recallCounter ctx pa
    else (s.isolate sock 0x0C0B).afterUpdate
  else s.coRequest sock ctx pa true fun s => match guestLoc pa with
    | .mem k => match s.hostFault (s.ownerOf ctx) k with
      | some c => s.reply sock (.failed k c)
      | none => s.guestAtomicAt sock k aop wide x y
    | .remote m a => s.guestSends sock ctx m 2 a [aop, if wide then 1 else 0, 1, x, y]
    | _ => s

/-! ### Faults and the link (R254, R263, R363) -/

/-- A FAULT message (R263): the record goes to the context's queue with the attach die's time; a stalled packet stays, a
rejected one is done. A record that names another context or owner is a breach (R361). -/
def State.guestFaults (s : State) (sock : Nat) (w0 addr info : BitVec 64) (detail : Nat) : State :=
  let cause := w0.toNat % 2 ^ 16
  let ctx := w0.toNat / 2 ^ 32 % 2 ^ 16
  let owner := w0.toNat / 2 ^ 48 % 4096
  let q := info.toNat / 2 ^ 26 % 64
  let tag := info.toNat / 2 ^ 40
  if !s.guestLive sock then s
  else if (s.guestQueue sock q).bound ≠ some (ctx, owner) then (s.isolate sock 0x0C0B).afterUpdate
  else
    let r : FaultRec := { cause := cause, kind := 5, sub := sock, flags := w0.toNat / 2 ^ 24 % 4, ctx := ctx,
                          owner := owner, addr := addr.toNat, info := info.toNat, detail := detail }
    let v := r.value (s.dieClk (attachDie sock))
    let s := match s.ctxQueue ctx with
      | none => s.systemRecord v
      | some fq => if cause = 0x0C00 then (s.contextRecord ctx fq v).systemRecord v else s.contextRecord ctx fq v
    let s := if cause = 0x0C00 then s.mapQueue sock q fun k => { k with stalled := true, stallVa := addr.toNat }
      else s.mapQueue sock q fun k =>
        { k with stalled := false, pulled := k.pulled.eraseP fun i => match i with
          | .packet _ data _ => decide (data.toNat % 2 ^ 24 = tag)
          | .join _ _ _ _ => false }
    s.afterUpdate

/-- A measurement register extended by a measurement (R280): SHAKE256, at 512 bits, of the register before and of what is
measured (DESIGN CHOICE, log entry 12). -/
def extendMeasure (bytes : List Byte) (m : Nat) : Nat := leValue (shake256 (leBytes 64 m ++ shake256 bytes 64) 64)

/-- The capability record of a guest die that has trained (R254): kept in the socket's DETAIL record (R284) and measured
(R280). -/
def State.capability (s : State) (sock vendor nq ver tcent clines : Nat) : State :=
  let k := s.socket sock
  if k.cap.isSome || k.isolated || k.drained then s
  else
    let s := s.mapSocket sock fun k => { k with cap := some (vendor, nq, ver, tcent, clines) }
    let word := vendor % 2 ^ 32 + nq % 256 * 2 ^ 32 + ver % 256 * 2 ^ 40 + tcent % 2 ^ 16 * 2 ^ 48
    let record := leBytes 8 word ++ leBytes 4 clines ++ List.replicate 52 0
    let s := s.mapService fun v =>
      { v with detail := tabSet 0 (tabSet 0 v.detail (8 * (80 + sock)) word) (8 * (80 + sock) + 1) (clines % 2 ^ 32) }
    { s with firmware := { s.firmware with measures := modifyAt s.firmware.measures 2 (extendMeasure record) } }

/-- The times that a guest die's duties run from, put off by a retraining of a length (R363). -/
def Socket.putOff (k : Socket) (n : Nat) : Socket :=
  { k with
    queues := k.queues.map fun q =>
      (q.1, { q.2 with binding := q.2.binding.map fun b => (b.1, b.2.1, b.2.2 + n)
                       unbinding := q.2.unbinding.map fun u => (u.1, u.2 + n)
                       awaiting := q.2.awaiting.map (· + n) })
    invals := k.invals.map fun i => (i.1, i.2.1, i.2.2.1, i.2.2.2.1, i.2.2.2.2 + n) }

/-- A link begins to retrain, or an attempt of its retraining ends (R363): at 32 GT/s first, then at 24 and at 16; where the
last fails the link is down. The bounds of R361 do not run meanwhile. -/
def State.retrain (s : State) (sock : Nat) (ok : Bool) : State :=
  let k := s.socket sock
  if k.isolated || k.down then s
  else match k.retraining with
    | none => s.mapSocket sock fun k => { k with retraining := some (32, s.clk) }
    | some (rate, since) =>
      let n := s.clk - since
      if ok then
        (s.mapSocket sock fun k => { (k.putOff n) with rate := rate, retraining := none }).mapMem fun m =>
          { m with recalls := m.recalls.map fun r => if r.1 = sock then (r.1, r.2.1, r.2.2 + n) else r }
      else if rate = 32 then s.mapSocket sock fun k => { k with retraining := some (24, since) }
      else if rate = 24 then s.mapSocket sock fun k => { k with retraining := some (16, since) }
      else ((s.mapSocket sock fun k => { k with down := true, retraining := none }).isolate sock 0x0C0C).afterUpdate

end Sys2Proof.Machine
end

