-- ==== Sys2Proof/Machine/GuestRows.lean ====
section
/-! DEFINITION. Rows of the guest sockets (R253-R265, R361-R364). A row that the state does not enable leaves it as it is. -/

namespace Sys2Proof.Machine

/-- R254. -/
def execCapabilityRecord (sock : Nat) (vendor : Nat) (nq : Nat) (ver : Nat) (tcent : Nat) (clines : Nat)
    (s : State) : Result :=
  .next (s.capability sock vendor nq ver tcent clines)

/-- R256, R257, R361. -/
def execPacketPull (sock : Nat) (q : Nat) (done : Nat) (pull : Bool) (s : State) : Result :=
  .next (s.pullPacket sock q done pull)

/-- R252, R261. -/
def execBindack (sock : Nat) (q : Nat) (s : State) : Result := .next (s.bindAck sock q)

/-- R264, R265. The count of completed packets adds nothing to what the pulled and returned ones say. -/
def execQstate (sock : Nat) (q : Nat) (unbound : Bool) (stalled : Bool) (returned : Nat) (_completed : Nat)
    (s : State) : Result :=
  .next (s.queueState sock q unbound stalled returned)

/-- R262. -/
def execInvack (sock : Nat) (id : Nat) (s : State) : Result := .next (s.invAck sock id)

/-- R263, R361. -/
def execGuestFault (sock : Nat) (w0 : BitVec 64) (addr : BitVec 64) (info : BitVec 64) (detail : Nat)
    (s : State) : Result :=
  .next (s.guestFaults sock w0 addr info detail)

/-- R259, R260. -/
def execGuestRead (sock : Nat) (ctx : Nat) (pa : Nat) (s : State) : Result := .next (s.guestReads sock ctx pa)

/-- R260. -/
def execOwnershipRequest (sock : Nat) (ctx : Nat) (pa : Nat) (s : State) : Result := .next (s.guestOwns sock ctx pa)

/-- R260. -/
def execWriteBack (sock : Nat) (ctx : Nat) (pa : Nat) (sectors : Nat) (data : List Nat) (keep : Bool)
    (s : State) : Result :=
  .next (s.guestWrites sock ctx pa sectors data keep)

/-- R260. -/
def execRecallAnswer (sock : Nat) (line : Nat) (sectors : KeptSectors) (data : List Nat) (s : State) : Result :=
  .next (s.recallDone sock line sectors.dirty data sectors.keep)

/-- R258, R260. -/
def execGuestAtomic (sock : Nat) (ctx : Nat) (pa : Nat) (aop : Nat) (wide : Bool) (x : Nat) (y : Nat)
    (s : State) : Result :=
  .next (s.guestAtomics sock ctx pa aop wide x y)

/-- R262. -/
def execTranslationRequest (sock : Nat) (ctx : Nat) (va : Nat) (write : Bool) (s : State) : Result :=
  .next (s.guestTranslate sock ctx va write)

/-- R361, R362. -/
def execGuestDutyTimeout (sock : Nat) (cause : Nat) (s : State) : Result := .next (s.dutyTimeout sock cause)

/-- R363. -/
def execLinkRetrain (sock : Nat) (ok : Bool) (s : State) : Result := .next (s.retrain sock ok)

end Sys2Proof.Machine
end

