-- ==== Sys2Proof/Machine/HostOps.lean ====
section
/-! DEFINITION. The host link, TDIs, firmware, storage errors, failures, drains and reset (R118, R266-R268, R280, R282-R284,
R313, R347, R365-R370). -/

namespace Sys2Proof.Machine

/-! ### Host memory and the link (R267, R268, R365, R367) -/

/-- A host snoop that invalidates a line: a store of the host whose write time is past every lease on host lines and never
falls (R267). -/
def State.snoop (s : State) (line : Nat) (data : List Nat) : State :=
  if !s.service.linkUp then s
  else
    let k := hostKey (line * 256)
    let held := greatest 0 ((s.mem.leases.filter fun l => isHost (l.line * 256)).map (·.expiry))
    let wt := max (max held s.mem.hostLease + 1) s.service.hostWt
    let now := s.dieClk 0
    let cells := cellsFrom k ((data.take 256).map (BitVec.ofNat 8))
    let s := s.mapMem fun m => ((m.commit (lineOf k)).putPending (lineOf k) wt cells).commitDue (lineOf k) now
    (s.mapService fun v => { v with hostWt := wt }).afterUpdate

/-- A host access may reach an address of module memory (R266): one in an HDM range of an owner's contexts while a TDI of
the owner is in RUN; one of no owner is system software's. -/
def State.hdmReach (s : State) (key : Nat) : Bool :=
  let o := Config.hdmOwner key
  decide (o = 0) || s.service.tdis.any fun t => decide (t.owner = o ∧ t.tdiState = 2)

/-- A host CXL.mem access to module memory (R267): a store with floor 0, or a load. An unsupported request (R366), and one to a
stack that is gone (R283, R368), does nothing. -/
def State.cxlAccess (s : State) (pa size : Nat) (write : Bool) (data : List Nat) : State :=
  let key := pa % 2 ^ 54
  let line := lineOf key
  let now := s.dieClk (homeOf line)
  if !s.service.linkUp ∨ 256 < key % 256 + size ∨ !s.hdmReach key ∨ s.stackGone key then s
  else if !write then s.mapMem fun m => m.commitDue line now
  else if s.mem.guestHeld line then s.recallGuests line
  else
    let s := s.mapMem fun m => m.commitDue line now
    match s.mem.arrive line now 0 with
    | .hold _ => s
    | .behind _ => s
    | .at_ wt =>
      ((s.mapMem fun m => m.store now wt key ((data.take size).map (BitVec.ofNat 8))).mapService fun v =>
        { v with hostStores := max v.hostStores wt }).afterUpdate

/-- The entry of a host page of a size meets a range of host frames. -/
def hostEntryIn (page size : Nat) (e n : Nat) : Bool :=
  let frame := entFrame e / n * n
  entHost e && meets frame (frame + n) page (page + size)

/-- An ATS invalidation (R268): matching entries leave the TLBs, accesses made with them are marked, and INVAL goes to the
guest dies that hold one. -/
def State.atsInvalidate (s : State) (page psize : Nat) : State :=
  let size := pageBytes psize
  let lo := hostKey (page / size * size)
  let s := s.mapMem fun m => { m with
    tlbs := m.tlbs.filter fun t => !hostEntryIn (page / size * size) size t.entry.toNat t.size
    ops := m.ops.map fun o => match o.loc with
      | .mem k => if lo ≤ k ∧ k < lo + size then { o with fresh := true } else o
      | _ => o }
  let held := [0, 1].flatMap fun k => ((s.socket k).trans.filter fun t =>
    decide (t.place < lo + size ∧ lo < t.place + t.size)).map fun t => (k, t)
  let x := held.foldl (fun (x : State × List (Nat × Nat)) h =>
    let y := x.1.sendInval h.1 h.2.page (h.2.page + h.2.size) [h.2.ctx]
    (y.1, x.2 ++ y.2)) (s, [])
  (x.1.mapService fun v => { v with atsPending := v.atsPending ++ [(page / size * size, size, s.clk, x.2)] }).settleAts

/-- A host sync message: performed after every invalidation received before it (R268). -/
def State.syncHost (s : State) : State :=
  if s.service.linkUp then (s.mapService fun v => { v with syncsHeld := v.syncsHeld + 1 }).settleAts else s

/-- An engine's operation that has waited 1 ms for an ATS answer stalls (R367). -/
def State.engineLate (s : State) (o : Op) : State :=
  match s.cmdCore o.inst with
  | some x => s.stallCmd x.1 x.2 0x0803 o.va
  | none => s.stallEntry o.inst 0x0803 o.va

/-- An ATS translation has had no answer for 1 ms: the record of the lanes that wait for it, or the stall of the engine's
operation (R367). -/
def State.atsLate (s : State) (id : Nat) : State :=
  match s.op? id with
  | none => s
  | some o => match o.kind, o.atsSince with
    | .ats, some t =>
      if t + 1000000 ≤ s.clk then
        if o.lanes.isEmpty then (s.dropOp id).engineLate o
        else (s.dropOp id).report (stalledRec 0x0803 4 o.ctx (s.ownerOf o.ctx) o.va 0 (whereWord s.tap.position o.core o.fg))
          true true
      else s
    | _, _ => s

/-- Accesses to host memory in flight, of some contexts, end with a cause: those of lanes and those of engines (R360, R365,
R366). -/
def State.failHost (s : State) (f : Nat → Bool) (cause : Nat) : State :=
  let s := s.engineWork.foldl (fun (s : State) (x : Nat × Nat) => if f x.2 then s.failEngine x.1 cause else s) s
  s.mem.ops.foldl (fun (s : State) (o : Op) => match o.kind, o.loc with
    | .visible _ _, _ => s
    | _, .mem k => if isHost k && f o.ctx then s.failOp o cause else s
    | _, _ => s) s

/-- Contexts that have work on the module, or a record. -/
def State.liveCtxs (s : State) : List Nat :=
  (s.pads.map (·.ctx) ++ s.launches.map (·.ctx) ++ s.ctxs.map (·.id)).eraseDups

/-- The owner's host access is cut and its contexts are pre-empted (R366). -/
def State.cutOwner (s : State) (owner : Nat) : State :=
  let mine := s.liveCtxs.filter fun c => decide (s.ownerOf c = owner)
  let s := s.failHost (fun c => decide (c ∈ mine)) 0x0802
  (mine.filter fun c => s.launches.any fun l => decide (l.ctx = c)).foldl
    (fun (s : State) (c : Nat) => s.requestPreempt c) s

/-- A TDI leaves RUN for another state (R366). -/
def State.leaveRun (s : State) (n st : Nat) : State :=
  match s.service.tdis[n]? with
  | none => s
  | some t =>
    if t.tdiState ≠ 2 then s
    else
      let s := (s.mapTdi n fun t => { t with tdiState := st }).mapService fun v =>
        { v with cut := t.owner :: v.cut.filter fun o => decide (o ≠ t.owner) }
      (s.report (plainRec 0x0801 8 0xFFFF 0 0 n 0) false true).cutOwner t.owner

/-- The link goes down (R365). -/
def State.linkDown (s : State) : State :=
  let s := (s.failHost (fun _ => true) 0x0800).report (plainRec 0x0800 8 0xFFFF 0 0 0 0) false true
  let s := (s.mapService fun v => { v with linkUp := false, aer := 2 :: v.aer }).setReady 84 false
  let s := s.mapMem fun m => { m with tlbs := m.tlbs.filter fun t => !entHost t.entry.toNat }
  { s with sockets := s.sockets.map fun k => { k with trans := k.trans.filter fun t => !isHost t.place } }

/-- The link returns (R365): every TDI starts from CONFIG_UNLOCKED, and parked translations are asked for again. -/
def State.linkBack (s : State) : State :=
  let s := (upFrom 0 s.service.tdis.length).foldl (fun (s : State) (n : Nat) =>
    (s.leaveRun n 0).mapTdi n fun t => { t with tdiState := 0 }) s
  let m := fun (x : Merge) => if x.stalled = some 0x0800 then { x with stalled := none } else x
  let s := s.mapMem fun x => { x with merges := x.merges.map m }
  ((s.mapService fun v => { v with linkUp := true }).setReady 84 true).atsBack

/-- Events of the link (R365): an uncorrectable error, a link-down, the link's return, and with both flags an error that
PCIe replay corrects. -/
def State.linkError (s : State) (down back : Bool) : State :=
  match down, back with
  | true, true => s.mapService fun v => { v with aer := 1 :: v.aer }
  | true, false => if s.service.linkUp then s.linkDown.afterUpdate else s
  | false, true => if s.service.linkUp then s else s.linkBack.afterUpdate
  | false, false =>
    if s.service.linkUp then
      (((s.failHost (fun _ => true) 0x0800).report (plainRec 0x0800 8 0xFFFF 0 0 1 0) false true).mapService fun v =>
        { v with aer := 2 :: v.aer }).afterUpdate
    else s

/-! ### TDISP (R266) -/

/-- A TDISP message: 1 locks a TDI to an owner, 2 brings it into RUN and binds its host broadcast queues, 3 stops it. One
TDI at most has an owner. -/
def State.tdisp (s : State) (n owner message : Nat) (hbqs : List Nat) : State :=
  match s.service.tdis[n]? with
  | none => s
  | some t =>
    if !s.service.linkUp then s
    else match message with
      | 1 =>
        let taken := (mapFrom (fun i t => (i, t)) 0 s.service.tdis).any fun x =>
          decide (x.1 ≠ n) && decide (x.2.owner = owner ∧ x.2.tdiState ≠ 0)
        if t.tdiState = 0 ∧ owner ≠ 0 ∧ taken = false then
          s.mapTdi n fun t => { t with owner := owner % 4096, tdiState := 1 }
        else s
      | 2 =>
        if t.tdiState = 1 then
          let bind := fun (i : Nat) (k : Hbq) =>
            if i ∈ hbqs then { k with owner := some t.owner }
            else if k.owner = some t.owner then { k with owner := none } else k
          ((s.mapTdi n fun t => { t with tdiState := 2 }).mapService fun v =>
            { v with hbqs := mapFrom bind 0 v.hbqs, cut := v.cut.filter fun o => decide (o ≠ t.owner) }).pollHbqs
        else s
      | 3 => (s.leaveRun n 0).mapTdi n fun t => { t with tdiState := 0 }
      | _ => s

/-! ### Attestation and firmware (R280, R282, R369, R370) -/

/-- An owner set as 4,096 bits (R276). -/
def ownerBits (owners : List Nat) : List Byte :=
  leBytes 512 (((upFrom 0 4096).filter fun o => decide (o ∈ owners)).foldl (fun a o => a + 2 ^ o) 0)

/-- The digest of the owner sets, the module's first and then the ports' (R280; the order is a DESIGN CHOICE, log entry 12). -/
def State.ownerDigest (s : State) : Nat :=
  leValue (shake256 (ownerBits s.fabric.owners ++ s.fabric.portOwners.flatMap ownerBits) 64)

/-- An attestation report (R280): what it covers, and the signature. -/
def State.attest (s : State) (nonce : Nat) : State :=
  let body := nonce :: s.firmware.measures ++ [s.fwver, s.service.ready, s.ownerDigest]
  s.mapService fun v => { v with attest := v.attest ++ [body ++ [Config.sign body]] }

/-- The state with the firmware changed. -/
def State.mapFirmware (s : State) (f : Firmware → Firmware) : State := { s with firmware := f s.firmware }

/-- The boot ROM measures the image of a version, as it is booted, and the state table (R280). -/
def Firmware.measure (f : Firmware) (version : Nat) : Firmware :=
  let m := modifyAt f.measures 0 (extendMeasure (Config.firmwareImage version))
  { f with measures := modifyAt m 1 (extendMeasure (Config.stateTable f.tableVersion)) }

/-- A live update (R282): a signed image whose range holds the table's version takes over. -/
def State.update (s : State) (version lo hi : Nat) (signed : Bool) : State :=
  let v := s.firmware.tableVersion
  if signed && s.readyBit 85 && s.readyBit 86 && decide (lo ≤ v ∧ v ≤ hi) then
    s.mapFirmware fun f =>
      ({ f with active := version, standby := some f.active, previous := some f.active, takeover := s.clk,
                heartbeat := s.clk, exported := v } : Firmware).measure version
  else s

/-- The active complex has had no heartbeat for 2 ms (R369, R370): the standby takes over, within a second of a live update the
old firmware, in the state-table version that it had exported; with no complex left intake stops. The mirrored table is the
machine's own: a row changes it and takes effect in one step, and what no row has taken yet waits in the queues (DEDUCED,
log entry 40). -/
def State.failover (s : State) : State :=
  if s.firmware.heartbeat + 2000000 ≤ s.clk ∧ s.firmware.failed < 2 ∧ s.readyBit 85 then
    if s.firmware.failed = 1 ∨ !s.readyBit 86 then
      (((s.mapFirmware fun f => { f with failed := 2, standby := none, previous := none }).setReady 85 false).setReady 86
        false).tellManager 0x0982 0
    else
      let old := if s.clk < s.firmware.takeover + 1000000000 then s.firmware.previous else none
      let cause := if old.isSome then 0x0981 else 0x0980
      let next := (old.orElse fun _ => s.firmware.standby).getD s.firmware.active
      let table := if old.isSome then s.firmware.exported else s.firmware.tableVersion
      ((s.mapFirmware fun f => { f with active := next, standby := none, previous := none, failed := 1,
                                        heartbeat := s.clk, tableVersion := table }).setReady 86 false).report
        (plainRec cause 10 0xFFFF 0 0 0 0) false true
  else s

/-- The mirror period of a live update is over (R370). -/
def State.endMirror (s : State) : State :=
  if s.firmware.previous.isSome ∧ s.firmware.takeover + 1000000000 ≤ s.clk then
    s.mapFirmware fun f => { f with previous := none }
  else s

/-! ### Storage errors and failures (R347, R368) -/

/-- The state with a die's record changed. -/
def State.mapDie (s : State) (die : Nat) (f : DieState → DieState) : State := { s with dies := modifyAt s.dies die f }

/-- A sector is poisoned (R347). -/
def State.poisonSector (s : State) (x : Nat) : State :=
  s.mapMem fun m => { m with poison := if x ∈ m.poison then m.poison else x :: m.poison }

/-- A cause-0x09xx record about no context (R299, R347, R368). -/
def State.stormRecord (s : State) (cause kind addr detail : Nat) : State :=
  s.report (plainRec cause kind 0xFFFF 0 addr 0 detail) false true

/-- The context that a sector of this module's memory belongs to: one that a core's cached translation maps it for (DESIGN
CHOICE, log entry 92). -/
def State.sectorCtx (s : State) (pa : Nat) : Nat :=
  match s.mem.tlbs.find? fun t =>
      let e := t.entry.toNat
      !entHost e && decide (entMod e = s.tap.position ∧ entFrame e / t.size * t.size ≤ pa ∧ pa < entFrame e / t.size * t.size + t.size) with
  | some t => t.ctx
  | none => 0xFFFF

/-- The record of a sector poisoned: to both queues (R299, R347, R368). -/
def State.sectorRecord (s : State) (cause kind pa detail : Nat) : State :=
  let c := s.sectorCtx pa
  s.report (plainRec cause kind c (if c = 0xFFFF then 0 else s.ownerOf c) pa 0 detail) true true

/-- A line of an L1 or L2 is dropped, to be fetched again (R347). -/
def Mem.dropLine (m : Mem) (l1 : Bool) (unit line : Nat) : Mem :=
  { m with copies := m.copies.filter fun c => decide (c.l1 ≠ l1 ∨ c.unit ≠ unit ∨ c.line ≠ line)
           replicas := m.replicas.filter fun c => decide (c.l1 ≠ l1 ∨ c.unit ≠ unit ∨ c.line ≠ line) }

/-- An error of a storage (R347): 0 L1 and 1 L2 by unit and line, 2 an instruction cache by core and word address, 3 a
scratchpad word, 4 an accumulator entry, 5 a home buffer's sector by die. Lines are clean: their errors are corrected. -/
def State.storageError (s : State) (storage unit index : Nat) (correctable : Bool) : State :=
  let fixed := fun (die : Nat) => s.countDetail (die % 24) 1
  match storage with
  | 0 => fixed (dieOf unit) |>.mapMem fun m => m.dropLine true unit index
  | 1 => fixed (unit / 8) |>.mapMem fun m => m.dropLine false unit index
  | 2 => { fixed (dieOf unit) with icache := s.icache.filter fun x => decide (x.core ≠ unit ∨ x.line ≠ index / 192) }
  | 3 =>
    if correctable then fixed (dieOf unit)
    else s.mapPad unit fun p => { p with spadBad := if index ∈ p.spadBad then p.spadBad else index :: p.spadBad }
  | 4 =>
    if correctable then fixed (dieOf unit)
    else
      let at_ := unit * 32768 + index % 32768
      let s := { s with acc := tabSet 0 s.acc at_ (BitVec.ofNat 80 a80.nan)
                        accBad := if at_ ∈ s.accBad then s.accBad else at_ :: s.accBad }
      (match s.pad? unit with
       | none => s
       | some p => s.report (plainRec 0x0902 2 p.ctx (s.ownerOf p.ctx) 0 0 (whereWord s.tap.position unit 0)) true true)
  | 5 =>
    if correctable then fixed unit
    else (s.poisonSector index).sectorRecord 0x0910 3 (index * 64) (unit % 24)
  | _ => s

/-- A context with a pad group on a die that is cut off is stopped as a whole: nothing of it issues, and nothing of it is
started (R368). -/
def State.stopDie (s : State) (die : Nat) : State :=
  let hit := (s.pads.filter fun p => decide (dieOf p.core = die)).map (·.ctx)
  { s with pads := s.pads.map fun p => if p.ctx ∈ hit then { p with stopped := true } else p
           ctxs := s.ctxs.map fun c => if c.id ∈ hit then { c with cutOff := true } else c }

/-- A die that no path of boundaries joins to the fabric die (R368). -/
def State.cutDie (s : State) (die : Nat) : State :=
  if (atD DieState.zero s.dies die).cut then s
  else
    (((((s.mapDie die fun d => { d with cut := true }).setReady die false).setReady (24 + die) false).stopDie
      die).stormRecord 0x0932 3 0 die)

/-- Every die that no path of boundaries joins to the fabric die is cut off (R13, R368). -/
def State.cutUnreached (s : State) : State :=
  ((upFrom 0 24).filter fun d => decide (d ∉ reachable s.severed)).foldl (fun (s : State) (d : Nat) => s.cutDie d) s

/-- The dies of a boundary, the compute die first (R13). -/
def boundary (b : Nat) : Nat × Nat := atD (0, 0) boundaries (b % 36)

/-- A boundary goes down: traffic goes round it, and dies that it alone joined are unreachable (R13, R368). -/
def State.severBoundary (s : State) (b : Nat) : State :=
  let s := if b % 36 ∈ s.severed then s else { s with severed := s.severed ++ [b % 36] }
  (s.stormRecord 0x0931 3 0 (boundary b).1).cutUnreached

/-- The rows of R368: 0 HBM corrected, 1 uncorrectable read, 2 stack lost, each by stack; 3 flit error, 4 boundary at half
width, 5 boundary down, each by boundary (R13); 6 die unreachable on every boundary, by die. A record about a boundary names
its compute die, of two the lower (DESIGN CHOICE, log entry 74). -/
def State.hardFailure (s : State) (what unit pa : Nat) : State :=
  let die := unit % 24
  match what with
  | 0 => s.countDetail (24 + die) 0
  | 1 => (s.poisonSector (sectorOf pa)).sectorRecord 0x0920 11 pa die
  | 2 => ((s.mapDie die fun d => { d with lost := true }).setReady (24 + die) false).stormRecord 0x0921 11 0 die
  | 3 => s.countDetail (boundary unit).1 2
  | 4 =>
    ({ s with narrow := if unit % 36 ∈ s.narrow then s.narrow else s.narrow ++ [unit % 36] } : State).stormRecord 0x0930 3 0
      (boundary unit).1
  | 5 => s.severBoundary unit
  | 6 =>
    let mine := (mapFrom (fun i b => (i, b)) 0 boundaries).filter fun x => decide (x.2.1 = die ∨ x.2.2 = die)
    let more := (mine.map (·.1)).filter fun i => decide (i ∉ s.severed)
    ((({ s with severed := s.severed ++ more } : State).cutDie die)).cutUnreached
  | _ => s

/-! ### Service (R283, R284, R313, R118) -/

/-- A ready bit rises, and the unit is usable (R284). Bits 82 and 83 rise with the loop (R88, R354); where both firmware
complexes have failed, 85 and 86 rise after a module reset alone (R370). -/
def State.readyRise (s : State) (b : Nat) : State :=
  if b = 82 ∨ b = 83 ∨ 88 ≤ b then s
  else if b < 24 then
    if (atD DieState.zero s.dies b).cut then s
    else (s.mapDie b fun d => { d with coreStop := false }).setReady b true
  else if b < 48 then
    if (atD DieState.zero s.dies (b - 24)).cut then s
    else (s.mapDie (b - 24) fun d => { d with lost := false }).setReady b true
  else if b < 80 then (s.setReady b true).settleRoutes
  else if b < 82 then
    let k := s.socket (b - 80)
    if k.cap.isSome && !k.isolated && !k.drained && !k.down then s.setReady b true else s
  else if b = 84 then if s.service.linkUp then s.setReady 84 true else s.linkBack
  else if b = 85 then
    if s.readyBit 85 ∨ 2 ≤ s.firmware.failed ∨ !Config.imageSigned s.firmware.active then s
    else (s.mapFirmware fun f => ({ f with heartbeat := s.clk } : Firmware).measure f.active).setReady 85 true
  else if b = 86 then
    let v := s.firmware.standby.getD s.firmware.active
    if 2 ≤ s.firmware.failed ∨ !Config.imageSigned v then s
    else (s.mapFirmware fun f => ({ f with failed := 0, standby := some v } : Firmware).measure v).setReady 86 true
  else
    let s := s.setReady 87 true
    if s.intake then
      ({ s with queues := s.queues.map fun k => match k.seen with
        | some t => { k with tail := t, seen := none }
        | none => k } : State).pollHbqs
    else s

/-- DRAIN (R283): 0 a die's cores, 1 an HBM stack, 2 a guest socket whose queues are unbound. -/
def State.drainUnit (s : State) (what unit : Nat) : State :=
  match what with
  | 0 =>
    let s := (s.mapDie (unit % 24) fun d => { d with coreStop := true }).setReady (unit % 24) false
    ((s.pads.filter fun p => decide (dieOf p.core = unit % 24)).map (·.ctx)).foldl
      (fun (s : State) (c : Nat) => s.requestPreempt c) s
  | 1 => (s.mapDie (unit % 24) fun d => { d with lost := true }).setReady (24 + unit % 24) false
  | 2 =>
    if (s.socket unit).queues.all fun q => q.2.bound.isNone && q.2.binding.isNone && q.2.unbinding.isNone then
      (s.mapSocket unit fun k => { k with drained := true }).setReady (80 + unit % 2) false
    else s
  | _ => s

/-- A context may be discarded: it is saved, or a pad group of it was on a die that is cut off (R313, R368). -/
def State.mayDiscard (s : State) (ctx : Nat) : Bool :=
  s.pads.all (fun p => decide (p.ctx ≠ ctx)) && (s.preempt? ctx).isNone ||
    s.pads.any fun p => decide (p.ctx = ctx) && (atD DieState.zero s.dies (dieOf p.core)).cut

/-- DISCARD (R313, R335): its engine entries are cancelled with 0x0B05 and STATUS 14, in the slots that are on the module
(DEDUCED, log entry 67), and it holds no slot. -/
def State.discardCtx (s : State) (ctx : Nat) : State :=
  if !s.mayDiscard ctx then s
  else
    let es := s.triggers.filter (fun e => decide (e.ctx = ctx)) ++
      (s.ctxPads ctx).flatMap fun p => p.ring.filter fun e => !e.finished
    let s := es.foldl (fun (s : State) (e : Entry) =>
      (if (s.entryPad e).isSome then s.setStatus e 14 else s).entryRecord e 0x0B05 1 false e.dst true) s
    let s := { s with triggers := s.triggers.filter fun e => decide (e.ctx ≠ ctx) }
    let s := if s.pads.any fun p => decide (p.ctx = ctx) then s.releaseContext ctx else s
    (s.mapCtx ctx fun c => { c with cutOff := false }).afterUpdate

/-- Module reset (R118, R284): the machine as after reset. The host keeps its own memory, and the model its agenda and its
step counter (log entry 1). -/
def State.resetModule (s : State) : State :=
  { State.reset with
    seq := s.seq
    agenda := s.agenda
    memBusy := s.memBusy
    mem := { Mem.empty with bytes := s.mem.bytes.filter fun c => isHost c.1 } }

end Sys2Proof.Machine
end

