-- ==== Sys2Proof/Machine/HostRows.lean ====
section
/-! DEFINITION. Rows of the host link, TDIs, firmware, failures, drains and reset (R118, R266-R268, R280, R282-R284, R313,
R347, R365-R370). A row that the state does not enable leaves it as it is. -/

namespace Sys2Proof.Machine

/-- R267. -/
def execHostSnoop (line : Nat) (data : List Nat) (s : State) : Result := .next (s.snoop line data)

/-- R267. -/
def execCxlMemAccess (pa : Nat) (size : Nat) (write : Bool) (data : List Nat) (s : State) : Result :=
  .next (s.cxlAccess pa size write data)

/-- R268. -/
def execAtsInvalidation (page : Nat) (psize : Nat) (s : State) : Result := .next (s.atsInvalidate page psize)

/-- R367. -/
def execAtsTimeout (op : Nat) (s : State) : Result := .next (s.atsLate op)

/-- R365. -/
def execHostLinkError (down : Bool) (back : Bool) (s : State) : Result := .next (s.linkError down back)

/-- R366: the TDI goes to ERROR. -/
def execTdiLeaveRun (tdi : Nat) (s : State) : Result := .next (s.leaveRun tdi 3)

/-- R280. -/
def execAttestationRequest (nonce : Nat) (s : State) : Result := .next (s.attest nonce)

/-- R347. -/
def execSoftError (storage : Nat) (unit : Nat) (index : Nat) (correctable : Bool) (s : State) : Result :=
  .next (s.storageError storage unit index correctable)

/-- R368. -/
def execHbmFailure (what : Nat) (unit : Nat) (pa : Nat) (s : State) : Result := .next (s.hardFailure what unit pa)

/-- R284. -/
def execReadyBitRise (bit : Nat) (s : State) : Result := .next (s.readyRise bit)

/-- R282. -/
def execLiveUpdate (version : Nat) (lo : Nat) (hi : Nat) (signed : Bool) (s : State) : Result :=
  .next (s.update version lo hi signed)

/-- R369, R370. -/
def execWatchdogFailover (s : State) : Result := .next s.failover

/-- R118, R284. -/
def execModuleReset (s : State) : Result := .next s.resetModule

/-- R283. -/
def execDrain (what : Nat) (unit : Nat) (s : State) : Result := .next (s.drainUnit what unit)

/-- R313, R335. -/
def execDiscard (ctx : Nat) (s : State) : Result := .next (s.discardCtx ctx)

/-- R266. -/
def execTdispRequest (tdi : Nat) (owner : Nat) (message : Nat) (hbqs : List Nat) (s : State) : Result :=
  .next (s.tdisp tdi owner message hbqs)

/-- R268. -/
def execHostSync (s : State) : Result := .next s.syncHost

/-- R370. -/
def execMirrorPeriodEnd (s : State) : Result := .next s.endMirror

end Sys2Proof.Machine
end

