-- ==== Sys2Proof/Machine/IntOps.lean ====
section
/-! DEFINITION. The integer and address instructions, majors 0x00-0x0F (R152-R159, R174). -/

namespace Sys2Proof.Machine

/-- R152: D := trunc(A + B, 32). -/
def execAdd (c : Bool) (g : BitVec 4) (d : BitVec 6) (a : BitVec 6) (b : BitVec 6) (s : State) : Result :=
  .next (s.word2 (.add c g d a b) d fun x y => x + y)

/-- R152: D := trunc(A − B, 32). -/
def execSub (c : Bool) (g : BitVec 4) (d : BitVec 6) (a : BitVec 6) (b : BitVec 6) (s : State) : Result :=
  .next (s.word2 (.sub c g d a b) d fun x y => x - y)

/-- R152: D := trunc(A × B, 32). -/
def execMul (c : Bool) (g : BitVec 4) (d : BitVec 6) (a : BitVec 6) (b : BitVec 6) (s : State) : Result :=
  .next (s.word2 (.mul c g d a b) d fun x y => x * y)

/-- R152: the high half of the signed product. -/
def execMulhs (c : Bool) (g : BitVec 4) (d : BitVec 6) (a : BitVec 6) (b : BitVec 6) (s : State) : Result :=
  .next (s.word2 (.mulhs c g d a b) d fun x y => mulHighS x y)

/-- R152: the high half of the unsigned product. -/
def execMulhu (c : Bool) (g : BitVec 4) (d : BitVec 6) (a : BitVec 6) (b : BitVec 6) (s : State) : Result :=
  .next (s.word2 (.mulhu c g d a b) d fun x y => mulHighU x y)

/-- R152: the smaller signed operand. -/
def execMins (c : Bool) (g : BitVec 4) (d : BitVec 6) (a : BitVec 6) (b : BitVec 6) (s : State) : Result :=
  .next (s.word2 (.mins c g d a b) d fun x y => minS x y)

/-- R152: the larger signed operand. -/
def execMaxs (c : Bool) (g : BitVec 4) (d : BitVec 6) (a : BitVec 6) (b : BitVec 6) (s : State) : Result :=
  .next (s.word2 (.maxs c g d a b) d fun x y => maxS x y)

/-- R152: the saturating signed sum. -/
def execAdds (c : Bool) (g : BitVec 4) (d : BitVec 6) (a : BitVec 6) (b : BitVec 6) (s : State) : Result :=
  .next (s.word2 (.adds c g d a b) d fun x y => addSat x y)

/-- R153. -/
def execAnd (c : Bool) (g : BitVec 4) (d : BitVec 6) (a : BitVec 6) (b : BitVec 6) (s : State) : Result :=
  .next (s.word2 (.and c g d a b) d fun x y => x &&& y)

/-- R153. -/
def execOr (c : Bool) (g : BitVec 4) (d : BitVec 6) (a : BitVec 6) (b : BitVec 6) (s : State) : Result :=
  .next (s.word2 (.or c g d a b) d fun x y => x ||| y)

/-- R153. -/
def execXor (c : Bool) (g : BitVec 4) (d : BitVec 6) (a : BitVec 6) (b : BitVec 6) (s : State) : Result :=
  .next (s.word2 (.xor c g d a b) d fun x y => x ^^^ y)

/-- R153: A and not B. -/
def execAndn (c : Bool) (g : BitVec 4) (d : BitVec 6) (a : BitVec 6) (b : BitVec 6) (s : State) : Result :=
  .next (s.word2 (.andn c g d a b) d fun x y => x &&& ~~~y)

/-- R153: A or not B. -/
def execOrn (c : Bool) (g : BitVec 4) (d : BitVec 6) (a : BitVec 6) (b : BitVec 6) (s : State) : Result :=
  .next (s.word2 (.orn c g d a b) d fun x y => x ||| ~~~y)

/-- R153. -/
def execXnor (c : Bool) (g : BitVec 4) (d : BitVec 6) (a : BitVec 6) (b : BitVec 6) (s : State) : Result :=
  .next (s.word2 (.xnor c g d a b) d fun x y => ~~~(x ^^^ y))

/-- R153. -/
def execMinu (c : Bool) (g : BitVec 4) (d : BitVec 6) (a : BitVec 6) (b : BitVec 6) (s : State) : Result :=
  .next (s.word2 (.minu c g d a b) d fun x y => minU x y)

/-- R153. -/
def execMaxu (c : Bool) (g : BitVec 4) (d : BitVec 6) (a : BitVec 6) (b : BitVec 6) (s : State) : Result :=
  .next (s.word2 (.maxu c g d a b) d fun x y => maxU x y)

/-- R154: a shift of 32 or more gives 0. -/
def execShl (c : Bool) (g : BitVec 4) (d : BitVec 6) (a : BitVec 6) (b : BitVec 6) (s : State) : Result :=
  .next (s.word2 (.shl c g d a b) d fun x y => shlWord x y)

/-- R154: a shift of 32 or more gives 0. -/
def execShr (c : Bool) (g : BitVec 4) (d : BitVec 6) (a : BitVec 6) (b : BitVec 6) (s : State) : Result :=
  .next (s.word2 (.shr c g d a b) d fun x y => shrWord x y)

/-- R154: a shift of 32 or more gives the sign. -/
def execSar (c : Bool) (g : BitVec 4) (d : BitVec 6) (a : BitVec 6) (b : BitVec 6) (s : State) : Result :=
  .next (s.word2 (.sar c g d a b) d fun x y => sarWord x y)

/-- R154. -/
def execRol (c : Bool) (g : BitVec 4) (d : BitVec 6) (a : BitVec 6) (b : BitVec 6) (s : State) : Result :=
  .next (s.word2 (.rol c g d a b) d fun x y => rolWord x y)

/-- R154. -/
def execRor (c : Bool) (g : BitVec 4) (d : BitVec 6) (a : BitVec 6) (b : BitVec 6) (s : State) : Result :=
  .next (s.word2 (.ror c g d a b) d fun x y => rorWord x y)

/-- R154. -/
def execClz (c : Bool) (g : BitVec 4) (d : BitVec 6) (a : BitVec 6) (s : State) : Result :=
  .next (s.word1 (.clz c g d a) d fun x => clzWord x)

/-- R154. -/
def execPopc (c : Bool) (g : BitVec 4) (d : BitVec 6) (a : BitVec 6) (s : State) : Result :=
  .next (s.word1 (.popc c g d a) d fun x => popcWord x)

/-- R154. -/
def execBrev (c : Bool) (g : BitVec 4) (d : BitVec 6) (a : BitVec 6) (s : State) : Result :=
  .next (s.word1 (.brev c g d a) d fun x => brevWord x)

/-- R155: p[D] := A = B. -/
def execCmpEq (c : Bool) (g : BitVec 4) (d : BitVec 3) (a : BitVec 6) (b : BitVec 6) (s : State) : Result :=
  .next (s.wordP (.cmpEq c g d a b) d fun x y => decide (x = y))

/-- R155: p[D] := A ≠ B. -/
def execCmpNe (c : Bool) (g : BitVec 4) (d : BitVec 3) (a : BitVec 6) (b : BitVec 6) (s : State) : Result :=
  .next (s.wordP (.cmpNe c g d a b) d fun x y => decide (x ≠ y))

/-- R155: p[D] := sA < sB. -/
def execCmpLt (c : Bool) (g : BitVec 4) (d : BitVec 3) (a : BitVec 6) (b : BitVec 6) (s : State) : Result :=
  .next (s.wordP (.cmpLt c g d a b) d fun x y => decide (x.toInt < y.toInt))

/-- R155: p[D] := sA ≤ sB. -/
def execCmpLe (c : Bool) (g : BitVec 4) (d : BitVec 3) (a : BitVec 6) (b : BitVec 6) (s : State) : Result :=
  .next (s.wordP (.cmpLe c g d a b) d fun x y => decide (x.toInt ≤ y.toInt))

/-- R155: p[D] := uA < uB. -/
def execCmpLtu (c : Bool) (g : BitVec 4) (d : BitVec 3) (a : BitVec 6) (b : BitVec 6) (s : State) : Result :=
  .next (s.wordP (.cmpLtu c g d a b) d fun x y => decide (x.toNat < y.toNat))

/-- R155: p[D] := uA ≤ uB. -/
def execCmpLeu (c : Bool) (g : BitVec 4) (d : BitVec 3) (a : BitVec 6) (b : BitVec 6) (s : State) : Result :=
  .next (s.wordP (.cmpLeu c g d a b) d fun x y => decide (x.toNat ≤ y.toNat))

/-- R155: p[D] := (A and B) ≠ 0. -/
def execCmpTst (c : Bool) (g : BitVec 4) (d : BitVec 3) (a : BitVec 6) (b : BitVec 6) (s : State) : Result :=
  .next (s.wordP (.cmpTst c g d a b) d fun x y => decide (x &&& y ≠ 0))

/-- R156. -/
def execAddi (c : Bool) (g : BitVec 4) (d : BitVec 6) (a : BitVec 6) (i : BitVec 9) (s : State) : Result :=
  .next (s.word1 (.addi c g d a i) d fun x => x + imm9 i)

/-- R156. -/
def execAndi (c : Bool) (g : BitVec 4) (d : BitVec 6) (a : BitVec 6) (i : BitVec 9) (s : State) : Result :=
  .next (s.word1 (.andi c g d a i) d fun x => x &&& imm9 i)

/-- R156. -/
def execOri (c : Bool) (g : BitVec 4) (d : BitVec 6) (a : BitVec 6) (i : BitVec 9) (s : State) : Result :=
  .next (s.word1 (.ori c g d a i) d fun x => x ||| imm9 i)

/-- R156. -/
def execXori (c : Bool) (g : BitVec 4) (d : BitVec 6) (a : BitVec 6) (i : BitVec 9) (s : State) : Result :=
  .next (s.word1 (.xori c g d a i) d fun x => x ^^^ imm9 i)

/-- R156. -/
def execShli (c : Bool) (g : BitVec 4) (d : BitVec 6) (a : BitVec 6) (i : BitVec 5) (s : State) : Result :=
  .next (s.word1 (.shli c g d a i) d fun x => shlWord x (amount5 i))

/-- R156. -/
def execShri (c : Bool) (g : BitVec 4) (d : BitVec 6) (a : BitVec 6) (i : BitVec 5) (s : State) : Result :=
  .next (s.word1 (.shri c g d a i) d fun x => shrWord x (amount5 i))

/-- R156. -/
def execSari (c : Bool) (g : BitVec 4) (d : BitVec 6) (a : BitVec 6) (i : BitVec 5) (s : State) : Result :=
  .next (s.word1 (.sari c g d a i) d fun x => sarWord x (amount5 i))

/-- R157: D := sext(IMM15, 15). -/
def execMovi (c : Bool) (g : BitVec 4) (d : BitVec 6) (i : BitVec 15) (s : State) : Result :=
  .next (s.laneWord (.movi c g d i) fun _ _ _ => writeOne d.toNat (i.signExtend 32))

/-- R157: D := trunc((D << 15) + zext(IMM15), 32). -/
def execMovsh (c : Bool) (g : BitVec 4) (d : BitVec 6) (i : BitVec 15) (s : State) : Result :=
  .next (s.word1 (.movsh c g d i) d fun x => (x <<< 15) + i.setWidth 32)

/-- R158. -/
def execAdd64 (c : Bool) (g : BitVec 4) (d : BitVec 6) (a : BitVec 6) (b : BitVec 6) (s : State) : Result :=
  .next (s.word64 (.add64 c g d a b) d fun x y => x + y)

/-- R158. -/
def execSub64 (c : Bool) (g : BitVec 4) (d : BitVec 6) (a : BitVec 6) (b : BitVec 6) (s : State) : Result :=
  .next (s.word64 (.sub64 c g d a b) d fun x y => x - y)

/-- R158. -/
def execMul64 (c : Bool) (g : BitVec 4) (d : BitVec 6) (a : BitVec 6) (b : BitVec 6) (s : State) : Result :=
  .next (s.word64 (.mul64 c g d a b) d fun x y => x * y)

/-- R158. -/
def execAddsx64 (c : Bool) (g : BitVec 4) (d : BitVec 6) (a : BitVec 6) (b : BitVec 6) (s : State) : Result :=
  .next (s.word64g (.addsx64 c g d a b) d fun x y => x + y.signExtend 64)

/-- R158. -/
def execAddzx64 (c : Bool) (g : BitVec 4) (d : BitVec 6) (a : BitVec 6) (b : BitVec 6) (s : State) : Result :=
  .next (s.word64g (.addzx64 c g d a b) d fun x y => x + y.setWidth 64)

/-- R158. -/
def execShl64 (c : Bool) (g : BitVec 4) (d : BitVec 6) (a : BitVec 6) (b : BitVec 6) (s : State) : Result :=
  .next (s.word64g (.shl64 c g d a b) d fun x y => shl64Val x y)

/-- R158. -/
def execShr64 (c : Bool) (g : BitVec 4) (d : BitVec 6) (a : BitVec 6) (b : BitVec 6) (s : State) : Result :=
  .next (s.word64g (.shr64 c g d a b) d fun x y => shr64Val x y)

/-- R158. -/
def execSar64 (c : Bool) (g : BitVec 4) (d : BitVec 6) (a : BitVec 6) (b : BitVec 6) (s : State) : Result :=
  .next (s.word64g (.sar64 c g d a b) d fun x y => sar64Val x y)

/-- R159: D64 := packet address of this word + 12 × sext(IMM15, 15). -/
def execAdr (c : Bool) (g : BitVec 4) (d : BitVec 6) (i : BitVec 15) (s : State) : Result :=
  .next (s.runWord (.adr c g d i) fun s r lanes =>
    s.eachLane r lanes [] fun _ _ _ => writePair d.toNat (BitVec.ofNat 64 (packetRel r.pc.toNat i.toInt 64)))

/-- R174: does nothing; the guard is ignored. -/
def execNop (c : Bool) (g : BitVec 4) (s : State) : Result := .next (s.runWord (.nop c g) fun s _ _ => s)

/-- R174: the run's ageing counter is 0, and for the next 16 issue cycles other ready runs go first. -/
def execYield (c : Bool) (g : BitVec 4) (s : State) : Result :=
  .next (s.runWord (.yield c g) fun s r _ =>
    s.mapLanes r.core r.fg r.lanes fun _ t => { t with age := 0, yielded := 16 })

end Sys2Proof.Machine
end

