-- ==== Sys2Proof/Machine/LoopRows.lean ====
section
/-! DEFINITION. Rows of the loop tap (R84-R103, R275, R276, R348-R355). A row that the state does not enable leaves it as it
is. -/

namespace Sys2Proof.Machine

/-- R96, R97. -/
def execStoreRecord (s : State) : Result := .next (s.applyCm 1)

/-- R96, R97. -/
def execAddRecord (s : State) : Result := .next (s.applyCm 2)

/-- R96, R97. -/
def execClaimRecord (s : State) : Result := .next (s.applyCm 3)

/-- R99, R100. -/
def execLaunchRecord (s : State) : Result := .next s.applyLaunch

/-- R98, R269. -/
def execPteRecord (s : State) : Result := .next s.applyPte

/-- R94, R275. -/
def execPart (s : State) : Result := .next (s.applyManagement 0x20 State.partApply)

/-- R96, R275. -/
def execSysst (s : State) : Result := .next (s.applyManagement 0x21 State.sysstApply)

/-- R275. -/
def execKeyroll (s : State) : Result := .next (s.applyManagement 0x22 State.keyrollApply)

/-- R87, R92. -/
def execRecordArrival (hdr : BitVec 64) (p0 : BitVec 64) (p1 : BitVec 64) (tag : BitVec 64) (s : State) : Result :=
  .next (s.arriveRecord hdr p0 p1 tag)

/-- R90. -/
def execRecordReturn (lsn : Nat) (s : State) : Result := .next (s.returnRecord lsn)

/-- R86, R87, R101, R348: `send` is how many records the tap chooses to send. -/
def execTokenArrival (nextLsn : BitVec 64) (hz : BitVec 64) (hacc : BitVec 64) (rot : Nat) (origin : Nat) (chk : Nat) (send : Nat)
    (s : State) : Result :=
  .next (s.arriveToken { nextLsn := nextLsn.toNat, hz := hz.toNat, hacc := hacc.toNat, rot := rot, origin := origin, chk := chk }
    send).pollHbqs

/-- R349. -/
def execTokenLossTimeout (s : State) : Result := .next s.loseToken

/-- R349. -/
def execProbe (maxl : BitVec 64) (s : State) : Result := .next (s.arriveProbe maxl.toNat)

/-- R350. -/
def execRecordRepair (what : RepairOf) (hdr : BitVec 64) (p0 : BitVec 64) (p1 : BitVec 64) (tag : BitVec 64)
    (s : State) : Result :=
  .next (match what with
    | .record lsn => s.repairRecord lsn hdr p0 p1 tag
    | .request lsn => s.answerRepair lsn)

/-- R351, R352. -/
def execRecordVoid (lsn : Nat) (s : State) : Result := .next (s.voidRecord lsn)

/-- R355. -/
def execApplyStall (s : State) : Result := .next s.stallApply

/-- R353. -/
def execBypass (tap : Nat) (s : State) : Result := .next (s.bypassTap tap)

/-- R354. -/
def execJoin (tap : Nat) (s : State) : Result := .next (s.joinTap tap)

/-- R354. -/
def execSnapshotCopy (what : CopyOf) (data : List Nat) (s : State) : Result :=
  .next (match what with
    | .copy n => s.installCopy n data
    | .request first owner => s.sendCopy first owner)

/-- R88. -/
def execLoopstart (taps : Nat) (s : State) : Result := .next (s.startLoop taps)

/-- R88. -/
def execLoopgo (s : State) : Result := .next (s.goLoop)

/-- R276. -/
def execKeyload (owner : Nat) (key : Nat) (s : State) : Result := .next (s.loadKey owner key)

/-- R352, R354. -/
def execResync (owner : Nat) (s : State) : Result := .next (s.resyncOwner owner)

/-- R275. -/
def execManagementRecord (rtype : Nat) (p0 : BitVec 64) (p1 : BitVec 64) (s : State) : Result :=
  .next (s.manage rtype p0 p1)

end Sys2Proof.Machine
end

