-- ==== Sys2Proof/Machine/PreemptRows.lean ====
section
/-! DEFINITION. Rows of pre-emption and energy (R42, R52, R281, R310-R313). A row that the state does not enable leaves it as
it is. -/

namespace Sys2Proof.Machine

/-- R52, R186. -/
def execPreemptionRequest (ctx : Nat) (s : State) : Result := .next (s.requestPreempt ctx)

/-- R52, R264. -/
def execCopyIssueStop (ctx : Nat) (s : State) : Result := .next (s.stopCopies ctx)

/-- R36, R52, R312, R377. -/
def execContextSave (ctx : Nat) (s : State) : Result := .next (s.saveContext ctx)

/-- R310, R311, R320. -/
def execForcedSave (ctx : Nat) (s : State) : Result := .next (s.forceSave ctx)

/-- R42, R376. -/
def execBalanceRefill (s : State) : Result := .next s.refill

/-- R26, R42: the readings of the dies, and the active cycles of the pad groups in their order. -/
def execEnergyCharge (readings : List Nat) (active : List Nat) (s : State) : Result :=
  .next (s.chargeEnergy readings active)

/-- R281. -/
def execGovernorStep (s : State) : Result := .next s.govern

end Sys2Proof.Machine
end

