-- ==== Sys2Proof/Machine/ServiceRows.lean ====
section
/-! DEFINITION. Rows of the service registers (R118, R271, R273, R274, R330, R364). -/

namespace Sys2Proof.Machine

/-- R58, R63, R186. Host broadcast records that waited for the host's writes are read on (R274). -/
def execVersionCurrent (line : Nat) (s : State) : Result := .next (s.versionCurrent line).pollHbqs

/-- R274. -/
def execHbqTail (hbq : Nat) (tail : Nat) (s : State) : Result := .next (s.hbqDoorbell hbq tail)

/-- R330. -/
def execFresume (ctx : Nat) (addr : Nat) (s : State) : Result := .next (s.resumeParked ctx addr)

/-- R330. -/
def execVpgrow (ctx : Nat) (size : Nat) (s : State) : Result := .next (s.growPool ctx size)

/-- R271. -/
def execLtinval (ctx : Nat) (word : BitVec 64) (s : State) : Result := .next (s.writeInval ctx word.toNat)

/-- R271. -/
def execLtinvalComplete (s : State) : Result := .next s.endInval

/-- R364. -/
def execSockreset (value : Nat) (s : State) : Result := .next (s.resetSockets value)

/-- R118, R273. -/
def execLotseed (value : BitVec 64) (s : State) : Result := .next (s.seedLottery value)

/-- R273, R279. -/
def execServiceRegisterWrite (tdi : Nat) (offset : Nat) (size : Nat) (value : Nat) (s : State) : Result :=
  .next (s.writeRegister tdi offset size value)

end Sys2Proof.Machine
end

