-- ==== Sys2Proof/Machine/Dispatch.lean ====
section
/-! DEFINITION. The meaning of each instruction and machine step: one arm per constructor. -/

namespace Sys2Proof.Machine

open Sys2Proof

def exec (i : Instr) (s : State) : Host.Outcome State Fault Refusal :=
  match i with
  | .nop c g => Sys2Proof.Machine.execNop c g s
  | .yield c g => Sys2Proof.Machine.execYield c g s
  | .add c g d a b => Sys2Proof.Machine.execAdd c g d a b s
  | .sub c g d a b => Sys2Proof.Machine.execSub c g d a b s
  | .mul c g d a b => Sys2Proof.Machine.execMul c g d a b s
  | .mulhs c g d a b => Sys2Proof.Machine.execMulhs c g d a b s
  | .mulhu c g d a b => Sys2Proof.Machine.execMulhu c g d a b s
  | .mins c g d a b => Sys2Proof.Machine.execMins c g d a b s
  | .maxs c g d a b => Sys2Proof.Machine.execMaxs c g d a b s
  | .adds c g d a b => Sys2Proof.Machine.execAdds c g d a b s
  | .and c g d a b => Sys2Proof.Machine.execAnd c g d a b s
  | .or c g d a b => Sys2Proof.Machine.execOr c g d a b s
  | .xor c g d a b => Sys2Proof.Machine.execXor c g d a b s
  | .andn c g d a b => Sys2Proof.Machine.execAndn c g d a b s
  | .orn c g d a b => Sys2Proof.Machine.execOrn c g d a b s
  | .xnor c g d a b => Sys2Proof.Machine.execXnor c g d a b s
  | .minu c g d a b => Sys2Proof.Machine.execMinu c g d a b s
  | .maxu c g d a b => Sys2Proof.Machine.execMaxu c g d a b s
  | .shl c g d a b => Sys2Proof.Machine.execShl c g d a b s
  | .shr c g d a b => Sys2Proof.Machine.execShr c g d a b s
  | .sar c g d a b => Sys2Proof.Machine.execSar c g d a b s
  | .rol c g d a b => Sys2Proof.Machine.execRol c g d a b s
  | .ror c g d a b => Sys2Proof.Machine.execRor c g d a b s
  | .clz c g d a => Sys2Proof.Machine.execClz c g d a s
  | .popc c g d a => Sys2Proof.Machine.execPopc c g d a s
  | .brev c g d a => Sys2Proof.Machine.execBrev c g d a s
  | .cmpEq c g d a b => Sys2Proof.Machine.execCmpEq c g d a b s
  | .cmpNe c g d a b => Sys2Proof.Machine.execCmpNe c g d a b s
  | .cmpLt c g d a b => Sys2Proof.Machine.execCmpLt c g d a b s
  | .cmpLe c g d a b => Sys2Proof.Machine.execCmpLe c g d a b s
  | .cmpLtu c g d a b => Sys2Proof.Machine.execCmpLtu c g d a b s
  | .cmpLeu c g d a b => Sys2Proof.Machine.execCmpLeu c g d a b s
  | .cmpTst c g d a b => Sys2Proof.Machine.execCmpTst c g d a b s
  | .addi c g d a imm => Sys2Proof.Machine.execAddi c g d a imm s
  | .andi c g d a imm => Sys2Proof.Machine.execAndi c g d a imm s
  | .ori c g d a imm => Sys2Proof.Machine.execOri c g d a imm s
  | .xori c g d a imm => Sys2Proof.Machine.execXori c g d a imm s
  | .shli c g d a imm => Sys2Proof.Machine.execShli c g d a imm s
  | .shri c g d a imm => Sys2Proof.Machine.execShri c g d a imm s
  | .sari c g d a imm => Sys2Proof.Machine.execSari c g d a imm s
  | .movi c g d imm => Sys2Proof.Machine.execMovi c g d imm s
  | .movsh c g d imm => Sys2Proof.Machine.execMovsh c g d imm s
  | .add64 c g d a b => Sys2Proof.Machine.execAdd64 c g d a b s
  | .sub64 c g d a b => Sys2Proof.Machine.execSub64 c g d a b s
  | .addsx64 c g d a b => Sys2Proof.Machine.execAddsx64 c g d a b s
  | .addzx64 c g d a b => Sys2Proof.Machine.execAddzx64 c g d a b s
  | .shl64 c g d a b => Sys2Proof.Machine.execShl64 c g d a b s
  | .shr64 c g d a b => Sys2Proof.Machine.execShr64 c g d a b s
  | .sar64 c g d a b => Sys2Proof.Machine.execSar64 c g d a b s
  | .mul64 c g d a b => Sys2Proof.Machine.execMul64 c g d a b s
  | .adr c g d imm => Sys2Proof.Machine.execAdr c g d imm s
  | .fadd c g d a b r => Sys2Proof.Machine.execFadd c g d a b r s
  | .fsub c g d a b r => Sys2Proof.Machine.execFsub c g d a b r s
  | .fmul c g d a b r => Sys2Proof.Machine.execFmul c g d a b r s
  | .ffma c g d a b r => Sys2Proof.Machine.execFfma c g d a b r s
  | .ffms c g d a b r => Sys2Proof.Machine.execFfms c g d a b r s
  | .fnma c g d a b r => Sys2Proof.Machine.execFnma c g d a b r s
  | .haddBf16x2 c g d a b r => Sys2Proof.Machine.execHaddBf16x2 c g d a b r s
  | .hmulBf16x2 c g d a b r => Sys2Proof.Machine.execHmulBf16x2 c g d a b r s
  | .hfmaBf16x2 c g d a b r => Sys2Proof.Machine.execHfmaBf16x2 c g d a b r s
  | .fdot2Bf16 c g d a b r => Sys2Proof.Machine.execFdot2Bf16 c g d a b r s
  | .fmin c g d a b => Sys2Proof.Machine.execFmin c g d a b s
  | .fmax c g d a b => Sys2Proof.Machine.execFmax c g d a b s
  | .fabs c g d a => Sys2Proof.Machine.execFabs c g d a s
  | .fneg c g d a => Sys2Proof.Machine.execFneg c g d a s
  | .fcopysign c g d a b => Sys2Proof.Machine.execFcopysign c g d a b s
  | .fclass c g d a => Sys2Proof.Machine.execFclass c g d a s
  | .fcmpEq c g d a b => Sys2Proof.Machine.execFcmpEq c g d a b s
  | .fcmpNe c g d a b => Sys2Proof.Machine.execFcmpNe c g d a b s
  | .fcmpLt c g d a b => Sys2Proof.Machine.execFcmpLt c g d a b s
  | .fcmpLe c g d a b => Sys2Proof.Machine.execFcmpLe c g d a b s
  | .fcmpUn c g d a b => Sys2Proof.Machine.execFcmpUn c g d a b s
  | .fscale c g d a b r => Sys2Proof.Machine.execFscale c g d a b r s
  | .frint c g d a r => Sys2Proof.Machine.execFrint c g d a r s
  | .cvtBf16F32 c g d a r => Sys2Proof.Machine.execCvtBf16F32 c g d a r s
  | .cvtF32Bf16 c g d a r => Sys2Proof.Machine.execCvtF32Bf16 c g d a r s
  | .cvtE4m3F32 c g d a r => Sys2Proof.Machine.execCvtE4m3F32 c g d a r s
  | .cvtF32E4m3 c g d a r => Sys2Proof.Machine.execCvtF32E4m3 c g d a r s
  | .cvtI32F32 c g d a r => Sys2Proof.Machine.execCvtI32F32 c g d a r s
  | .cvtN32F32 c g d a r => Sys2Proof.Machine.execCvtN32F32 c g d a r s
  | .cvtF32I32 c g d a r => Sys2Proof.Machine.execCvtF32I32 c g d a r s
  | .cvtF32N32 c g d a r => Sys2Proof.Machine.execCvtF32N32 c g d a r s
  | .cvtI16I32 c g d a r => Sys2Proof.Machine.execCvtI16I32 c g d a r s
  | .cvtI8I32 c g d a r => Sys2Proof.Machine.execCvtI8I32 c g d a r s
  | .cvtN16N32 c g d a r => Sys2Proof.Machine.execCvtN16N32 c g d a r s
  | .cvtN8N32 c g d a r => Sys2Proof.Machine.execCvtN8N32 c g d a r s
  | .shfl c g d a b => Sys2Proof.Machine.execShfl c g d a b s
  | .shflUp c g d a b => Sys2Proof.Machine.execShflUp c g d a b s
  | .shflDown c g d a b => Sys2Proof.Machine.execShflDown c g d a b s
  | .shflXor c g d a b => Sys2Proof.Machine.execShflXor c g d a b s
  | .ballot c g d a => Sys2Proof.Machine.execBallot c g d a s
  | .rcp c g d a => Sys2Proof.Machine.execRcp c g d a s
  | .rsqrt c g d a => Sys2Proof.Machine.execRsqrt c g d a s
  | .sqrt c g d a => Sys2Proof.Machine.execSqrt c g d a s
  | .exp2 c g d a => Sys2Proof.Machine.execExp2 c g d a s
  | .log2 c g d a => Sys2Proof.Machine.execLog2 c g d a s
  | .sinpi c g d a => Sys2Proof.Machine.execSinpi c g d a s
  | .cospi c g d a => Sys2Proof.Machine.execCospi c g d a s
  | .tanh c g d a => Sys2Proof.Machine.execTanh c g d a s
  | .div c g d a b => Sys2Proof.Machine.execDiv c g d a b s
  | .divu c g d a b => Sys2Proof.Machine.execDivu c g d a b s
  | .rem c g d a b => Sys2Proof.Machine.execRem c g d a b s
  | .remu c g d a b => Sys2Proof.Machine.execRemu c g d a b s
  | .fdiv c g d a b => Sys2Proof.Machine.execFdiv c g d a b s
  | .rand c g d => Sys2Proof.Machine.execRand c g d s
  | .ld c g d a z t l => Sys2Proof.Machine.execLd c g d a z t l s
  | .lds c g d a z t l => Sys2Proof.Machine.execLds c g d a z t l s
  | .st c g d a z t l => Sys2Proof.Machine.execSt c g d a z t l s
  | .ldRo c g d a z t l => Sys2Proof.Machine.execLdRo c g d a z t l s
  | .ldAcq c g d a sf z t => Sys2Proof.Machine.execLdAcq c g d a sf z t s
  | .stRel c g d a sf z t => Sys2Proof.Machine.execStRel c g d a sf z t s
  | .pf c g a t l => Sys2Proof.Machine.execPf c g a t l s
  | .atomAdd c g d a w t => Sys2Proof.Machine.execAtomAdd c g d a w t s
  | .atomMins c g d a w t => Sys2Proof.Machine.execAtomMins c g d a w t s
  | .atomMaxs c g d a w t => Sys2Proof.Machine.execAtomMaxs c g d a w t s
  | .atomMinu c g d a w t => Sys2Proof.Machine.execAtomMinu c g d a w t s
  | .atomMaxu c g d a w t => Sys2Proof.Machine.execAtomMaxu c g d a w t s
  | .atomAnd c g d a w t => Sys2Proof.Machine.execAtomAnd c g d a w t s
  | .atomOr c g d a w t => Sys2Proof.Machine.execAtomOr c g d a w t s
  | .atomXor c g d a w t => Sys2Proof.Machine.execAtomXor c g d a w t s
  | .atomXchg c g d a w t => Sys2Proof.Machine.execAtomXchg c g d a w t s
  | .atomCas c g d a w t => Sys2Proof.Machine.execAtomCas c g d a w t s
  | .atomFadd c g d a t => Sys2Proof.Machine.execAtomFadd c g d a t s
  | .atomFmin c g d a t => Sys2Proof.Machine.execAtomFmin c g d a t s
  | .atomFmax c g d a t => Sys2Proof.Machine.execAtomFmax c g d a t s
  | .fence c g sf t => Sys2Proof.Machine.execFence c g sf t s
  | .seal c g d a sf t => Sys2Proof.Machine.execSeal c g d a sf t s
  | .unseal c g d a sf t => Sys2Proof.Machine.execUnseal c g d a sf t s
  | .watch c g d a sf t => Sys2Proof.Machine.execWatch c g d a sf t s
  | .wait g m => Sys2Proof.Machine.execWait g m s
  | .sleepUntil g a => Sys2Proof.Machine.execSleepUntil g a s
  | .barArrive g l b => Sys2Proof.Machine.execBarArrive g l b s
  | .barWait g l b => Sys2Proof.Machine.execBarWait g l b s
  | .barArriveExp g d l b => Sys2Proof.Machine.execBarArriveExp g d l b s
  | .cmLd c g d a z t => Sys2Proof.Machine.execCmLd c g d a z t s
  | .cmSt c g d a z r t y => Sys2Proof.Machine.execCmSt c g d a z r t y s
  | .cmAdd c g d a z r t y => Sys2Proof.Machine.execCmAdd c g d a z r t y s
  | .cmClaim c g d a r t y => Sys2Proof.Machine.execCmClaim c g d a r t y s
  | .cmWait c g d a z t => Sys2Proof.Machine.execCmWait c g d a z t s
  | .cmLsn c g d t => Sys2Proof.Machine.execCmLsn c g d t s
  | .cmLaunch c g d a r t y => Sys2Proof.Machine.execCmLaunch c g d a r t y s
  | .cmPte c g d a r t y => Sys2Proof.Machine.execCmPte c g d a r t y s
  | .fenceSeq c g a t => Sys2Proof.Machine.execFenceSeq c g a t s
  | .fenceSeqAll c g a t => Sys2Proof.Machine.execFenceSeqAll c g a t s
  | .shld c sf a t l => Sys2Proof.Machine.execShld c sf a t l s
  | .shst c sf a t l => Sys2Proof.Machine.execShst c sf a t l s
  | .shmod c sf d n t l => Sys2Proof.Machine.execShmod c sf d n t l s
  | .tcp c sf d a t l => Sys2Proof.Machine.execTcp c sf d a t l s
  | .tcpRed c sf d a t l => Sys2Proof.Machine.execTcpRed c sf d a t l s
  | .tcpPost c sf d a t l => Sys2Proof.Machine.execTcpPost c sf d a t l s
  | .ctrAdd c d a t l => Sys2Proof.Machine.execCtrAdd c d a t l s
  | .ctrLd c d a t l => Sys2Proof.Machine.execCtrLd c d a t l s
  | .ringArm c d a t l => Sys2Proof.Machine.execRingArm c d a t l s
  | .mma c sf z b n t l => Sys2Proof.Machine.execMma c sf z b n t l s
  | .mmaGather c sf z b n a t l => Sys2Proof.Machine.execMmaGather c sf z b n a t l s
  | .accClr c b t l => Sys2Proof.Machine.execAccClr c b t l s
  | .accLd c sf b a t l => Sys2Proof.Machine.execAccLd c sf b a t l s
  | .accSt c sf b a t l => Sys2Proof.Machine.execAccSt c sf b a t l s
  | .gsend c k d q t l => Sys2Proof.Machine.execGsend c k d q t l s
  | .qfence c k q m t l => Sys2Proof.Machine.execQfence c k q m t l s
  | .br g imm => Sys2Proof.Machine.execBr g imm s
  | .call g imm => Sys2Proof.Machine.execCall g imm s
  | .jmp g a => Sys2Proof.Machine.execJmp g a s
  | .jmpl g a => Sys2Proof.Machine.execJmpl g a s
  | .reconv g => Sys2Proof.Machine.execReconv g s
  | .kget c g d a => Sys2Proof.Machine.execKget c g d a s
  | .kset c g d a => Sys2Proof.Machine.execKset c g d a s
  | .pand c g d a b => Sys2Proof.Machine.execPand c g d a b s
  | .por c g d a b => Sys2Proof.Machine.execPor c g d a b s
  | .pxor c g d a b => Sys2Proof.Machine.execPxor c g d a b s
  | .pandn c g d a b => Sys2Proof.Machine.execPandn c g d a b s
  | .pnez c g d a => Sys2Proof.Machine.execPnez c g d a s
  | .pget c g d => Sys2Proof.Machine.execPget c g d s
  | .pset c g a => Sys2Proof.Machine.execPset c g a s
  | .exit g d n => Sys2Proof.Machine.execExit g d n s
  | .safept => Sys2Proof.Machine.execSafept s
  | .vinfo c g d n => Sys2Proof.Machine.execVinfo c g d n s
  | .trap g n => Sys2Proof.Machine.execTrap g n s
  | .sysc g n => Sys2Proof.Machine.execSysc g n s
  | .brk g n => Sys2Proof.Machine.execBrk g n s
  | .rti g => Sys2Proof.Machine.execRti g s
  | .rdsr c g d n => Sys2Proof.Machine.execRdsr c g d n s
  | .wrsr c g d n => Sys2Proof.Machine.execWrsr c g d n s
  | .rdclk c g d => Sys2Proof.Machine.execRdclk c g d s
  | .dcwb c g d n => Sys2Proof.Machine.execDcwb c g d n s
  | .icinv c g d n => Sys2Proof.Machine.execIcinv c g d n s
  | .fbar g => Sys2Proof.Machine.execFbar g s
  | .qbind c g d q => Sys2Proof.Machine.execQbind c g d q s
  | .qunbind c g q => Sys2Proof.Machine.execQunbind c g q s
  | .gbind c g d k q => Sys2Proof.Machine.execGbind c g d k q s
  | .gunbind c g k q => Sys2Proof.Machine.execGunbind c g k q s
  | .fetchFault => Sys2Proof.Machine.execFetchFault s
  | .packetResend packet => Sys2Proof.Machine.execPacketResend packet s
  | .routeStall dest => Sys2Proof.Machine.execRouteStall dest s
  | .windowRequest req => Sys2Proof.Machine.execWindowRequest req s
  | .windowClose win => Sys2Proof.Machine.execWindowClose win s
  | .atsTimeout op => Sys2Proof.Machine.execAtsTimeout op s
  | .recordVoid lsn => Sys2Proof.Machine.execRecordVoid lsn s
  | .mergeWindowHoldEnd hold => Sys2Proof.Machine.execMergeWindowHoldEnd hold s
  | .sqTail q tail => Sys2Proof.Machine.execSqTail q tail s
  | .queuePick pref => Sys2Proof.Machine.execQueuePick pref s
  | .commandComplete launch => Sys2Proof.Machine.execCommandComplete launch s
  | .dispatch core => Sys2Proof.Machine.execDispatch core s
  | .steal die launch => Sys2Proof.Machine.execSteal die launch s
  | .slotRelease core => Sys2Proof.Machine.execSlotRelease core s
  | .issueSelect core fg => Sys2Proof.Machine.execIssueSelect core fg s
  | .eftResume core fg eft => Sys2Proof.Machine.execEftResume core fg eft s
  | .reconvRelease core fg => Sys2Proof.Machine.execReconvRelease core fg s
  | .sleepWake core fg thread => Sys2Proof.Machine.execSleepWake core fg thread s
  | .barrierArrival core fg thread => Sys2Proof.Machine.execBarrierArrival core fg thread s
  | .barrierSpillArrival core fg thread => Sys2Proof.Machine.execBarrierSpillArrival core fg thread s
  | .tokenClear core fg inst => Sys2Proof.Machine.execTokenClear core fg inst s
  | .storeArrival op => Sys2Proof.Machine.execStoreArrival op s
  | .leaseLapse op => Sys2Proof.Machine.execLeaseLapse op s
  | .versionCurrent line => Sys2Proof.Machine.execVersionCurrent line s
  | .lineFetch op l2 l1 => Sys2Proof.Machine.execLineFetch op l2 l1 s
  | .atomicRequest op => Sys2Proof.Machine.execAtomicRequest op s
  | .watchTimeout op => Sys2Proof.Machine.execWatchTimeout op s
  | .taskFinish ctx rec => Sys2Proof.Machine.execTaskFinish ctx rec s
  | .contributionArrive msg => Sys2Proof.Machine.execContributionArrive msg s
  | .rootMerge msg => Sys2Proof.Machine.execRootMerge msg s
  | .preemptionRequest ctx => Sys2Proof.Machine.execPreemptionRequest ctx s
  | .copyIssueStop ctx => Sys2Proof.Machine.execCopyIssueStop ctx s
  | .contextSave ctx => Sys2Proof.Machine.execContextSave ctx s
  | .forcedSave ctx => Sys2Proof.Machine.execForcedSave ctx s
  | .balanceRefill => Sys2Proof.Machine.execBalanceRefill s
  | .energyCharge readings active => Sys2Proof.Machine.execEnergyCharge readings active s
  | .governorStep => Sys2Proof.Machine.execGovernorStep s
  | .entryTake core promise => Sys2Proof.Machine.execEntryTake core promise s
  | .entryRetire core => Sys2Proof.Machine.execEntryRetire core s
  | .entryStall entry rows => Sys2Proof.Machine.execEntryStall entry rows s
  | .cntIncrement entry => Sys2Proof.Machine.execCntIncrement entry s
  | .triggerSlotFree die slot => Sys2Proof.Machine.execTriggerSlotFree die slot s
  | .promiseRevision entry promise => Sys2Proof.Machine.execPromiseRevision entry promise s
  | .windowPost entry => Sys2Proof.Machine.execWindowPost entry s
  | .contributionCombine entry elements => Sys2Proof.Machine.execContributionCombine entry elements s
  | .contributionRetry entry => Sys2Proof.Machine.execContributionRetry entry s
  | .matrixStep core => Sys2Proof.Machine.execMatrixStep core s
  | .matrixQueueStall core => Sys2Proof.Machine.execMatrixQueueStall core s
  | .storeRecord => Sys2Proof.Machine.execStoreRecord s
  | .addRecord => Sys2Proof.Machine.execAddRecord s
  | .claimRecord => Sys2Proof.Machine.execClaimRecord s
  | .launchRecord => Sys2Proof.Machine.execLaunchRecord s
  | .pteRecord => Sys2Proof.Machine.execPteRecord s
  | .part => Sys2Proof.Machine.execPart s
  | .sysst => Sys2Proof.Machine.execSysst s
  | .keyroll => Sys2Proof.Machine.execKeyroll s
  | .recordArrival hdr p0 p1 tag => Sys2Proof.Machine.execRecordArrival hdr p0 p1 tag s
  | .recordReturn lsn => Sys2Proof.Machine.execRecordReturn lsn s
  | .tokenArrival nextLsn hz hacc rot origin chk send => Sys2Proof.Machine.execTokenArrival nextLsn hz hacc rot origin chk send s
  | .tokenLossTimeout => Sys2Proof.Machine.execTokenLossTimeout s
  | .probe maxl => Sys2Proof.Machine.execProbe maxl s
  | .recordRepair what hdr p0 p1 tag => Sys2Proof.Machine.execRecordRepair what hdr p0 p1 tag s
  | .applyStall => Sys2Proof.Machine.execApplyStall s
  | .bypass tap => Sys2Proof.Machine.execBypass tap s
  | .join tap => Sys2Proof.Machine.execJoin tap s
  | .snapshotCopy what data => Sys2Proof.Machine.execSnapshotCopy what data s
  | .loopstart taps => Sys2Proof.Machine.execLoopstart taps s
  | .loopgo => Sys2Proof.Machine.execLoopgo s
  | .setowners members port portOwners => Sys2Proof.Machine.execSetowners members port portOwners s
  | .setroute dest ports weights hops => Sys2Proof.Machine.execSetroute dest ports weights hops s
  | .portdrain port => Sys2Proof.Machine.execPortdrain port s
  | .portup port => Sys2Proof.Machine.execPortup port s
  | .setppt owner base size => Sys2Proof.Machine.execSetppt owner base size s
  | .keyload owner key => Sys2Proof.Machine.execKeyload owner key s
  | .resync owner => Sys2Proof.Machine.execResync owner s
  | .fabricPacket flow seqNo owner port kind ref addr data => Sys2Proof.Machine.execFabricPacket flow seqNo owner port kind ref addr data s
  | .portDown port => Sys2Proof.Machine.execPortDown port s
  | .ownerreject packet port => Sys2Proof.Machine.execOwnerreject packet port s
  | .remoteAccessFailed op cause => Sys2Proof.Machine.execRemoteAccessFailed op cause s
  | .winOpen tdi => Sys2Proof.Machine.execWinOpen tdi s
  | .winRevoke tdi => Sys2Proof.Machine.execWinRevoke tdi s
  | .hbqTail hbq tail => Sys2Proof.Machine.execHbqTail hbq tail s
  | .fresume ctx addr => Sys2Proof.Machine.execFresume ctx addr s
  | .vpgrow ctx size => Sys2Proof.Machine.execVpgrow ctx size s
  | .ltinval ctx word => Sys2Proof.Machine.execLtinval ctx word s
  | .ltinvalComplete => Sys2Proof.Machine.execLtinvalComplete s
  | .sockreset value => Sys2Proof.Machine.execSockreset value s
  | .lotseed value => Sys2Proof.Machine.execLotseed value s
  | .serviceRegisterWrite tdi offset size value => Sys2Proof.Machine.execServiceRegisterWrite tdi offset size value s
  | .capabilityRecord sock vendor nq ver tcent clines => Sys2Proof.Machine.execCapabilityRecord sock vendor nq ver tcent clines s
  | .packetPull sock q done pull => Sys2Proof.Machine.execPacketPull sock q done pull s
  | .bindack sock q => Sys2Proof.Machine.execBindack sock q s
  | .qstate sock q unbound stalled returned completed => Sys2Proof.Machine.execQstate sock q unbound stalled returned completed s
  | .invack sock id => Sys2Proof.Machine.execInvack sock id s
  | .guestFault sock w0 addr info detail => Sys2Proof.Machine.execGuestFault sock w0 addr info detail s
  | .guestRead sock ctx pa => Sys2Proof.Machine.execGuestRead sock ctx pa s
  | .ownershipRequest sock ctx pa => Sys2Proof.Machine.execOwnershipRequest sock ctx pa s
  | .writeBack sock ctx pa sectors data keep => Sys2Proof.Machine.execWriteBack sock ctx pa sectors data keep s
  | .recallAnswer sock line sectors data => Sys2Proof.Machine.execRecallAnswer sock line sectors data s
  | .guestAtomic sock ctx pa aop wide x y => Sys2Proof.Machine.execGuestAtomic sock ctx pa aop wide x y s
  | .translationRequest sock ctx va write => Sys2Proof.Machine.execTranslationRequest sock ctx va write s
  | .guestDutyTimeout sock cause => Sys2Proof.Machine.execGuestDutyTimeout sock cause s
  | .linkRetrain sock ok => Sys2Proof.Machine.execLinkRetrain sock ok s
  | .hostSnoop line data => Sys2Proof.Machine.execHostSnoop line data s
  | .cxlMemAccess pa size write data => Sys2Proof.Machine.execCxlMemAccess pa size write data s
  | .atsInvalidation page psize => Sys2Proof.Machine.execAtsInvalidation page psize s
  | .hostLinkError down back => Sys2Proof.Machine.execHostLinkError down back s
  | .tdiLeaveRun tdi => Sys2Proof.Machine.execTdiLeaveRun tdi s
  | .attestationRequest nonce => Sys2Proof.Machine.execAttestationRequest nonce s
  | .softError storage unit index correctable => Sys2Proof.Machine.execSoftError storage unit index correctable s
  | .hbmFailure what unit pa => Sys2Proof.Machine.execHbmFailure what unit pa s
  | .readyBitRise bit => Sys2Proof.Machine.execReadyBitRise bit s
  | .liveUpdate version lo hi signed => Sys2Proof.Machine.execLiveUpdate version lo hi signed s
  | .watchdogFailover => Sys2Proof.Machine.execWatchdogFailover s
  | .moduleReset => Sys2Proof.Machine.execModuleReset s
  | .drain what unit => Sys2Proof.Machine.execDrain what unit s
  | .discard ctx => Sys2Proof.Machine.execDiscard ctx s
  | .tdispRequest tdi owner message hbqs => Sys2Proof.Machine.execTdispRequest tdi owner message hbqs s
  | .hostSync => Sys2Proof.Machine.execHostSync s
  | .managementRecord rtype p0 p1 => Sys2Proof.Machine.execManagementRecord rtype p0 p1 s
  | .mirrorPeriodEnd => Sys2Proof.Machine.execMirrorPeriodEnd s

end Sys2Proof.Machine
end

