-- ==== Sys2Proof/Machine/Schedule.lean ====
section
/-! DEFINITION. The steps that the machine may take by itself in a state (R6, R7): the candidates from which the default
schedule picks when the agenda names none (log entry 5). What only the outside does (tokens, packets, host and guest
messages, commands of system software and of the fabric manager, failures, meter readings) comes from the agenda. -/

namespace Sys2Proof.Machine

/-- File groups that have a run ready. -/
def State.issueMoves (s : State) : List Instr :=
  s.pads.flatMap fun p => (mapFrom (fun fg g => (fg, g)) 0 p.fgs).filterMap fun x =>
    if p.issues x.2 && !x.2.table.isEmpty then some (.issueSelect p.core x.1) else none

/-- Steps of a thread that waits. -/
def threadMoves (core fg n : Nat) (t : Thread) : List Instr :=
  (if t.wait = .sleep then [.sleepWake core fg n] else []) ++
  (match t.barrier with
   | .arriving _ _ _ _ => [.barrierArrival core fg n, .barrierSpillArrival core fg n]
   | _ => []) ++
  t.outs.map fun o => .tokenClear core fg o.inst

/-- Steps of a file group: its `reconv`, its efts and its threads. -/
def groupMoves (core fg : Nat) (g : FileGroup) : List Instr :=
  [.reconvRelease core fg] ++ g.efts.map (fun e => .eftResume core fg e.num) ++
    (mapFrom (fun n t => threadMoves core fg n t) 0 g.threads).flatten

/-- Steps of an entry; the bytes and elements of a step and a revised promise are open choices (R6). -/
def entryMoves (pick : Nat) (e : Entry) : List Instr :=
  (match e.op with
   | 2 => [.contributionCombine e.id (1 + pick % 4096), .contributionRetry e.id]
   | 3 => [.windowPost e.id]
   | _ => [.entryStall e.id (1 + pick % 65536)]) ++
  (if e.cnt then [.cntIncrement e.id] else []) ++ [.promiseRevision e.id (e.promise + 1 + pick % 65536)]

/-- Steps of a pad group and its engines. -/
def padMoves (pick : Nat) (p : Pad) : List Instr :=
  [.slotRelease p.core, .entryTake p.core pick, .entryRetire p.core] ++
    (if p.mq.isEmpty then [] else [.matrixStep p.core, .matrixQueueStall p.core]) ++
    p.ring.flatMap (entryMoves pick) ++ (mapFrom (fun fg g => groupMoves p.core fg g) 0 p.fgs).flatten

/-- Steps of an access in flight; the leases granted are open choices (R61). -/
def opMoves (pick : Nat) (o : Op) : List Instr :=
  match o.kind with
  | .store _ _ => [.storeArrival o.id, .leaseLapse o.id]
  | .atomic _ _ _ _ _ => [.atomicRequest o.id, .leaseLapse o.id]
  | .counter _ (some _) _ => [.atomicRequest o.id]
  | .watch _ _ _ _ => [.lineFetch o.id 0 0, .watchTimeout o.id]
  | .load _ _ _ _ => [.lineFetch o.id (pick % 4097) (pick / 4097 % 1025)]
  | .loadRo _ _ => [.lineFetch o.id (pick % 4097) (pick / 4097 % 1025)]
  | .prefetch => [.lineFetch o.id (pick % 4097) (pick / 4097 % 1025)]
  | .shapeLoad _ => [.lineFetch o.id (pick % 4097) (pick / 4097 % 1025)]
  | .counter _ none _ => [.lineFetch o.id (pick % 4097) (pick / 4097 % 1025)]
  | .ats => [.atsTimeout o.id]
  | _ => []

/-- Steps of the home agents. -/
def State.memMoves (s : State) (pick : Nat) : List Instr :=
  s.mem.ops.flatMap (opMoves pick) ++ s.mem.pend.map (fun v => .versionCurrent v.line) ++
    (if s.faultQs.isEmpty && s.service.hbqs.all (fun k => decide (k.next = k.tail)) then [] else [.versionCurrent 0]) ++
    s.mem.merges.flatMap (fun m => [.contributionArrive m.id, .rootMerge m.id]) ++
    s.mem.records.map (fun r => .taskFinish r.ctx r.va) ++ s.mem.holds.map fun h => .mergeWindowHoldEnd h.id

/-- Steps of the front end and the dispatchers. -/
def State.frontMoves (s : State) : List Instr :=
  (if s.queues.any fun q => q.bound.isSome then [.queuePick []] else []) ++
  (if s.launches.isEmpty then [] else (upFrom 0 1152).map .dispatch) ++
  s.launches.flatMap (fun l => .commandComplete l.id :: (upFrom 0 24).map fun d => .steal d l.id) ++
  s.preempts.flatMap (fun p => [.copyIssueStop p.ctx, .contextSave p.ctx, .forcedSave p.ctx]) ++
  (if 1000000 ≤ s.clk then [.balanceRefill] else []) ++ (if 1000 ≤ s.clk then [.governorStep] else [])

/-- Steps of the loop tap, the fabric die and the service registers. -/
def State.edgeMoves (s : State) : List Instr :=
  (if s.tap.pending.isEmpty then []
   else [.storeRecord, .addRecord, .claimRecord, .launchRecord, .pteRecord, .part, .sysst, .keyroll]) ++
  (if s.tap.timer.isSome then [.tokenLossTimeout] else []) ++ (if s.tap.lagSince.isSome then [.applyStall] else []) ++
  s.tap.missing.map (fun m => .recordVoid m.1) ++
  s.fabric.inbound.map (fun q => .windowRequest q.id) ++
  s.fabric.windows.filterMap (fun w => if w.2.state = 2 then some (.windowClose w.1) else none) ++
  s.fabric.packets.flatMap (fun k => [.packetResend k.id, .routeStall k.dest]) ++
  (if s.service.ltInval.isSome then [.ltinvalComplete] else []) ++
  if s.firmware.previous.isSome then [.mirrorPeriodEnd] else []

/-- The steps that may come next. A step that the state does not enable leaves it as it is. -/
def State.moves (s : State) : List Instr :=
  let pick := Config.pick s.seq
  s.issueMoves ++ s.pads.flatMap (padMoves pick) ++
    s.triggers.flatMap (fun e => (e.armedDie.map fun d => Instr.triggerSlotFree d e.slot).toList ++ entryMoves pick e) ++
    s.memMoves pick ++ s.frontMoves ++ s.edgeMoves

end Sys2Proof.Machine
end

