-- ==== Sys2Proof/Machine/Turn.lean ====
section
/-! DEFINITION. One turn of the machine: the chain group that the issue unit has chosen runs, or the next entry of the
agenda, or a step of the default schedule (log entries 4 and 5). And how a word is laid before the fetch. -/

namespace Sys2Proof.Machine

/-- A turn is over: time has passed, no group is chosen, and the choices of the next turn are fresh ones. -/
def State.endTurn (dt : Nat) (s : State) : State :=
  { s with cur := none, clk := s.clk + dt, seq := s.seq + 1, memBusy := Config.memBusy s.seq }

/-- A turn that chose a group is over; the group runs in the next turn, which finds the memory issue queues as the choice
found them. Another row's turn leaves them as they will be found by the next. Host invalidations that nothing holds any more
are completed (R268). Whether the host answers the next translation requests is open (R367; DESIGN CHOICE, log entry 16),
and so is whether the active firmware complex gives a heartbeat (R369; DESIGN CHOICE, log entry 40). -/
def State.endChoice (dt : Nat) (s : State) : State :=
  let s := s.settleAts
  let s := if Config.heartbeat s.seq && s.readyBit 85 then
      { s with firmware := { s.firmware with heartbeat := s.clk } } else s
  let silent := Config.atsSilent s.seq
  let s := if s.service.atsSilent && !silent && s.service.linkUp then s.atsBack else s
  { s with clk := s.clk + dt, seq := s.seq + 1,
           memBusy := if s.cur.isSome then s.memBusy else Config.memBusy s.seq
           service := { s.service with atsSilent := silent } }

/-- An outcome with its next state changed. -/
def mapNext (f : State → State) : Result → Result
  | .next s => .next (f s)
  | .fault x => .fault x
  | .refused x => .refused x

/-- A lane that completes the group has been turned back at an earlier word of it (R236). -/
def State.turnedBack (s : State) (r : Run) (plan : Plan) (w : GWord) (l : Nat) : Bool :=
  decide (l ∈ plan.normal) && (upFrom 0 w.index).any fun k =>
    decide ((s.thread? r.core r.fg l).map (·.pc) = some (BitVec.ofNat 57 (r.start.toNat + 4 * k)))

/-- The state in which a word of a group is executed: the run is at the word, its lanes are those the word reaches, and
registers are read as they stood before the group (R129). -/
def State.atWord (s : State) (r : Run) (g : FileGroup) (plan : Plan) (w : GWord) : State :=
  { s with cur := some { r with
      lanes := r.lanes.filter fun l => !s.turnedBack r plan w l &&
        decide (l ∈ plan.normal ∨ ∃ f ∈ plan.efts, f.lane = l ∧ w.index < f.index)
      pc := BitVec.ofNat 57 w.pc
      index := w.index
      snap := some g } }

/-- A word's effect shows to the words after its group only: a write of a k register, which binds ports too, or of a special
register (R129, R173, R248). -/
def lateWord : Instr → Bool
  | .kset _ _ _ _ => true
  | .wrsr _ _ _ _ => true
  | _ => false

/-- The words of a group in the order in which they take effect: those whose writes the group may not see come last. -/
def effectOrder (ws : List GWord) : List GWord := (ws.filter fun w => !lateWord w.instr) ++ ws.filter fun w => lateWord w.instr

/-- The operands of the words of a group that pop ports, for the lanes that execute them, read before any word writes
(R129, R135): word index, lane, values. -/
def State.gather (s : State) (r : Run) (g : FileGroup) : List GWord → List (Nat × Nat × List Word)
  | [] => []
  | w :: rest =>
    if w.instr.pops.isEmpty then s.gather r g rest
    else
      let x := s.collect { r with snap := some g, ops := [] } w.instr.reads (r.executing g w.instr)
      x.2.map (fun y => (w.index, y.1, y.2)) ++ x.1.gather r g rest

/-- The words of a group executed one after another. -/
def runWords (r : Run) (g : FileGroup) (plan : Plan) : List GWord → State → Result
  | [], s => .next s
  | w :: rest, s =>
    match exec w.instr (s.atWord r g plan w) with
    | .next s' => runWords r g plan rest s'
    | o => o

/-- The words of a group with their places. -/
def placeWords (start : Nat) : Nat → List Instr → List GWord
  | _, [] => []
  | n, i :: rest => { instr := i, index := n, pc := (start + 4 * n) % 2 ^ 57 } :: placeWords start (n + 1) rest

/-- The address after the last word of a group. -/
def afterGroup (ws : List GWord) : Nat :=
  match ws.getLast? with
  | some w => afterWordPc w.instr w.pc
  | none => 0

/-- A group of two or three words issues, when every word of it passes its interlocks (R129, R136). -/
def State.runGroup (s : State) (r : Run) (p : Pad) (g : FileGroup) (ws : List GWord) : Result :=
  if s.groupReady r p g (ws.map (·.instr)) then
    let r := { r with ops := s.gather r g ws }
    let plan := s.plan r p g ws
    mapNext (fun s => s.conclude r plan) (runWords r g plan (effectOrder ws) (s.advance r plan.normal (afterGroup ws)))
  else .next s

/-- The chosen run fetches its next chain group, which is decoded and issues (R47, R314, R317). -/
def State.runStep (s : State) (r : Run) : Result :=
  match s.pad? r.core, s.fg? r.core r.fg with
  | some p, some g =>
    match s.fetchGroup p g r.start.toNat with
    | .error _ => exec .fetchFault s
    | .ok ws =>
      let r := { r with words := ws }
      let s := { s.keepFetched p r.fg r.start.toNat ws with cur := some r }
      match decodeGroup p r.start.toNat 0 [] ws with
      | .error (n, cause) => .next (if handleHeld g r.lanes ws n cause then s else s.decodeTrap r ws n cause)
      | .ok [i] => exec i s
      | .ok is => s.runGroup r p g (placeWords r.start.toNat 0 is)
  | _, _ => .next s

/-- The step that the default schedule takes: one of those that may come next, as `Config.turn` has it (log entry 5). -/
def State.defaultMove (s : State) : Option Instr :=
  let ms := s.moves
  if ms.isEmpty then none else ms[Config.turn s.seq % ms.length]?

/-- One turn. -/
def State.turn (s : State) : Result :=
  match s.cur with
  | some r => mapNext (State.endTurn (Config.elapsed s.seq)) (s.runStep r)
  | none =>
    match s.agenda with
    | (dt, e) :: rest => mapNext (State.endChoice 0) (exec e { s with agenda := rest, clk := s.clk + dt })
    | [] => match s.defaultMove with
      | some e => mapNext (State.endChoice (Config.elapsed s.seq)) (exec e s)
      | none => .next (s.endChoice (Config.elapsed s.seq))

/-! ### A word before the fetch (log entry 3) -/

/-- The context, the tables that map the first gigabyte of its space to the same physical addresses, and the code page
of the word that `withFetchWord` lays down. -/
def fetchCtx : Nat := 1
/-- Its code address, a packet address. -/
def fetchPc : Nat := 0xC000
/-- Its owner. -/
def fetchOwner : Nat := 1
/-- Its level-0 table. -/
def fetchRoot : Nat := 0x2000
/-- Its level-1 table. -/
def fetchLevel1 : Nat := 0x3000

/-- The thread that fetches the word: entered as R38 has it. -/
def fetchThread : Thread := { Thread.gone with pc := BitVec.ofNat 57 fetchPc, exited := false }

/-- A trap bank and file group as at task entry (R38). -/
def fetchGroup0 : FileGroup :=
  { kregs := [], bars := List.replicate 8 (BarWord.fresh 1), level := 0, bank1 := TrapBank.zero,
    bank2 := TrapBank.zero, tscr := List.replicate 6 0, threads := [fetchThread], exited := false, halted := false,
    efts := [], splits := [], pendTraps := [], delivered := [], fetched := [], born := 0, cycles := 0 }

/-- A pad group of one thread on core 0 (R38). -/
def fetchPad : Pad :=
  { core := 0, uid := 0, ctx := fetchCtx, launch := 0, unit := 0, unitPos := 0, grain := 0, index := 0, slot := none, nf := 1,
    nt := 1, spad := 1, lb := 0, fgs := [fetchGroup0], scratch := [], scratchWt := [],
    bars := List.replicate 16 (BarWord.fresh 1), shapes := List.replicate 16 0, ring := [], mq := [], accUsed := false,
    succ := none, seed := 0, pushed := false, nextPush := 0, views := [], vrec := 0, stopped := false, spadBad := [] }

/-- The run chosen to issue that thread's next group. -/
def fetchRun : Run := mkRun 0 0 fetchPc [0] 1 []

/-- A table entry: valid, a table or a writable page, with a frame (R270). -/
def fetchEntry (table : Bool) (frame : Nat) : Nat :=
  2 ^ 63 + (if table then 2 ^ 62 else 2 ^ 61) + frame

/-- The bytes of a number put into module memory as they stand. -/
def State.poke (s : State) (key n v : Nat) : State :=
  s.mapMem fun m => { m with bytes := tabSetMany 0 m.bytes key (leBytes n v) }

/-- A resident thread whose next chain group is the word w, and the issue unit's choice of it. -/
def State.layWord (s : State) (w : Nat) : State :=
  let s := { s with
    pads := [fetchPad]
    cur := some fetchRun
    fabric := { s.fabric with owners := [fetchOwner] }
    service := { s.service with ctxTab := 0x1000 } }
  let s := s.poke (0x1000 + 32 * fetchCtx) 2 1
  let s := s.poke (0x1000 + 32 * fetchCtx + 2) 2 fetchOwner
  let s := s.poke (0x1000 + 32 * fetchCtx + 8) 8 fetchRoot
  let s := s.poke fetchRoot 8 (fetchEntry true fetchLevel1)
  let s := s.poke fetchLevel1 8 (fetchEntry false 0)
  s.poke fetchPc 4 w

end Sys2Proof.Machine
end

