-- ==== Sys2Proof/Reals.lean ====
section
/-! DEFINITION. FP32 words as real numbers: the terms in which the functions of R167 are stated. -/

namespace Sys2Proof.Machine

/-- The real number that a value stands for; a NaN or an infinity stands for none, here 0. -/
noncomputable def FVal.real : FVal → ℝ
  | .num neg n d => (if neg then -1 else 1) * (n / d)
  | _ => 0

/-- The word of a magnitude code with the sign bit clear. -/
def magWord (code : Nat) : Word := BitVec.ofNat 32 code

/-- The part of an exact result within which a fixed-point evaluation tells its neighbours (log entry 14). -/
noncomputable def slack : ℝ := 2 ^ (-100 : Int)

/-- The word is one of the two FP32 values next to the real number y, or y itself (R167): it is no NaN, it has y's sign, the
value below it in magnitude lies below y's, and the value above it above y's, where these are numbers. Both are told to
within the part e of y. -/
def NextTo (e y : ℝ) (w : Word) : Prop :=
  let m := w.toNat % 2 ^ 31
  m ≤ 0x7F800000 ∧ (y < 0 → w.toNat / 2 ^ 31 = 1) ∧ (0 < y → w.toNat / 2 ^ 31 = 0) ∧ (y = 0 → m = 0) ∧
    (0 < m → (f32 (magWord (m - 1))).real < |y| * (1 + e)) ∧
    (m < 0x7F7FFFFF → |y| * (1 - e) < (f32 (magWord (m + 1))).real)

/-- Where FP32 holds the real number y, the word is that value (R167). -/
def Alone (y : ℝ) (w : Word) : Prop :=
  ∀ q : Word, q.toNat % 2 ^ 31 ≤ 0x7F7FFFFF → (f32 q).real = y → (f32 w).real = y ∧ w.toNat % 2 ^ 31 ≤ 0x7F7FFFFF

end Sys2Proof.Machine
end

