-- ==== Sys2Proof/Safety.lean ====
section
/-! DEFINITION. The terms that claims about the machine are stated in: when a word issues and completes for its lanes, what
an update leaves unchanged, and the invariants of the state. -/

namespace Sys2Proof.Machine

/-! ### A word that issues -/

/-- In s the issue unit has chosen the run r of pad group p and file group g, whose next chain group is the one word i;
the word passes its interlocks (R136), no lane meets a fault at it (R321), and no lane stands in the run twice (R47). -/
structure Issues (s : State) (i : Instr) (r : Run) (p : Pad) (g : FileGroup) : Prop where
  running : s.running = some (r, p, g)
  alone : r.snap = none
  own : r.ops = []
  place : r.index = 0
  ready : s.wordReady r p g i = true
  clean : s.laneFaults r p g 0 i = []
  once : r.lanes.Nodup

/-- No operand of the word is a queue port (R135). -/
def NoPorts (i : Instr) : Prop := (∀ n ∈ i.reads, n < 56) ∧ ∀ n ∈ i.writes, n < 56

/-- The word address behind a word of a group of its own (R127). -/
def nextPc (i : Instr) (r : Run) : BitVec 57 := BitVec.ofNat 57 (afterWordPc i r.pc.toNat)

/-- The state in which a word's own effect starts, but for its token: every lane of the run has issued the word and stands
behind it (R48, R127, R133), and lookahead windows have moved on, which a word of R137's list ends for the lanes that execute it. -/
def State.issued (s : State) (r : Run) (g : FileGroup) (i : Instr) : State :=
  (s.advance r r.lanes (afterWordPc i r.pc.toNat)).mapLanes r.core r.fg r.lanes fun l t =>
    t.tick r.inst r.pc (i.endsWindows && decide (l ∈ r.executing g i))

/-- The run as a word's own effect sees it: registers read as before the group (R129). -/
def Run.inWord (r : Run) (g : FileGroup) : Run := { r with snap := some g }

/-- The state in which a word's own effect starts: issued, and its token set for the lanes that execute it (R136). -/
def State.atEffect (s : State) (r : Run) (g : FileGroup) (i : Instr) : State :=
  if (r.executing g i).isEmpty then s.issued r g i else (s.issued r g i).addOuts (r.inWord g) (r.executing g i) i

/-! ### Frames -/

/-- A pad group without its threads. -/
def Pad.noThreads (p : Pad) : Pad := { p with fgs := p.fgs.map fun g => { g with threads := [] } }

/-- A pad group without its threads and k files. -/
def Pad.noFiles (p : Pad) : Pad := { p with fgs := p.fgs.map fun g => { g with threads := [], kregs := [] } }

/-- The two states are the same but for threads: memory, every queue, control memory, the fabric, the service registers,
the k files, the trap banks, the scratchpads, and all else. -/
def SameButThreads (s t : State) : Prop :=
  { t with pads := s.pads } = s ∧ ∀ c, (t.pad? c).map Pad.noThreads = (s.pad? c).map Pad.noThreads

/-- Threads outside a set of lanes of one file group are the same. -/
def SameOtherThreads (s t : State) (core fg : Nat) (lanes : List Nat) : Prop :=
  ∀ c f l, ¬ (c = core ∧ f = fg ∧ l ∈ lanes) → t.thread? c f l = s.thread? c f l

/-- A thread is the same but for what a word's issue and its results change: the pc, registers, predicates, the
generator, outstanding instructions, and the issue unit's own counters. -/
def SameButResults (old new : Thread) : Prop :=
  new = { old with pc := new.pc, regs := new.regs, preds := new.preds, rng := new.rng, outs := new.outs,
                   age := new.age, quiet := new.quiet }

/-- What a word that works on threads alone leaves: nothing else changes, a lane whose guard is false only moves on (R133),
and for a lane that executes it `post` tells the old and the new thread. -/
structure LaneResult (s t : State) (i : Instr) (r : Run) (g : FileGroup)
    (post : Nat → Thread → Thread → Prop) : Prop where
  rest : SameButThreads s t
  others : SameOtherThreads s t r.core r.fg r.lanes
  lanes : ∀ l ∈ r.lanes, ∀ old, g.threads[l]? = some old → ∃ new, t.thread? r.core r.fg l = some new ∧
    SameButResults old new ∧
    (l ∉ r.executing g i → new.pc = nextPc i r ∧ new.regs = old.regs ∧ new.preds = old.preds ∧ new.rng = old.rng) ∧
    (l ∈ r.executing g i → post l old new)

/-- The lane has `v` in register d and is otherwise as it was, at the next word; g0 takes nothing (R134). -/
def WroteReg (d : Nat) (v : Word) (pc : BitVec 57) (old new : Thread) : Prop :=
  new.pc = pc ∧ new.preds = old.preds ∧ new.rng = old.rng ∧ (d ≠ 0 → new.reg d = v) ∧ ∀ n, n ≠ d → new.reg n = old.reg n

/-- The lane has `v` in the pair at d; the pair g0 takes nothing (R134). -/
def WrotePair (d : Nat) (v : BitVec 64) (pc : BitVec 57) (old new : Thread) : Prop :=
  new.pc = pc ∧ new.preds = old.preds ∧ new.rng = old.rng ∧ (d ≠ 0 → new.pair d = v) ∧
    ∀ n, n ≠ d → n ≠ pairHi d → new.reg n = old.reg n

/-- The lane has `v` in predicate d; p7 takes nothing (R134). -/
def WrotePred (d : Nat) (v : Bool) (pc : BitVec 57) (old new : Thread) : Prop :=
  new.pc = pc ∧ new.regs = old.regs ∧ new.rng = old.rng ∧ (d < 7 → new.pred d = v) ∧ ∀ n, n ≠ d → new.pred n = old.pred n

/-- The lane has `v` in register d and its generator has moved on to `rng` (R115). -/
def WroteDrawn (d : Nat) (v : Word) (rng : BitVec 64) (pc : BitVec 57) (old new : Thread) : Prop :=
  new.pc = pc ∧ new.preds = old.preds ∧ new.rng = rng ∧ (d ≠ 0 → new.reg d = v) ∧ ∀ n, n ≠ d → new.reg n = old.reg n

/-- Registers, predicates and the generator of a lane are as they were. -/
def Kept (old new : Thread) : Prop := new.regs = old.regs ∧ new.preds = old.preds ∧ new.rng = old.rng

/-- The two states are the same but for threads and k files. -/
def SameButFiles (s t : State) : Prop :=
  { t with pads := s.pads } = s ∧ ∀ c, (t.pad? c).map Pad.noFiles = (s.pad? c).map Pad.noFiles

/-! ### The canonical form of a state -/

/-- A register file lists strictly rising register numbers and no register that holds 0. -/
def Thread.tidy (t : Thread) : Prop := tabWf (0 : Word) t.regs = true

/-- The tables of a file group are canonical. -/
def FileGroup.tidy (g : FileGroup) : Prop := tabWf (0 : Word) g.kregs = true ∧ ∀ t ∈ g.threads, t.tidy

/-- The tables of a pad group are canonical. -/
def Pad.tidy (p : Pad) : Prop := tabWf (0 : Byte) p.scratch = true ∧ ∀ g ∈ p.fgs, g.tidy

/-- A receive window lists no partial and no count that is 0. -/
def Window.tidy (w : Window) : Prop := tabWf (0 : Nat) w.partials = true ∧ tabWf (0 : Nat) w.counts = true

/-- The state's tables are canonical: memory, scratchpads, k files and register files, accumulators, control memory and
the loop keys, the fabric's sequence numbers and windows, the guest queues, and what receive windows hold. -/
structure State.Tidy (s : State) : Prop where
  mem : s.mem.wf = true
  pads : ∀ p ∈ s.pads, p.tidy
  acc : tabWf (0 : BitVec 80) s.acc = true
  cmem : tabWf (0 : Byte) s.tap.cmem = true
  keys : tabWf (0 : Nat) s.tap.keys = true
  numbers : tabWf (0 : Nat) s.fabric.expectSeq = true
  exports : tabWf ExportWindow.zero s.fabric.windows = true
  queues : ∀ k ∈ s.sockets, tabWf GQueue.zero k.queues = true
  windows : ∀ w ∈ s.mem.windows, w.tidy

/-- Every die has its record, and runs between 1.0 and 2.0 GHz (R23, R281). -/
def State.ClocksInRange (s : State) : Prop := s.dies.length = 25 ∧ ∀ d ∈ s.dies, 10 ≤ d.clock ∧ d.clock ≤ 20

/-! ### Words whose result is one register, pair or predicate -/

/-- The operand values that a thread's own registers give a word, by position; g0 reads 0 (R134). -/
def Thread.operands (t : Thread) (reads : List Nat) : Nat → Word := nth (reads.map t.reg)

/-- The operand values that the lanes of a run read in order, each popping the ports it reads, in operand order, and the
state after their pops (R8, R135). -/
def State.laneReads (s : State) (r : Run) (g : FileGroup) (reads : List Nat) : List Nat → State × List (Nat × List Word)
  | [] => (s, [])
  | l :: rest =>
    let x := s.readRegs r.core r.fg l (g.thread l) reads
    let y := x.1.laneReads r g reads rest
    (y.1, (l, x.2) :: y.2)

/-- The word in any form, queue ports among its operands or its destination (R135): the executing lanes read, in order,
before any lane writes (R8); then each writes, in order, what `w` gives for its operand values. -/
def PortForms (s : State) (i : Instr) (reads : List Nat) (w : Thread → (Nat → Word) → LaneWrite) : Prop :=
  ∀ r p g, Issues s i r p g → exec i s = .next
    (let x := (s.atEffect r g i).laneReads r g reads (r.executing g i)
     x.2.foldl (fun u y => u.applyWrite r.core r.fg y.1 (w (g.thread y.1) (nth y.2))) x.1)

/-- The word completes: each executing lane has in register d what f gives for its old operands, and nothing else
changes; with ports among them it pops and pushes them. -/
def RegWord (s : State) (i : Instr) (reads : List Nat) (d : Nat) (f : Thread → (Nat → Word) → Word) : Prop :=
  (∀ r p g, Issues s i r p g → NoPorts i → (∀ t ∈ g.threads, t.tidy) → ∃ t, exec i s = .next t ∧
    LaneResult s t i r g fun _ old new => WroteReg d (f old (old.operands reads)) (nextPc i r) old new) ∧
  PortForms s i reads fun old v => writeOne d (f old v)

/-- The word completes: each executing lane has in register d what f gives it, by its number, for its old operands, and
nothing else changes; with ports among them it pops and pushes them. -/
def NumberedWord (s : State) (i : Instr) (reads : List Nat) (d : Nat) (f : Nat → (Nat → Word) → Word) : Prop :=
  ∀ r p g, Issues s i r p g →
    (NoPorts i → (∀ t ∈ g.threads, t.tidy) → ∃ t, exec i s = .next t ∧
      LaneResult s t i r g fun l old new => WroteReg d (f l (old.operands reads)) (nextPc i r) old new) ∧
    exec i s = .next
      (let x := (s.atEffect r g i).laneReads r g reads (r.executing g i)
       x.2.foldl (fun u y => u.applyWrite r.core r.fg y.1 (writeOne d (f y.1 (nth y.2)))) x.1)

/-- The same for a pair. -/
def PairWord (s : State) (i : Instr) (reads : List Nat) (d : Nat) (f : Thread → (Nat → Word) → BitVec 64) : Prop :=
  (∀ r p g, Issues s i r p g → NoPorts i → (∀ t ∈ g.threads, t.tidy) → ∃ t, exec i s = .next t ∧
    LaneResult s t i r g fun _ old new => WrotePair d (f old (old.operands reads)) (nextPc i r) old new) ∧
  PortForms s i reads fun old v => writePair d (f old v)

/-- The word completes: each executing lane has in register d what f gives for its place, and nothing else changes; a port
named as d is pushed by the lanes in turn. -/
def PlaceWord (s : State) (i : Instr) (d : Nat) (f : Run → Pad → FileGroup → Nat → Thread → Word) : Prop :=
  ∀ r p g, Issues s i r p g →
    (NoPorts i → (∀ t ∈ g.threads, t.tidy) → ∃ t, exec i s = .next t ∧
      LaneResult s t i r g fun l old new => WroteReg d (f r p g l old) (nextPc i r) old new) ∧
    exec i s = .next ((r.executing g i).foldl (fun u l =>
      u.writeRegs r.core r.fg l [(d, f r p g l (g.thread l))]) (s.atEffect r g i))

/-- The same for a pair, which is never a port (R134). -/
def PlacePair (s : State) (i : Instr) (d : Nat) (f : Run → FileGroup → BitVec 64) : Prop :=
  ∀ r p g, Issues s i r p g → NoPorts i → (∀ t ∈ g.threads, t.tidy) → ∃ t, exec i s = .next t ∧
    LaneResult s t i r g fun _ old new => WrotePair d (f r g) (nextPc i r) old new

/-- The same for a predicate. -/
def PredWord (s : State) (i : Instr) (reads : List Nat) (d : Nat) (f : Thread → (Nat → Word) → Bool) : Prop :=
  (∀ r p g, Issues s i r p g → NoPorts i → ∃ t, exec i s = .next t ∧
    LaneResult s t i r g fun _ old new => WrotePred d (f old (old.operands reads)) (nextPc i r) old new) ∧
  PortForms s i reads fun old v => writePred d (f old v)

/-- The draws that n results of a lane get under a rounding mode, and the generator's state after them: under SR one step
for each result, drawn or not needed, in other modes none (R115). -/
def drawsOf (rm : BitVec 3) (n : Nat) (rng : BitVec 64) : List Nat × BitVec 64 :=
  if rm.toNat = 4 then
    if n = 2 then ([rngDraw (rngStep rng), rngDraw (rngStep (rngStep rng))], rngStep (rngStep rng))
    else ([rngDraw (rngStep rng), 0], rngStep rng)
  else ([0, 0], rng)

/-- The same for a register whose n results may each use a draw of the lane's generator (R115). -/
def DrawnWord (s : State) (i : Instr) (reads : List Nat) (d n : Nat) (rm : BitVec 3)
    (f : (Nat → Word) → List Nat → Word) : Prop :=
  (∀ r p g, Issues s i r p g → NoPorts i → (∀ t ∈ g.threads, t.tidy) → ∃ t, exec i s = .next t ∧
    LaneResult s t i r g fun _ old new =>
      WroteDrawn d (f (old.operands reads) (drawsOf rm n old.rng).1) (drawsOf rm n old.rng).2 (nextPc i r) old new) ∧
  PortForms s i reads fun old v =>
    { regs := [(d, f v (drawsOf rm n old.rng).1)], preds := [],
      rng := if rm.toNat = 4 then some (drawsOf rm n old.rng).2 else none }

/-! ### Words that place an access -/

/-- In t an access stands in flight that the word of the run has placed for a set of lanes; it was not there in s. -/
def Placed (s t : State) (r : Run) (ctx : Nat) (lanes : List Nat) (va : Nat) (kind : OpKind) (o : Op) : Prop :=
  o ∈ t.mem.ops ∧ s.nextId ≤ o.id ∧ o.inst = r.inst ∧ o.core = r.core ∧ o.fg = r.fg ∧ o.ctx = ctx ∧ o.lanes = lanes ∧
    o.va = va ∧ o.kind = kind

/-- Every thread keeps its registers, predicates and generator. -/
def SameRegs (s t : State) : Prop :=
  ∀ c f l, (t.thread? c f l).map (fun x => (x.regs, x.preds, x.rng)) = (s.thread? c f l).map fun x => (x.regs, x.preds, x.rng)

/-- A lane stands behind the word, the word's token set for it (R136). -/
def Behind (t : State) (i : Instr) (r : Run) (l tok : Nat) : Prop :=
  ∃ new, t.thread? r.core r.fg l = some new ∧ new.pc = nextPc i r ∧ ∃ x ∈ new.outs, x.inst = r.inst ∧ x.token = tok

/-- The two states are the same but for threads, accesses in flight, translations cached and the counter of names: every
byte of memory, every queue, register and unit is as before. -/
def SameButOps (s t : State) : Prop :=
  { t with pads := s.pads, nextId := s.nextId, mem := { t.mem with ops := s.mem.ops, tlbs := s.mem.tlbs } } = s ∧
    ∀ c, (t.pad? c).map Pad.noThreads = (s.pad? c).map Pad.noThreads

/-- The operand values of a lane: its own registers, and for a port the entry that its word would pop (R135). -/
def State.vals (s : State) (r : Run) (g : FileGroup) (reads : List Nat) (l : Nat) : Nat → Word :=
  nth (s.readRegs r.core r.fg l (g.thread l) reads).2

/-- An address in the first two operands. -/
def va01 (v : Nat → Word) : Nat := (v 1 ++ v 0).toNat

/-- A lane stands at the word again. -/
def BackAt (t : State) (r : Run) (l : Nat) : Prop := (t.thread? r.core r.fg l).map (·.pc) = some r.pc

/-- A word of which each executing lane makes one access to the address in its first two operands (R175): no register
changes; the first executing lane's access stands in flight, its token set; every other lane's does, or the lane stands at
the word again, because the lanes before it took what its page needed (R236); and where no lane does, nothing else has
changed, unless a store to a view found its page without storage. -/
def AccessWord (s : State) (i : Instr) (reads : List Nat) (tok : Nat) (write : Bool) (kind : (Nat → Word) → OpKind) : Prop :=
  ∀ r p g, Issues s i r p g → ∀ l rest, r.executing g i = l :: rest → (∀ k ∈ l :: rest, (g.threads[k]?).isSome) →
    ∃ t, exec i s = .next t ∧ SameRegs s t ∧ Behind t i r l tok ∧
    (∃ o, Placed s t r p.ctx [l] (va01 (s.vals r g reads l)) (kind (s.vals r g reads l)) o) ∧
    (NoPorts i → (∀ k ∈ rest, BackAt t r k ∨
        ∃ o, Placed s t r p.ctx [k] (va01 (s.vals r g reads k)) (kind (s.vals r g reads k)) o) ∧
      ((∀ k ∈ rest, ¬ BackAt t r k) → (write = false ∨ p.views = []) → SameButOps s t))

/-- The operands of an atomic beside its address: x, and for `cas` the value to swap in (R182). -/
def atomX (wide : Bool) (v : Nat → Word) : Nat := if wide then (v 3 ++ v 2).toNat else (v 2).toNat
/-- The second of them. -/
def atomY (cas wide : Bool) (v : Nat → Word) : Nat :=
  if !cas then 0 else if wide then (v 5 ++ v 4).toNat else (v 3).toNat

/-- An atomic word: the lanes of one issue group of 32 with one address form one request (R183). The first executing lane's
request stands in flight, with its lanes' operands in lane order; every other lane has its request in flight or stands at
the word again (R236). No register changes until the request is performed. -/
def AtomWord (s : State) (i : Instr) (reads : List Nat) (tok aop : Nat) (wide : Bool) (dst : Nat) : Prop :=
  ∀ r p g, Issues s i r p g → ∀ l rest, r.executing g i = l :: rest → (∀ k ∈ l :: rest, (g.threads[k]?).isSome) →
    let v := s.vals r g reads
    let group := fun k => (r.whole.takeWhile fun j => decide (j ≠ k)).length / 32
    let mates := (l :: rest).filter fun k => decide (group k = group l ∧ va01 (v k) = va01 (v l))
    ∃ t, exec i s = .next t ∧ SameRegs s t ∧ Behind t i r l tok ∧
    (∃ o ∈ t.mem.ops, s.nextId ≤ o.id ∧ o.inst = r.inst ∧ o.ctx = p.ctx ∧ o.va = va01 (v l) ∧ o.lanes.head? = some l ∧
      ∃ xs ys, o.kind = .atomic aop wide (atomX wide (v l) :: xs) (atomY (decide (aop = 9)) wide (v l) :: ys) dst) ∧
    (NoPorts i →
      (∃ o, Placed s t r p.ctx mates (va01 (v l)) (.atomic aop wide (mates.map fun k => atomX wide (v k))
        (mates.map fun k => atomY (decide (aop = 9)) wide (v k)) dst) o) ∧
      (∀ k ∈ rest, BackAt t r k ∨ ∃ o ∈ t.mem.ops, s.nextId ≤ o.id ∧ o.inst = r.inst ∧ k ∈ o.lanes ∧ o.va = va01 (v k)) ∧
      ((∀ k ∈ rest, ¬ BackAt t r k) → p.views = [] → SameButOps s t))

/-- A word of which each executing lane places one operation without an address of its own: the operations stand in flight
in lane order, the tokens are set, and nothing else changes. -/
def OpsWord (s : State) (i : Instr) (reads : List Nat) (tok : Nat) (after : Bool) (kind : (Nat → Word) → OpKind) : Prop :=
  ∀ r p g, Issues s i r p g → r.executing g i ≠ [] → (∀ k ∈ r.executing g i, (g.threads[k]?).isSome) →
    ∃ t, exec i s = .next t ∧ SameRegs s t ∧ (∀ l ∈ r.executing g i, Behind t i r l tok) ∧
    (∀ l, (r.executing g i).head? = some l → ∃ o, Placed s t r p.ctx [l] 0 (kind (s.vals r g reads l)) o ∧
      o.afterAll = after) ∧
    (NoPorts i → SameButOps s t ∧ t.mem.tlbs = s.mem.tlbs ∧ t.mem.ops = s.mem.ops ++ mapFrom (fun n l =>
      { newOp r p.ctx [l] 0 (.blank 0 1) (kind (s.vals r g reads l)) after with id := n, issued := s.clk }) s.nextId (r.executing g i))

/-- A broadcasting word (R89, R91, R193, R195, R197): each executing lane's record is an operation in flight, the lane's last
broadcast is that record, and the record stands outside the broadcast queue or in it with the header of R91, reserved bits
of its payload 0 (R5, R93). With nothing
else in flight, room in the queue and no release asked for, it stands in the queue at once. No register changes. -/
def SendWord (s : State) (i : Instr) (reads : List Nat) (tok rtype size dst : Nat) (rel sys : Bool) (p0 p1 : (Nat → Word) → BitVec 64)
    (aux : (Nat → Word) → Nat) : Prop :=
  ∀ r p g, Issues s i r p g → NoPorts i → r.executing g i ≠ [] → (∀ k ∈ r.executing g i, (g.threads[k]?).isSome) →
    ∃ t, exec i s = .next t ∧ SameRegs s t ∧ ∀ l ∈ r.executing g i, Behind t i r l tok ∧
      ∃ o new, o ∈ t.mem.ops ∧ o.lanes = [l] ∧ o.inst = r.inst ∧ o.ctx = p.ctx ∧ o.afterAll = rel ∧
      t.thread? r.core r.fg l = some new ∧ new.lastSent = some o.id ∧ new.lastLsn = none ∧
      let v := s.vals r g reads l
      let queued := o.kind = .cmSend rtype (p0 v) (p1 v) size (aux v) rel sys dst true 0 ∧ ∃ x ∈ t.tap.queue, x.ref = o.id ∧
        x.hdr = headerWord rtype (s.ownerOf p.ctx) s.tap.position rel size p.ctx (aux v) ∧ x.p0 = payload0 rtype (p0 v) ∧
        x.p1 = payload1 rtype size (p1 v) ∧ x.origin = 0
      (o.kind = .cmSend rtype (p0 v) (p1 v) size (aux v) rel sys dst false 0 ∨ queued) ∧
      (s.mem.ops = [] → s.tap.queue.length + (r.executing g i).length ≤ 1024 → rel = false → queued)

/-- A word that works for the run as a whole, with its leader's operands (R199): one operation stands in flight for the
run's lanes, their tokens are set, and, where no operand is a port and no view needs storage, nothing else changes. -/
def EngineWord (s : State) (i : Instr) (reads : List Nat) (tok : Nat) (write : Bool) (va : Pad → (Nat → Word) → Nat)
    (kind : Pad → (Nat → Word) → OpKind) : Prop :=
  ∀ r p g, Issues s i r p g → r.executing g i ≠ [] → (∀ k ∈ r.executing g i, (g.threads[k]?).isSome) →
    let v := s.vals r g reads (r.lead g i)
    ∃ t, exec i s = .next t ∧ SameRegs s t ∧ (∀ l ∈ r.executing g i, Behind t i r l tok) ∧
    (∃ o, Placed s t r p.ctx (r.executing g i) (va p v) (kind p v) o) ∧
    (NoPorts i → (write = false ∨ p.views = []) → SameButOps s t)

/-- A word that gives the core's matrix engine a command, with the leader's operands (R199, R222, R225): it stands last in
the queue, and but for that, the pad group's note that accumulators are used and the tokens, nothing changes. -/
def MatrixWord (s : State) (i : Instr) (reads : List Nat) (tok : Nat) (want : Pad → (Nat → Word) → MatCmd → Prop) : Prop :=
  ∀ r p g, Issues s i r p g → r.executing g i ≠ [] → (∀ k ∈ r.executing g i, (g.threads[k]?).isSome) →
    ∃ t c q, exec i s = .next t ∧ SameRegs s t ∧ (∀ l ∈ r.executing g i, Behind t i r l tok) ∧ t.pad? r.core = some q ∧
    q.mq = p.mq ++ [c] ∧ c.steps = 0 ∧ c.applied = false ∧ c.lanes = r.executing g i ∧ c.inst = r.inst ∧ c.ctx = p.ctx ∧
    want p (s.vals r g reads (r.lead g i)) c ∧ { t with pads := s.pads, nextId := s.nextId } = s ∧
    (NoPorts i → q.noThreads = { p.noThreads with mq := p.mq ++ [c], accUsed := p.accUsed || decide (c.kind ≠ 5) })

/-! ### Words that hold a thread, and traps -/

/-- A word that changes threads alone, and of a thread only where it stands and what it waits for: a lane whose guard is
false moves on, a lane that executes it is as `post` tells from its old thread. -/
def HoldWord (s : State) (i : Instr) (r : Run) (g : FileGroup) (post : Nat → Thread → Thread → Prop) : Prop :=
  ∃ t, exec i s = .next t ∧ SameButThreads s t ∧ SameOtherThreads s t r.core r.fg r.lanes ∧
    ∀ l ∈ r.lanes, ∀ old, g.threads[l]? = some old → ∃ new, t.thread? r.core r.fg l = some new ∧
      new = { old with pc := new.pc, outs := new.outs, age := 0, quiet := 0, wait := new.wait, waitArg := new.waitArg,
                       waitSub := new.waitSub, barrier := new.barrier, parked := new.parked } ∧
      (l ∉ r.executing g i → new = { old with pc := nextPc i r, outs := new.outs, age := 0, quiet := 0 }) ∧
      (l ∈ r.executing g i → post l old new)

/-- The run's next chain group is the one word w, which decodes to i and passes its interlocks (R136). -/
structure AtWord (s : State) (i : Instr) (r : Run) (p : Pad) (g : FileGroup) (w : Word) : Prop where
  running : s.running = some (r, p, g)
  alone : r.snap = none
  own : r.ops = []
  place : r.index = 0
  ready : s.wordReady r p g i = true
  once : r.lanes.Nodup
  start : r.start = r.pc
  words : r.words = [w]

/-- A precise trap from task code (R301, R302): the set's threads stand at the vector, or for a system call and without a
vector at the system handler in system mode, one level up; bank 1 holds what the trap is delivered with; lanes of the run
outside the set are behind the word; registers, memory and all else are as before. -/
structure Entered (s t : State) (i : Instr) (r : Run) (g : FileGroup) (set : List Nat) (w : Word) (cause n : Nat)
    (epc addr : BitVec 64) : Prop where
  rest : { t with pads := s.pads } = s
  regs : SameRegs s t
  others : SameOtherThreads s t r.core r.fg r.lanes
  bank : ∃ g', t.fg? r.core r.fg = some g' ∧ g'.level = 1 ∧ g'.bank2 = g.bank2 ∧ g'.kregs = g.kregs ∧ g'.tscr = g.tscr ∧
    g'.bank1 = { cause := BitVec.ofNat 32 (2 ^ 16 + cause), epc := epc, addr := addr, info := BitVec.ofNat 32 n, word := w,
                 nht := set.length, pmode := (g.thread (leastD 0 set)).system }
  inside : ∀ l ∈ set, ∃ new, t.thread? r.core r.fg l = some new ∧ new.level = 1 ∧ new.wait = .ready ∧
    (if cause ≠ 0x0002 ∧ g.vector ≠ 0 then new.pc = BitVec.ofNat 57 g.vector ∧ new.system = false
     else new.pc = BitVec.ofNat 57 s.service.sysEntry ∧ new.system = true)
  behind : ∀ l ∈ r.lanes, l ∉ set → (g.threads[l]?).isSome → (t.thread? r.core r.fg l).map (·.pc) = some (nextPc i r)

/-! ### Rows of the memory system -/

/-- No record is held for a fault queue. -/
def State.noneHeld (s : State) : Prop := s.faultQs = []

/-- Accesses to a byte's line are not refused, fail or wait for a guest die, and no version of it is pending. -/
structure State.Plain (s : State) (owner key : Nat) : Prop where
  host : s.hostFault owner key = none
  sound : s.poisonedAt key = false
  home : s.mem.guestHeld (lineOf key) = false
  current : s.mem.pending (lineOf key) = none

/-- No lease holds a store to a line back at a tick (R63). -/
def Mem.leaseOver (m : Mem) (line now : Nat) : Prop := m.expiry line = 0 ∨ m.expiry line < now

/-- n bytes from a key lie in one line. -/
def oneLine (key n : Nat) : Prop := 0 < n ∧ lineOf (key + n - 1) = lineOf key

/-- A thread waits for an instruction's register. -/
def Thread.awaits (t : Thread) (inst dst : Nat) : Prop := ∃ o ∈ t.outs, o.inst = inst ∧ dst ∈ o.dsts

/-! ### Rows of the engines, the loop and the units -/

/-- No access is in flight, no record is held, and memory is canonical: an update of memory is followed by nothing but
what triggers and context records make of it. -/
structure State.Calm (s : State) : Prop where
  ops : s.mem.ops = []
  held : s.noneHeld
  wf : s.mem.wf = true

/-- A write of the device to n bytes takes place at once: they lie in one line, no version of it is pending and no lease on
it is held (R63, R375). -/
structure State.Direct (s : State) (key n : Nat) : Prop where
  line : oneLine key n
  current : s.mem.pending (lineOf key) = none
  free : s.mem.leaseOver (lineOf key) (s.dieClk (homeOf (lineOf key)))

/-- Every byte of memory but n from a key is as before. -/
def OnlyBytes (s t : State) (key n : Nat) : Prop := ∀ k, k < key ∨ key + n ≤ k → t.mem.byte k = s.mem.byte k

/-- The bytes stand in memory from a key on. -/
def State.holds (t : State) (key : Nat) (bytes : List Byte) : Prop := ∀ i v, bytes[i]? = some v → t.mem.byte (key + i) = v

/-- The number in n bytes of memory. -/
def State.num (s : State) (key n : Nat) : Nat := leValue ((upFrom key n).map s.mem.byte)

/-- The pad groups are as before but for an entry of their rings. -/
def RingsMapped (s t : State) (id : Nat) (f : Entry → Entry) : Prop :=
  t.pads = s.pads.map fun p => { p with ring := p.ring.map fun e => if e.id = id then f e else e }

/-- An entry of an operation may go on: it has neither finished, failed nor stalled, those before it are done (R76), and its
promise stands (R211). -/
structure State.Goes (s : State) (e : Entry) : Prop where
  here : s.entry? e.id = some e
  open_ : e.finished = false ∧ e.fail = 0 ∧ e.stalled = none
  turn : s.entryTurn e = true
  due : s.entryLate e = false

/-- The one record held at the tap is next to be applied here, was sent from elsewhere, and is not passed over (R96). -/
structure State.AtHead (s : State) (r : Stamped) : Prop where
  next : s.tap.next? = some r
  only : s.tap.pending = [r]
  counts : s.passesOver r = false
  foreign : s.tap.own r.lsn = none
  ops : s.mem.ops = []
  whole : s.tap.redo = []

/-- A record has been applied: the tap stands at its LSN and holds nothing. -/
def Applied (t : State) (r : Stamped) : Prop := t.tap.applied = r.lsn ∧ t.tap.pending = []

/-- The answer to the fabric manager's command is the last report, 1 done or 2 refused, with the command's sequence number;
the next command has the next number (R276). -/
def Answered (s t : State) (v : Nat) : Prop :=
  t.fabric.reports = s.fabric.reports ++ [FmReport.mk 0 v s.clk (some s.fabric.commands)] ∧
    t.fabric.commands = s.fabric.commands + 1

/-- A socket is cut off (R362). -/
def CutOff (t : State) (sock : Nat) : Prop :=
  (t.socket sock).isolated = true ∧ (t.socket sock).queues = [] ∧ t.readyBit (80 + sock) = false ∧
    ∀ d ∈ t.mem.gdir, d.1 ≠ sock

end Sys2Proof.Machine
end

