-- ==== Sys2Proof/Certificates/Slice0/Obligations.lean ====
section
/-! DEFINITION. The statements about the machine: what each instruction word does and leaves, what each row of the machine's
own steps does, encoding, reset, and the invariants of every step. The docstring of each names the rules it formalises. -/

open Sys2Proof Sys2Proof.Machine

/-- R118, R23, R248, R273: right after reset the lottery generator holds its seed, the clock of every die runs at 2.0 GHz (a
clock counts tenths of 1 GHz) and every energy meter reads 0, no invalidation has been counted, nothing is resident and
memory lists nothing. The state is canonical and its clocks are in range. That memory reads 0 and that nothing is ready are
the model's own (log entry 1).

R139, R140, R143, R182: words written out from the encoding tables decode to the instructions they stand for. R139, R314: a
word whose major is reserved stands for none, whatever its other bits. -/
def Obligations.ResetAndSpecWords : Prop :=
  (State.reset.lottery = 0x6A09E667F3BCC909#64 ∧ State.reset.service.ltCount = 0 ∧ State.reset.service.ready = 0 ∧
    State.reset.dies.length = 25 ∧ (∀ d ∈ State.reset.dies, d.clock = 20 ∧ d.energy = 0) ∧ State.reset.pads = [] ∧
    State.reset.ctxs = [] ∧ State.reset.launches = [] ∧ (∀ k, State.reset.mem.byte k = 0) ∧ State.reset.Tidy ∧
    State.reset.ClocksInRange) ∧
  (decodeWord 0x48E51111 = .instr (.ld false 7 10 8 2 1 1) ∧
    decodeWord 0x0AE187FF = .instr (.addi false 7 3 3 0x1FF) ∧
    decodeWord 0x08E08601 = .instr (.cmpNe false 7 1 3 0) ∧
    decodeWord 0xA4E51458 = .instr (.fmul true 7 10 10 11 0) ∧
    decodeWord 0x3CE39001 = .instr (.cvtBf16F32 false 7 7 8 1) ∧
    decodeWord 0x52E61006 = .instr (.atomAdd false 7 12 8 0 3) ∧
    decodeWord 0x7CE00600 = .instr (.rti 7) ∧
    decodeWord 0x78E20400 = .instr (.exit 7 4 2)) ∧
  ∀ w : Nat, w / 2 ^ 25 % 64 ∈ [0x22, 0x23, 0x2C, 0x2D, 0x35, 0x3F] → decodeWord w = .reject .reservedEncoding

/-- A step runs the decoded instruction (R47, R126, R129, R314): where the issue unit has chosen a run whose next word, as it
is fetched, closes its chain group, decodes to an instruction whose handles are valid, and may stand where it stands (R131),
the step is that instruction's effect; then the run is done, time passes, and the open choices move on. The instruction is
well formed, and the word is its own. Where no cache holds the word, it is the four bytes in memory at the place that the
word's address resolves to. -/
def Obligations.StepRunsDecodedInstruction : Prop :=
  ∀ (s : State) (r : Run) (p : Pad) (g : FileGroup) (w : Word) (i : Instr),
    let pc := r.start.toNat
    s.cur = some r → s.pad? r.core = some p → s.fg? r.core r.fg = some g → s.fetchWord p g pc = .word w →
    w.getLsbD 31 = false → decodeWord w.toNat = .instr i → handleFault p i = false → (i = .safept → pc % 12 = 0) →
    step s = mapNext (fun t => { t with cur := none, clk := t.clk + Config.elapsed s.seq, seq := t.seq + 1,
                                        memBusy := Config.memBusy t.seq })
      (exec i { s.keepFetched p r.fg pc [w] with cur := some { r with words := [w] } }) ∧
    encode i = w.toNat ∧ i.wellFormed = true ∧
    ∀ k, (s.resolve p pc false).2 = .at_ (.mem k) → s.icWord p.core p.ctx pc = none → g.aheadWord pc = none →
      s.mem.copy? false (sliceOf p.core) (lineOf k) = none →
      w = BitVec.ofNat 32 (leValue (s.mem.latestBytes k 4)) ∧ decodeBytes (s.mem.latestBytes k 4) = some (.instr i, [])

/-- R131, R134, R139, R140, R144: every word of a well-formed instruction, at every value of its fields, decodes to that
instruction: no bit of an encoding is dropped or read into another field. -/
def Obligations.DecodeOfEncode : Prop :=
  ∀ i : Instr, i.isWord = true → i.wellFormed = true →
    encode i < 2 ^ 32 ∧ decodeWord (encode i) = .instr i ∧ decodeTableWord 32 (encode i) = some i

/-- R139, R140, R314: a 32-bit word that decodes stands for one well-formed instruction, whose own word it is: no reserved bit
passes unread. -/
def Obligations.EncodeOfDecode : Prop :=
  ∀ (w : Nat) (i : Instr), w < 2 ^ 32 → decodeWord w = .instr i → encode i = w ∧ i.isWord = true ∧ i.wellFormed = true

/-- Memory stays canonical through every step: addresses rise and no listed byte equals what an unlisted one reads as (the
form of log entry 2). -/
def Obligations.StepKeepsMemory : Prop :=
  ∀ (s t : State), s.mem.wf = true → step s = .next t → t.mem.wf = true

/-- Every table of the state stays canonical through every step, so that equal register files, scratchpads, control memories,
accumulators, windows and guest queues are equal data. -/
def Obligations.StepKeepsTidy : Prop :=
  ∀ (s t : State), s.Tidy → step s = .next t → t.Tidy

/-- R23, R26, R281: through every step, whatever it is, each of the 25 dies keeps its record, and its core clock stays between
1.0 and 2.0 GHz. -/
def Obligations.StepKeepsClocks : Prop :=
  ∀ (s t : State), s.ClocksInRange → step s = .next t → t.ClocksInRange

/-- R244, R245: a push through a bound port whose peer's ring has room adds one entry to the peer's ring of the same lane and to
no other lane's, and the pop of an otherwise empty ring gives back the word pushed and leaves it empty. -/
def Obligations.PortRings : Prop :=
  ∀ (p : Pad) (g h : FileGroup) (n lane now later : Nat) (v : Word),
    let q := h.binding (g.binding n).peerPort
    tabWf (0 : Byte) p.scratch = true → p.fgs[(g.binding n).peerFg]? = some h → lane < p.nt → q.log ≤ 15 →
    p.portHeld q lane < 2 ^ q.log →
    let p' := p.push g n lane v now
    p'.portHeld q lane = p.portHeld q lane + 1 ∧ (∀ l, l < p.nt → l ≠ lane → p'.portHeld q l = p.portHeld q l) ∧
    (p.portHeld q lane = 0 → (p'.pop h (g.binding n).peerPort lane later).2 = v ∧
      (p'.pop h (g.binding n).peerPort lane later).1.portHeld q lane = 0) ∧
    ∀ a, (a < q.ring ∨ q.end_ p.nt ≤ a) → tabGet 0 p'.scratch a = tabGet 0 p.scratch a

/-- R152: for every lane, add, sub and mul modulo 2^32, the high halves of the signed and the unsigned product, the smaller and
the larger signed operand, and the sum clamped to the signed range; the frame is that of a register word.

R153: the bitwise words and the unsigned minimum and maximum, for every lane. -/
def Obligations.IntegerWords : Prop :=
  (∀ (s : State) (c : Bool) (g : BitVec 4) (d a b : BitVec 6),
    RegWord s (.add c g d a b) [a.toNat, b.toNat] d.toNat (fun _ v => v 0 + v 1) ∧
    RegWord s (.sub c g d a b) [a.toNat, b.toNat] d.toNat (fun _ v => v 0 - v 1) ∧
    RegWord s (.mul c g d a b) [a.toNat, b.toNat] d.toNat (fun _ v => v 0 * v 1) ∧
    RegWord s (.mulhs c g d a b) [a.toNat, b.toNat] d.toNat (fun _ v => ((v 0).signExtend 64 * (v 1).signExtend 64).extractLsb' 32 32) ∧
    RegWord s (.mulhu c g d a b) [a.toNat, b.toNat] d.toNat (fun _ v => ((v 0).setWidth 64 * (v 1).setWidth 64).extractLsb' 32 32) ∧
    RegWord s (.mins c g d a b) [a.toNat, b.toNat] d.toNat (fun _ v => if (v 0).sle (v 1) then v 0 else v 1) ∧
    RegWord s (.maxs c g d a b) [a.toNat, b.toNat] d.toNat (fun _ v => if (v 0).sle (v 1) then v 1 else v 0) ∧
    RegWord s (.adds c g d a b) [a.toNat, b.toNat] d.toNat (fun _ v => BitVec.ofInt 32 (min (2 ^ 31 - 1) (max (-(2 ^ 31)) ((v 0).toInt + (v 1).toInt))))) ∧
  (∀ (s : State) (c : Bool) (g : BitVec 4) (d a b : BitVec 6),
    RegWord s (.and c g d a b) [a.toNat, b.toNat] d.toNat (fun _ v => v 0 &&& v 1) ∧
    RegWord s (.or c g d a b) [a.toNat, b.toNat] d.toNat (fun _ v => v 0 ||| v 1) ∧
    RegWord s (.xor c g d a b) [a.toNat, b.toNat] d.toNat (fun _ v => v 0 ^^^ v 1) ∧
    RegWord s (.andn c g d a b) [a.toNat, b.toNat] d.toNat (fun _ v => v 0 &&& ~~~v 1) ∧
    RegWord s (.orn c g d a b) [a.toNat, b.toNat] d.toNat (fun _ v => v 0 ||| ~~~v 1) ∧
    RegWord s (.xnor c g d a b) [a.toNat, b.toNat] d.toNat (fun _ v => ~~~(v 0 ^^^ v 1)) ∧
    RegWord s (.minu c g d a b) [a.toNat, b.toNat] d.toNat (fun _ v => if (v 0).ule (v 1) then v 0 else v 1) ∧
    RegWord s (.maxu c g d a b) [a.toNat, b.toNat] d.toNat (fun _ v => if (v 0).ule (v 1) then v 1 else v 0)) ∧
  (∀ (c : Bool) (g : BitVec 4) (d a b : BitVec 6),
    let at_ := c.toNat * 2 ^ 31 + g.toNat * 2 ^ 21 + d.toNat * 2 ^ 15 + a.toNat * 2 ^ 9
    encode (.add c g d a b) = 0x01 * 2 ^ 25 + at_ + b.toNat * 2 ^ 3 + 0 ∧
    encode (.sub c g d a b) = 0x01 * 2 ^ 25 + at_ + b.toNat * 2 ^ 3 + 1 ∧
    encode (.mul c g d a b) = 0x01 * 2 ^ 25 + at_ + b.toNat * 2 ^ 3 + 2 ∧
    encode (.mulhs c g d a b) = 0x01 * 2 ^ 25 + at_ + b.toNat * 2 ^ 3 + 3 ∧
    encode (.mulhu c g d a b) = 0x01 * 2 ^ 25 + at_ + b.toNat * 2 ^ 3 + 4 ∧
    encode (.mins c g d a b) = 0x01 * 2 ^ 25 + at_ + b.toNat * 2 ^ 3 + 5 ∧
    encode (.maxs c g d a b) = 0x01 * 2 ^ 25 + at_ + b.toNat * 2 ^ 3 + 6 ∧
    encode (.adds c g d a b) = 0x01 * 2 ^ 25 + at_ + b.toNat * 2 ^ 3 + 7 ∧
    encode (.and c g d a b) = 0x02 * 2 ^ 25 + at_ + b.toNat * 2 ^ 3 + 0 ∧
    encode (.or c g d a b) = 0x02 * 2 ^ 25 + at_ + b.toNat * 2 ^ 3 + 1 ∧
    encode (.xor c g d a b) = 0x02 * 2 ^ 25 + at_ + b.toNat * 2 ^ 3 + 2 ∧
    encode (.andn c g d a b) = 0x02 * 2 ^ 25 + at_ + b.toNat * 2 ^ 3 + 3 ∧
    encode (.orn c g d a b) = 0x02 * 2 ^ 25 + at_ + b.toNat * 2 ^ 3 + 4 ∧
    encode (.xnor c g d a b) = 0x02 * 2 ^ 25 + at_ + b.toNat * 2 ^ 3 + 5 ∧
    encode (.minu c g d a b) = 0x02 * 2 ^ 25 + at_ + b.toNat * 2 ^ 3 + 6 ∧
    encode (.maxu c g d a b) = 0x02 * 2 ^ 25 + at_ + b.toNat * 2 ^ 3 + 7)

/-- R154: shifts by the whole 32-bit amount (32 or more shifts everything out, and `sar` leaves the sign), rotates by the
amount modulo 32, leading zeros, set bits and the reversal of the bits.

R156, R157: the immediate forms work with the 9-bit immediate sign-extended or a shift amount of 0-31; `movi` writes the
sign-extended 15-bit immediate, and `movsh` shifts D left by 15 and adds the zero-extended one. -/
def Obligations.ShiftsAndImmediates : Prop :=
  (∀ (s : State) (c : Bool) (g : BitVec 4) (d a b : BitVec 6),
    RegWord s (.shl c g d a b) [a.toNat, b.toNat] d.toNat (fun _ v => v 0 <<< (v 1).toNat) ∧
    RegWord s (.shr c g d a b) [a.toNat, b.toNat] d.toNat (fun _ v => v 0 >>> (v 1).toNat) ∧
    RegWord s (.sar c g d a b) [a.toNat, b.toNat] d.toNat (fun _ v => (v 0).sshiftRight (v 1).toNat) ∧
    RegWord s (.rol c g d a b) [a.toNat, b.toNat] d.toNat (fun _ v => (v 0 <<< ((v 1).toNat % 32)) ||| (v 0 >>> (32 - (v 1).toNat % 32))) ∧
    RegWord s (.ror c g d a b) [a.toNat, b.toNat] d.toNat (fun _ v => (v 0 >>> ((v 1).toNat % 32)) ||| (v 0 <<< (32 - (v 1).toNat % 32))) ∧
    RegWord s (.clz c g d a) [a.toNat] d.toNat (fun _ v => (v 0).clz) ∧
    RegWord s (.popc c g d a) [a.toNat] d.toNat (fun _ v => (v 0).cpop) ∧
    RegWord s (.brev c g d a) [a.toNat] d.toNat (fun _ v => (v 0).reverse)) ∧
  (∀ (s : State) (c : Bool) (g : BitVec 4) (d a : BitVec 6) (i : BitVec 9) (n : BitVec 5) (w : BitVec 15),
    RegWord s (.addi c g d a i) [a.toNat] d.toNat (fun _ v => v 0 + i.signExtend 32) ∧
    RegWord s (.andi c g d a i) [a.toNat] d.toNat (fun _ v => v 0 &&& i.signExtend 32) ∧
    RegWord s (.ori c g d a i) [a.toNat] d.toNat (fun _ v => v 0 ||| i.signExtend 32) ∧
    RegWord s (.xori c g d a i) [a.toNat] d.toNat (fun _ v => v 0 ^^^ i.signExtend 32) ∧
    RegWord s (.shli c g d a n) [a.toNat] d.toNat (fun _ v => v 0 <<< n.toNat) ∧
    RegWord s (.shri c g d a n) [a.toNat] d.toNat (fun _ v => v 0 >>> n.toNat) ∧
    RegWord s (.sari c g d a n) [a.toNat] d.toNat (fun _ v => (v 0).sshiftRight n.toNat) ∧
    RegWord s (.movi c g d w) [] d.toNat (fun _ _ => w.signExtend 32) ∧
    RegWord s (.movsh c g d w) [d.toNat] d.toNat (fun _ v => (v 0 <<< 15) + w.setWidth 32)) ∧
  (∀ (c : Bool) (g : BitVec 4) (d a b : BitVec 6),
    let at_ := c.toNat * 2 ^ 31 + g.toNat * 2 ^ 21 + d.toNat * 2 ^ 15 + a.toNat * 2 ^ 9
    encode (.shl c g d a b) = 0x03 * 2 ^ 25 + at_ + b.toNat * 2 ^ 3 + 0 ∧
    encode (.shr c g d a b) = 0x03 * 2 ^ 25 + at_ + b.toNat * 2 ^ 3 + 1 ∧
    encode (.sar c g d a b) = 0x03 * 2 ^ 25 + at_ + b.toNat * 2 ^ 3 + 2 ∧
    encode (.rol c g d a b) = 0x03 * 2 ^ 25 + at_ + b.toNat * 2 ^ 3 + 3 ∧
    encode (.ror c g d a b) = 0x03 * 2 ^ 25 + at_ + b.toNat * 2 ^ 3 + 4 ∧
    encode (.clz c g d a) = 0x03 * 2 ^ 25 + at_ + 5 ∧
    encode (.popc c g d a) = 0x03 * 2 ^ 25 + at_ + 6 ∧
    encode (.brev c g d a) = 0x03 * 2 ^ 25 + at_ + 7) ∧
  (∀ (c : Bool) (g : BitVec 4) (d a : BitVec 6) (i : BitVec 9) (n : BitVec 5) (w : BitVec 15),
    let at_ := c.toNat * 2 ^ 31 + g.toNat * 2 ^ 21 + d.toNat * 2 ^ 15 + a.toNat * 2 ^ 9
    let wide := c.toNat * 2 ^ 31 + g.toNat * 2 ^ 21 + d.toNat * 2 ^ 15
    encode (.addi c g d a i) = 0x05 * 2 ^ 25 + at_ + i.toNat ∧
    encode (.andi c g d a i) = 0x06 * 2 ^ 25 + at_ + i.toNat ∧
    encode (.ori c g d a i) = 0x07 * 2 ^ 25 + at_ + i.toNat ∧
    encode (.xori c g d a i) = 0x08 * 2 ^ 25 + at_ + i.toNat ∧
    encode (.shli c g d a n) = 0x09 * 2 ^ 25 + at_ + n.toNat ∧
    encode (.shri c g d a n) = 0x0A * 2 ^ 25 + at_ + n.toNat ∧
    encode (.sari c g d a n) = 0x0B * 2 ^ 25 + at_ + n.toNat ∧
    encode (.movi c g d w) = 0x0C * 2 ^ 25 + wide + w.toNat ∧
    encode (.movsh c g d w) = 0x0D * 2 ^ 25 + wide + w.toNat)

/-- R158: 64-bit sums, differences and products of pairs, a pair and a sign- or zero-extended register, and shifts by the
low six bits of B. -/
def Obligations.PairArithmetic : Prop :=
  (∀ (s : State) (c : Bool) (g : BitVec 4) (d a b : BitVec 6),
    PairWord s (.add64 c g d a b) [a.toNat, pairHi a.toNat, b.toNat, pairHi b.toNat] d.toNat (fun _ v => (v 1 ++ v 0) + (v 3 ++ v 2)) ∧
    PairWord s (.sub64 c g d a b) [a.toNat, pairHi a.toNat, b.toNat, pairHi b.toNat] d.toNat (fun _ v => (v 1 ++ v 0) - (v 3 ++ v 2)) ∧
    PairWord s (.addsx64 c g d a b) [a.toNat, pairHi a.toNat, b.toNat] d.toNat (fun _ v => (v 1 ++ v 0) + (v 2).signExtend 64) ∧
    PairWord s (.addzx64 c g d a b) [a.toNat, pairHi a.toNat, b.toNat] d.toNat (fun _ v => (v 1 ++ v 0) + (v 2).setWidth 64) ∧
    PairWord s (.shl64 c g d a b) [a.toNat, pairHi a.toNat, b.toNat] d.toNat (fun _ v => (v 1 ++ v 0) <<< ((v 2).toNat % 64)) ∧
    PairWord s (.shr64 c g d a b) [a.toNat, pairHi a.toNat, b.toNat] d.toNat (fun _ v => (v 1 ++ v 0) >>> ((v 2).toNat % 64)) ∧
    PairWord s (.sar64 c g d a b) [a.toNat, pairHi a.toNat, b.toNat] d.toNat (fun _ v => (v 1 ++ v 0).sshiftRight ((v 2).toNat % 64)) ∧
    PairWord s (.mul64 c g d a b) [a.toNat, pairHi a.toNat, b.toNat, pairHi b.toNat] d.toNat (fun _ v => (v 1 ++ v 0) * (v 3 ++ v 2))) ∧
  (∀ (c : Bool) (g : BitVec 4) (d a b : BitVec 6),
    let at_ := c.toNat * 2 ^ 31 + g.toNat * 2 ^ 21 + d.toNat * 2 ^ 15 + a.toNat * 2 ^ 9
    encode (.add64 c g d a b) = 0x0E * 2 ^ 25 + at_ + b.toNat * 2 ^ 3 + 0 ∧
    encode (.sub64 c g d a b) = 0x0E * 2 ^ 25 + at_ + b.toNat * 2 ^ 3 + 1 ∧
    encode (.addsx64 c g d a b) = 0x0E * 2 ^ 25 + at_ + b.toNat * 2 ^ 3 + 2 ∧
    encode (.addzx64 c g d a b) = 0x0E * 2 ^ 25 + at_ + b.toNat * 2 ^ 3 + 3 ∧
    encode (.shl64 c g d a b) = 0x0E * 2 ^ 25 + at_ + b.toNat * 2 ^ 3 + 4 ∧
    encode (.shr64 c g d a b) = 0x0E * 2 ^ 25 + at_ + b.toNat * 2 ^ 3 + 5 ∧
    encode (.sar64 c g d a b) = 0x0E * 2 ^ 25 + at_ + b.toNat * 2 ^ 3 + 6 ∧
    encode (.mul64 c g d a b) = 0x0E * 2 ^ 25 + at_ + b.toNat * 2 ^ 3 + 7)

/-- R155: each integer comparison writes its condition to the predicate named, for every lane; p7 takes nothing (R134).

R163: so does each FP32 comparison: equality and order of numbers, −0 equal to +0, with a NaN on either side equal to
nothing, less than nothing and unordered. -/
def Obligations.Comparisons : Prop :=
  (∀ (s : State) (c : Bool) (g : BitVec 4) (p : BitVec 3) (a b : BitVec 6),
    PredWord s (.cmpEq c g p a b) [a.toNat, b.toNat] p.toNat (fun _ v => v 0 == v 1) ∧
    PredWord s (.cmpNe c g p a b) [a.toNat, b.toNat] p.toNat (fun _ v => v 0 != v 1) ∧
    PredWord s (.cmpLt c g p a b) [a.toNat, b.toNat] p.toNat (fun _ v => (v 0).slt (v 1)) ∧
    PredWord s (.cmpLe c g p a b) [a.toNat, b.toNat] p.toNat (fun _ v => (v 0).sle (v 1)) ∧
    PredWord s (.cmpLtu c g p a b) [a.toNat, b.toNat] p.toNat (fun _ v => (v 0).ult (v 1)) ∧
    PredWord s (.cmpLeu c g p a b) [a.toNat, b.toNat] p.toNat (fun _ v => (v 0).ule (v 1)) ∧
    PredWord s (.cmpTst c g p a b) [a.toNat, b.toNat] p.toNat (fun _ v => v 0 &&& v 1 != 0) ∧
    PredWord s (.fcmpEq c g p a b) [a.toNat, b.toNat] p.toNat (fun _ v => !(isNan32 (v 0) || isNan32 (v 1)) && feq32 (v 0) (v 1)) ∧
    PredWord s (.fcmpNe c g p a b) [a.toNat, b.toNat] p.toNat (fun _ v => isNan32 (v 0) || isNan32 (v 1) || !feq32 (v 0) (v 1)) ∧
    PredWord s (.fcmpLt c g p a b) [a.toNat, b.toNat] p.toNat (fun _ v => !(isNan32 (v 0) || isNan32 (v 1)) && flt32 (v 0) (v 1)) ∧
    PredWord s (.fcmpLe c g p a b) [a.toNat, b.toNat] p.toNat (fun _ v => !(isNan32 (v 0) || isNan32 (v 1)) && !flt32 (v 1) (v 0)) ∧
    PredWord s (.fcmpUn c g p a b) [a.toNat, b.toNat] p.toNat (fun _ v => isNan32 (v 0) || isNan32 (v 1))) ∧
  (∀ (c : Bool) (g : BitVec 4) (d : BitVec 3) (a b : BitVec 6),
    let at_ := c.toNat * 2 ^ 31 + g.toNat * 2 ^ 21 + d.toNat * 2 ^ 15 + a.toNat * 2 ^ 9
    encode (.cmpEq c g d a b) = 0x04 * 2 ^ 25 + at_ + b.toNat * 2 ^ 3 + 0 ∧
    encode (.cmpNe c g d a b) = 0x04 * 2 ^ 25 + at_ + b.toNat * 2 ^ 3 + 1 ∧
    encode (.cmpLt c g d a b) = 0x04 * 2 ^ 25 + at_ + b.toNat * 2 ^ 3 + 2 ∧
    encode (.cmpLe c g d a b) = 0x04 * 2 ^ 25 + at_ + b.toNat * 2 ^ 3 + 3 ∧
    encode (.cmpLtu c g d a b) = 0x04 * 2 ^ 25 + at_ + b.toNat * 2 ^ 3 + 4 ∧
    encode (.cmpLeu c g d a b) = 0x04 * 2 ^ 25 + at_ + b.toNat * 2 ^ 3 + 5 ∧
    encode (.cmpTst c g d a b) = 0x04 * 2 ^ 25 + at_ + b.toNat * 2 ^ 3 + 6 ∧
    encode (.fcmpEq c g d a b) = 0x1A * 2 ^ 25 + at_ + b.toNat * 2 ^ 3 + 0 ∧
    encode (.fcmpNe c g d a b) = 0x1A * 2 ^ 25 + at_ + b.toNat * 2 ^ 3 + 1 ∧
    encode (.fcmpLt c g d a b) = 0x1A * 2 ^ 25 + at_ + b.toNat * 2 ^ 3 + 2 ∧
    encode (.fcmpLe c g d a b) = 0x1A * 2 ^ 25 + at_ + b.toNat * 2 ^ 3 + 3 ∧
    encode (.fcmpUn c g d a b) = 0x1A * 2 ^ 25 + at_ + b.toNat * 2 ^ 3 + 4)

/-- R169: logic on predicates, the test of a register against 0, and the copy of p0-p7 into a register as bits 7-0.

R174: `nop` does nothing but move on, whatever its guard says; `yield` resets the run's ageing counter and lowers the
run for the next 16 issue cycles.

R116, R168, R169, R249: `rand` steps the lane's generator and gives its output's high half; `pset` sets p0-p6 from the
low bits of A and touches no register.

R168: signed division truncates toward zero, a zero divisor gives all ones and the remainder A, and −2^31 by −1 gives −2^31
and remainder 0; `fdiv` rounds the quotient to nearest even. -/
def Obligations.PredicateAndSmallWords : Prop :=
  (∀ (s : State) (c : Bool) (g : BitVec 4) (p q e : BitVec 3) (d a : BitVec 6),
    PredWord s (.pand c g p q e) [] p.toNat (fun old _ => old.pred q.toNat && old.pred e.toNat) ∧
    PredWord s (.por c g p q e) [] p.toNat (fun old _ => old.pred q.toNat || old.pred e.toNat) ∧
    PredWord s (.pxor c g p q e) [] p.toNat (fun old _ => old.pred q.toNat != old.pred e.toNat) ∧
    PredWord s (.pandn c g p q e) [] p.toNat (fun old _ => old.pred q.toNat && !old.pred e.toNat) ∧
    PredWord s (.pnez c g p a) [a.toNat] p.toNat (fun _ v => v 0 != 0) ∧
    RegWord s (.pget c g d) [] d.toNat (fun old _ => BitVec.ofNat 32 (((List.range 8).map fun k =>
      if old.pred k then 2 ^ k else 0).sum))) ∧
  (∀ (s : State) (c : Bool) (gd : BitVec 4) (r : Run) (p : Pad) (g : FileGroup),
    (Issues s (.nop c gd) r p g → ∃ t, exec (.nop c gd) s = .next t ∧
      LaneResult s t (.nop c gd) r g fun _ old new => new.pc = nextPc (.nop c gd) r ∧ Kept old new) ∧
    (Issues s (.yield c gd) r p g → ∃ t, exec (.yield c gd) s = .next t ∧ SameButThreads s t ∧
      SameOtherThreads s t r.core r.fg r.lanes ∧
      ∀ l ∈ r.lanes, ∀ old, g.threads[l]? = some old → ∃ new, t.thread? r.core r.fg l = some new ∧ Kept old new ∧
        new = { old with pc := nextPc (.yield c gd) r, outs := new.outs, age := 0, quiet := 0, yielded := 16 })) ∧
  (∀ (s : State) (c : Bool) (gd : BitVec 4) (d a : BitVec 6),
    DrawnWord s (.rand c gd d) [] d.toNat 1 4#3 (fun _ ds => BitVec.ofNat 32 (atD 0 ds 0)) ∧
    (∀ r p g, Issues s (.pset c gd a) r p g → NoPorts (.pset c gd a) → ∃ t, exec (.pset c gd a) s = .next t ∧
      LaneResult s t (.pset c gd a) r g fun _ old new => new.pc = nextPc (.pset c gd a) r ∧ new.regs = old.regs ∧
        new.rng = old.rng ∧ ∀ k, k < 7 → new.pred k = (old.reg a.toNat).getLsbD k) ∧
    PortForms s (.pset c gd a) [a.toNat] fun _ v =>
      { regs := [], preds := (upFrom 0 7).map fun k => (k, (v 0).getLsbD k), rng := none }) ∧
  (∀ (s : State) (c : Bool) (g : BitVec 4) (d a b : BitVec 6),
    RegWord s (.div c g d a b) [a.toNat, b.toNat] d.toNat (fun _ v => if v 1 = 0 then BitVec.allOnes 32 else (v 0).sdiv (v 1)) ∧
    RegWord s (.divu c g d a b) [a.toNat, b.toNat] d.toNat (fun _ v => if v 1 = 0 then BitVec.allOnes 32 else v 0 / v 1) ∧
    RegWord s (.rem c g d a b) [a.toNat, b.toNat] d.toNat (fun _ v => if v 1 = 0 then v 0 else (v 0).srem (v 1)) ∧
    RegWord s (.remu c g d a b) [a.toNat, b.toNat] d.toNat (fun _ v => if v 1 = 0 then v 0 else v 0 % v 1) ∧
    RegWord s (.fdiv c g d a b) [a.toNat, b.toNat] d.toNat (fun _ v => toF32 0 0 ((f32 (v 0)).div (f32 (v 1)))))

/-- R160: the exact sum, difference, product or fused product-sum of FP32 operands, rounded once by the mode RM (R113-R115);
under SR each lane draws once. `fscale` scales by a power of two the same way (R164); an i32 exponent beyond 500 in size
is held at 500, where every finite operand has overflowed or vanished.

R161: the packed BF16 words round each element once, under SR with a draw each, element 0 first; `fdot2.bf16` rounds the
sum of two products and D once to FP32. -/
def Obligations.RoundedFloat : Prop :=
  (∀ (s : State) (c : Bool) (g : BitVec 4) (d a b : BitVec 6) (r : BitVec 3),
    DrawnWord s (.fadd c g d a b r) [a.toNat, b.toNat] d.toNat 1 r (fun v ds =>
      toF32 r.toNat (atD 0 ds 0) ((f32 (v 0)).add r.toNat (f32 (v 1)))) ∧
    DrawnWord s (.fsub c g d a b r) [a.toNat, b.toNat] d.toNat 1 r (fun v ds =>
      toF32 r.toNat (atD 0 ds 0) ((f32 (v 0)).add r.toNat (f32 (v 1)).negate)) ∧
    DrawnWord s (.fmul c g d a b r) [a.toNat, b.toNat] d.toNat 1 r (fun v ds =>
      toF32 r.toNat (atD 0 ds 0) ((f32 (v 0)).mul (f32 (v 1)))) ∧
    DrawnWord s (.ffma c g d a b r) [a.toNat, b.toNat, d.toNat] d.toNat 1 r (fun v ds =>
      toF32 r.toNat (atD 0 ds 0) (((f32 (v 0)).mul (f32 (v 1))).add r.toNat (f32 (v 2)))) ∧
    DrawnWord s (.ffms c g d a b r) [a.toNat, b.toNat, d.toNat] d.toNat 1 r (fun v ds =>
      toF32 r.toNat (atD 0 ds 0) (((f32 (v 0)).mul (f32 (v 1))).add r.toNat (f32 (v 2)).negate)) ∧
    DrawnWord s (.fnma c g d a b r) [a.toNat, b.toNat, d.toNat] d.toNat 1 r (fun v ds =>
      toF32 r.toNat (atD 0 ds 0) (((f32 (v 0)).mul (f32 (v 1))).negate.add r.toNat (f32 (v 2)))) ∧
    DrawnWord s (.fscale c g d a b r) [a.toNat, b.toNat] d.toNat 1 r (fun v ds =>
      toF32 r.toNat (atD 0 ds 0) ((f32 (v 0)).scale (max (-500) (min 500 (v 1).toInt))))) ∧
  (∀ (s : State) (c : Bool) (g : BitVec 4) (d a b : BitVec 6) (r : BitVec 3),
    DrawnWord s (.haddBf16x2 c g d a b r) [a.toNat, b.toNat] d.toNat 2 r (fun v ds => BitVec.ofNat 32
      ((bf16.round r.toNat (atD 0 ds 0) ((bfElem (v 0) 0).add r.toNat (bfElem (v 1) 0))).bits +
        2 ^ 16 * (bf16.round r.toNat (atD 0 ds 1) ((bfElem (v 0) 1).add r.toNat (bfElem (v 1) 1))).bits)) ∧
    DrawnWord s (.hmulBf16x2 c g d a b r) [a.toNat, b.toNat] d.toNat 2 r (fun v ds => BitVec.ofNat 32
      ((bf16.round r.toNat (atD 0 ds 0) ((bfElem (v 0) 0).mul (bfElem (v 1) 0))).bits +
        2 ^ 16 * (bf16.round r.toNat (atD 0 ds 1) ((bfElem (v 0) 1).mul (bfElem (v 1) 1))).bits)) ∧
    DrawnWord s (.hfmaBf16x2 c g d a b r) [a.toNat, b.toNat, d.toNat] d.toNat 2 r (fun v ds => BitVec.ofNat 32
      ((bf16.round r.toNat (atD 0 ds 0) (((bfElem (v 0) 0).mul (bfElem (v 1) 0)).add r.toNat (bfElem (v 2) 0))).bits +
        2 ^ 16 * (bf16.round r.toNat (atD 0 ds 1) (((bfElem (v 0) 1).mul (bfElem (v 1) 1)).add r.toNat (bfElem (v 2) 1))).bits)) ∧
    DrawnWord s (.fdot2Bf16 c g d a b r) [a.toNat, b.toNat, d.toNat] d.toNat 1 r (fun v ds =>
      toF32 r.toNat (atD 0 ds 0) ((((bfElem (v 0) 0).mul (bfElem (v 1) 0)).add r.toNat ((bfElem (v 0) 1).mul (bfElem (v 1) 1))).add
        r.toNat (f32 (v 2)))))

/-- R162, R163: the words that never round, and the comparisons, in which −0 equals +0 and a NaN makes the pair unordered.

R167: each lane has the reciprocal or root of its operand, and of the other six functions a value that a draw of its own
picks (log entry 14). Every fixed result of the table holds whatever the draw, a NaN gives the canonical NaN, and two draws
for one operand give the same value or two neighbouring ones. Which values the six functions may give, and how the root is
rounded, is stated in ChosenFloatValues. -/
def Obligations.ExactAndChosenFloat : Prop :=
  (∀ (s : State) (c : Bool) (g : BitVec 4) (p : BitVec 3) (d a b : BitVec 6),
    RegWord s (.fmin c g d a b) [a.toNat, b.toNat] d.toNat (fun _ v => fmin32 (v 0) (v 1)) ∧
    RegWord s (.fmax c g d a b) [a.toNat, b.toNat] d.toNat (fun _ v => fmax32 (v 0) (v 1)) ∧
    RegWord s (.fabs c g d a) [a.toNat] d.toNat (fun _ v => v 0 &&& 0x7FFFFFFF#32) ∧
    RegWord s (.fneg c g d a) [a.toNat] d.toNat (fun _ v => v 0 ^^^ 0x80000000#32) ∧
    RegWord s (.fcopysign c g d a b) [a.toNat, b.toNat] d.toNat (fun _ v => (v 0 &&& 0x7FFFFFFF#32) ||| (v 1 &&& 0x80000000#32)) ∧
    RegWord s (.fclass c g d a) [a.toNat] d.toNat (fun _ v => fclass32 (v 0)) ∧
    PredWord s (.fcmpEq c g p a b) [a.toNat, b.toNat] p.toNat (fun _ v => !isNan32 (v 0) && !isNan32 (v 1) && feq32 (v 0) (v 1)) ∧
    PredWord s (.fcmpNe c g p a b) [a.toNat, b.toNat] p.toNat (fun _ v => !(!isNan32 (v 0) && !isNan32 (v 1) && feq32 (v 0) (v 1))) ∧
    PredWord s (.fcmpLt c g p a b) [a.toNat, b.toNat] p.toNat (fun _ v => !isNan32 (v 0) && !isNan32 (v 1) && flt32 (v 0) (v 1)) ∧
    PredWord s (.fcmpLe c g p a b) [a.toNat, b.toNat] p.toNat (fun _ v => !isNan32 (v 0) && !isNan32 (v 1) && !flt32 (v 1) (v 0)) ∧
    PredWord s (.fcmpUn c g p a b) [a.toNat, b.toNat] p.toNat (fun _ v => isNan32 (v 0) || isNan32 (v 1))) ∧
  (∀ (s : State) (c : Bool) (g : BitVec 4) (d a : BitVec 6),
    RegWord s (.rcp c g d a) [a.toNat] d.toNat (fun _ v => toF32 0 0 ((FVal.num false 1 1).div (f32 (v 0)))) ∧
    RegWord s (.sqrt c g d a) [a.toNat] d.toNat (fun _ v => sqrt32 (v 0)) ∧
    NumberedWord s (.rsqrt c g d a) [a.toNat] d.toNat (fun l v => rsqrt32 (drawOf s.seq l) (v 0)) ∧
    NumberedWord s (.exp2 c g d a) [a.toNat] d.toNat (fun l v => exp2_32 (drawOf s.seq l) (v 0)) ∧
    NumberedWord s (.log2 c g d a) [a.toNat] d.toNat (fun l v => log2_32 (drawOf s.seq l) (v 0)) ∧
    NumberedWord s (.sinpi c g d a) [a.toNat] d.toNat (fun l v => sinpi32 (drawOf s.seq l) (v 0)) ∧
    NumberedWord s (.cospi c g d a) [a.toNat] d.toNat (fun l v => cospi32 (drawOf s.seq l) (v 0)) ∧
    NumberedWord s (.tanh c g d a) [a.toNat] d.toNat (fun l v => tanh32 (drawOf s.seq l) (v 0))) ∧
  (rcp32 0 = 0x7F800000 ∧ rcp32 0x80000000 = 0xFF800000 ∧ rcp32 0x7F800000 = 0 ∧ rcp32 0xFF800000 = 0x80000000 ∧
    sqrt32 0 = 0 ∧ sqrt32 0x80000000 = 0x80000000 ∧ sqrt32 0x7F800000 = 0x7F800000 ∧ sqrt32 0xFF800000 = 0x7FC00000 ∧
    ∀ k : Nat, rsqrt32 k 0xFF800000 = 0x7FC00000 ∧ log2_32 k 0xFF800000 = 0x7FC00000 ∧
    rsqrt32 k 0 = 0x7F800000 ∧ rsqrt32 k 0x80000000 = 0xFF800000 ∧ rsqrt32 k 0x7F800000 = 0 ∧
    exp2_32 k 0xFF800000 = 0 ∧ exp2_32 k 0x7F800000 = 0x7F800000 ∧
    log2_32 k 0 = 0xFF800000 ∧ log2_32 k 0x80000000 = 0xFF800000 ∧ log2_32 k 0x7F800000 = 0x7F800000 ∧
    log2_32 k 0x3F800000 = 0 ∧ sinpi32 k 0x7F800000 = 0x7FC00000 ∧ sinpi32 k 0xFF800000 = 0x7FC00000 ∧
    cospi32 k 0x7F800000 = 0x7FC00000 ∧ cospi32 k 0xFF800000 = 0x7FC00000 ∧
    tanh32 k 0x7F800000 = 0x3F800000 ∧ tanh32 k 0xFF800000 = 0xBF800000 ∧ tanh32 k 0 = 0 ∧
    tanh32 k 0x80000000 = 0x80000000) ∧
  (∀ (j k : Nat) (x : Word),
    (∀ n d, f32 x = .num true n d → n ≠ 0 →
      rsqrt32 k x = 0x7FC00000 ∧ sqrt32 x = 0x7FC00000 ∧ log2_32 k x = 0x7FC00000) ∧
    (∀ neg n d, f32 x = .num neg n d → n % d = 0 → sinpi32 k x = if neg then 0x80000000 else 0) ∧
    (∀ neg n d, f32 x = .num neg n d → 2 * n % (2 * d) = d → cospi32 k x = 0) ∧
    (isNan32 x = true → rcp32 x = 0x7FC00000 ∧ rsqrt32 k x = 0x7FC00000 ∧ sqrt32 x = 0x7FC00000 ∧ exp2_32 k x = 0x7FC00000 ∧
      log2_32 k x = 0x7FC00000 ∧ sinpi32 k x = 0x7FC00000 ∧ cospi32 k x = 0x7FC00000 ∧ tanh32 k x = 0x7FC00000) ∧
    (rsqrt32 j x).toNat ≤ (rsqrt32 k x).toNat + 1 ∧ (exp2_32 j x).toNat ≤ (exp2_32 k x).toNat + 1 ∧
    (log2_32 j x).toNat ≤ (log2_32 k x).toNat + 1 ∧ (sinpi32 j x).toNat ≤ (sinpi32 k x).toNat + 1 ∧
    (cospi32 j x).toNat ≤ (cospi32 k x).toNat + 1 ∧ (tanh32 j x).toNat ≤ (tanh32 k x).toNat + 1)

/-- R167: what a numeric operand gives, as the real number x that it stands for. The square root is the FP32 value nearest
to √x. Each of the other six functions gives one of the two FP32 values next to its exact real result, the outer one being
an infinity beyond the largest finite magnitude; where FP32 holds the result of a power of two, of its logarithm, of a
reciprocal root or of a quarter turn, it gives that value alone. The reciprocal root is held to this as it stands; of the
other five the neighbours are told to within 2^-100 of the exact result (log entry 14). -/
def Obligations.ChosenFloatValues : Prop :=
  (∀ (w : Word) (n d : Nat), f32 w = .num false n d → ∀ q : Word, q.toNat ≤ 0x7F7FFFFF →
    |(f32 (sqrt32 w)).real - √((f32 w).real)| ≤ |(f32 q).real - √((f32 w).real)|) ∧
  (∀ (k : Nat) (w : Word) (neg : Bool) (n d : Nat), f32 w = .num neg n d → let x := (f32 w).real
    (neg = false → n ≠ 0 → NextTo 0 (1 / √x) (rsqrt32 k w) ∧ Alone (1 / √x) (rsqrt32 k w)) ∧
    NextTo slack (2 ^ x) (exp2_32 k w) ∧
    (neg = false → n ≠ 0 → NextTo slack (Real.logb 2 x) (log2_32 k w)) ∧
    (n % d ≠ 0 → NextTo slack (Real.sin (Real.pi * x)) (sinpi32 k w)) ∧
    (2 * n % (2 * d) ≠ d → NextTo slack (Real.cos (Real.pi * x)) (cospi32 k w)) ∧
    NextTo slack (Real.tanh x) (tanh32 k w)) ∧
  (∀ (k : Nat) (w : Word),
    (∀ m : Int, -149 ≤ m → m ≤ 127 → (f32 w).real = m → Alone (2 ^ m) (exp2_32 k w)) ∧
    (∀ m : Int, w.toNat < 0x7F800000 → (f32 w).real = 2 ^ m → Alone m (log2_32 k w)) ∧
    (∀ neg n d, f32 w = .num neg n d → 2 * n % (2 * d) = d →
      Alone (Real.sin (Real.pi * (f32 w).real)) (sinpi32 k w)) ∧
    (∀ neg n d, f32 w = .num neg n d → n % d = 0 → Alone (Real.cos (Real.pi * (f32 w).real)) (cospi32 k w)))

/-- R164, R165: `frint` and the twelve conversions. Those that can be inexact round by RM, under SR with one draw for each lane;
the others are exact or clamp, whatever RM says. -/
def Obligations.Conversions : Prop :=
  ∀ (s : State) (c : Bool) (g : BitVec 4) (d a : BitVec 6) (r : BitVec 3),
    DrawnWord s (.frint c g d a r) [a.toNat] d.toNat 1 r (fun v ds => toF32 0 0 (frintVal r.toNat (atD 0 ds 0) (f32 (v 0)))) ∧
    DrawnWord s (.cvtBf16F32 c g d a r) [a.toNat] d.toNat 1 r (fun v ds => BitVec.ofNat 32 (bf16.round r.toNat (atD 0 ds 0) (f32 (v 0))).bits) ∧
    RegWord s (.cvtF32Bf16 c g d a r) [a.toNat] d.toNat (fun _ v => toF32 0 0 (bf16.value (v 0).toNat)) ∧
    DrawnWord s (.cvtE4m3F32 c g d a r) [a.toNat] d.toNat 1 r (fun v ds => BitVec.ofNat 32 (e4m3.round r.toNat (atD 0 ds 0) (f32 (v 0))).bits) ∧
    RegWord s (.cvtF32E4m3 c g d a r) [a.toNat] d.toNat (fun _ v => toF32 0 0 (e4m3.value (v 0).toNat)) ∧
    DrawnWord s (.cvtI32F32 c g d a r) [a.toNat] d.toNat 1 r (fun v ds => BitVec.ofInt 32 ((f32 (v 0)).toInt r.toNat (atD 0 ds 0) (-(2 ^ 31)) (2 ^ 31 - 1))) ∧
    DrawnWord s (.cvtN32F32 c g d a r) [a.toNat] d.toNat 1 r (fun v ds => BitVec.ofInt 32 ((f32 (v 0)).toInt r.toNat (atD 0 ds 0) 0 (2 ^ 32 - 1))) ∧
    DrawnWord s (.cvtF32I32 c g d a r) [a.toNat] d.toNat 1 r (fun v ds => toF32 r.toNat (atD 0 ds 0) (FVal.ofInt (v 0).toInt)) ∧
    DrawnWord s (.cvtF32N32 c g d a r) [a.toNat] d.toNat 1 r (fun v ds => toF32 r.toNat (atD 0 ds 0) (FVal.ofInt (v 0).toNat)) ∧
    RegWord s (.cvtI16I32 c g d a r) [a.toNat] d.toNat (fun _ v => (BitVec.ofInt 16 (max (-(2 ^ 15)) (min (2 ^ 15 - 1) (v 0).toInt))).setWidth 32) ∧
    RegWord s (.cvtI8I32 c g d a r) [a.toNat] d.toNat (fun _ v => (BitVec.ofInt 8 (max (-(2 ^ 7)) (min (2 ^ 7 - 1) (v 0).toInt))).setWidth 32) ∧
    RegWord s (.cvtN16N32 c g d a r) [a.toNat] d.toNat (fun _ v => if (v 0).ult 0x10000#32 then v 0 else 0xFFFF#32) ∧
    RegWord s (.cvtN8N32 c g d a r) [a.toNat] d.toNat (fun _ v => if (v 0).ult 0x100#32 then v 0 else 0xFF#32)

/-- R159, R173, R242, R249: words whose result comes from their place. `adr` gives the address of the packet 12 × IMM15 bytes
on, `rdclk` the die's clk, `kget` a register of the file group, and `vinfo` the word of a tile of the task's views.

R173: `kset` gives a file-group register the value of the highest executing lane; ports of A are popped by every lane in
turn. Every other file-group register is unchanged. -/
def Obligations.PlaceAndFileWords : Prop :=
  (∀ (s : State) (c : Bool) (gd : BitVec 4) (d a : BitVec 6) (i : BitVec 15) (n : BitVec 2),
    PlacePair s (.adr c gd d i) d.toNat (fun r _ => BitVec.ofInt 64 ((r.pc.toNat / 12 * 12 : Nat) + 12 * i.toInt)) ∧
    PlacePair s (.rdclk c gd d) d.toNat (fun r _ => BitVec.ofNat 64 (s.dieClk (dieOf r.core))) ∧
    PlaceWord s (.kget c gd d a) d.toNat (fun _ _ g _ _ => g.kreg a.toNat) ∧
    PlaceWord s (.vinfo c gd d n) d.toNat (fun _ p _ _ _ => viewInfo p.views n.toNat)) ∧
  (∀ (s : State) (c : Bool) (gd : BitVec 4) (d a : BitVec 6) (r : Run) (p : Pad) (g : FileGroup),
    Issues s (.kset c gd d a) r p g →
    (NoPorts (.kset c gd d a) → g.tidy → ∀ l, (r.executing g (.kset c gd d a)).getLast? = some l →
      ∃ t, exec (.kset c gd d a) s = .next t ∧ SameButFiles s t ∧
        SameOtherThreads s t r.core r.fg r.lanes ∧ (∃ g', t.fg? r.core r.fg = some g' ∧
          ({ g' with threads := [], kregs := [] } : FileGroup) = { g with threads := [], kregs := [] } ∧
          (d.toNat < 32 → g'.kreg d.toNat = (g.thread l).reg a.toNat) ∧ ∀ n, n ≠ d.toNat → g'.kreg n = g.kreg n) ∧
        ∀ l ∈ r.lanes, ∀ old, g.threads[l]? = some old → ∃ new, t.thread? r.core r.fg l = some new ∧
          new.pc = nextPc (.kset c gd d a) r ∧ Kept old new) ∧
    (r.executing g (.kset c gd d a) ≠ [] → exec (.kset c gd d a) s = .next (
      let x := (r.executing g (.kset c gd d a)).foldl (fun (x : State × List Word) l =>
        x.1.readRegs r.core r.fg l (g.thread l) [a.toNat]) (s.atEffect r g (.kset c gd d a), [])
      x.1.mapFg r.core r.fg fun g => g.setK d.toNat (nth x.2 0))))

/-- R127, R170, R171: the executing lanes of a direct transfer go on at the packet DISP packets from its own, those of an
indirect one at the address in A; `call` and `jmpl` leave the next packet's address in g54:g55. Lanes whose guard is false
fall through. -/
def Obligations.Transfers : Prop :=
  ∀ (s : State) (gd : BitVec 4) (a : BitVec 6) (i : BitVec 21) (r : Run) (p : Pad) (g : FileGroup),
    (Issues s (.br gd i) r p g → ∃ t, exec (.br gd i) s = .next t ∧ LaneResult s t (.br gd i) r g fun _ old new =>
      new.pc = BitVec.ofInt 57 ((r.pc.toNat / 12 * 12 : Nat) + 12 * i.toInt) ∧ Kept old new) ∧
    (Issues s (.call gd i) r p g → (∀ t ∈ g.threads, t.tidy) → ∃ t, exec (.call gd i) s = .next t ∧
      LaneResult s t (.call gd i) r g fun _ old new =>
        WrotePair 54 (BitVec.ofNat 64 (r.pc.toNat / 12 * 12 + 12))
          (BitVec.ofInt 57 ((r.pc.toNat / 12 * 12 : Nat) + 12 * i.toInt)) old new) ∧
    (Issues s (.jmp gd a) r p g → ∃ t, exec (.jmp gd a) s = .next t ∧ LaneResult s t (.jmp gd a) r g fun _ old new =>
      new.pc = (old.pair a.toNat).setWidth 57 ∧ Kept old new) ∧
    (Issues s (.jmpl gd a) r p g → (∀ t ∈ g.threads, t.tidy) → ∃ t, exec (.jmpl gd a) s = .next t ∧
      LaneResult s t (.jmpl gd a) r g fun _ old new =>
        WrotePair 54 (BitVec.ofNat 64 (r.pc.toNat / 12 * 12 + 12)) ((old.pair a.toNat).setWidth 57) old new)

/-- R166: the lanes that execute an exchange read each other's A as it stood before: `shfl` from the index in B, the other
forms from the lane's own index less B, plus B or xor B, and from itself where that lane does not execute it; `ballot` sets
bit j when lane base + j executes it and its A is not 0. With ports among the operands every lane first pops its own. -/
def Obligations.ExchangeWords : Prop :=
  ∀ (s : State) (c : Bool) (gd : BitVec 4) (d a b : BitVec 6) (which : Fin 5) (r : Run) (p : Pad) (g : FileGroup),
    let i : Instr := match which with
      | 0 => .shfl c gd d a b
      | 1 => .shflUp c gd d a b
      | 2 => .shflDown c gd d a b
      | 3 => .shflXor c gd d a b
      | _ => .ballot c gd d a
    let ex := r.executing g i
    let from_ : Nat → Nat → Int := fun l x => match which with
      | 0 => (x : Int)
      | 1 => (l : Int) - x
      | 2 => (l : Int) + x
      | _ => ((l ^^^ x : Nat) : Int)
    Issues s i r p g →
    (NoPorts i → (∀ t ∈ g.threads, t.tidy) → ∃ t, exec i s = .next t ∧ LaneResult s t i r g fun l old new =>
      (which.val < 4 → let j : Int := from_ l (old.reg b.toNat).toNat
        WroteReg d.toNat (if 0 ≤ j ∧ j.toNat ∈ ex then (g.thread j.toNat).reg a.toNat else old.reg a.toNat) (nextPc i r)
          old new) ∧
      (which.val = 4 → ∃ v, WroteReg d.toNat v (nextPc i r) old new ∧ ∀ j, j < 32 →
        v.getLsbD j = decide (l / 32 * 32 + j ∈ ex ∧ (g.thread (l / 32 * 32 + j)).reg a.toNat ≠ 0))) ∧
    exec i s = .next (
      let x := (s.atEffect r g i).laneReads r g i.reads ex
      x.2.foldl (fun u y => u.applyWrite r.core r.fg y.1 (writeOne d.toNat
        (if which.val = 4 then ballotOf x.2 y.1 else fromPartner x.2 y.2 (from_ y.1 (nth y.2 1).toNat)))) x.1)

/-- R175, R177-R180, R186: loads, stores, acquire and release forms, read-only loads and watches place each lane's access,
with the size, destination and data that the word gives it. No register is written before the access is performed.

R181: a `pf` word completes whatever its address holds: each executing lane is behind it with its token set, no register
changes, and its prefetch stands in flight or is complete at once. -/
def Obligations.AccessWords : Prop :=
  (∀ (s : State) (c : Bool) (gd : BitVec 4) (d a : BitVec 6) (sf : BitVec 3) (z : BitVec 2) (t : BitVec 3) (l : BitVec 4),
    AccessWord s (.ld c gd d a z t l) [a.toNat, pairHi a.toNat] t.toNat false
      (fun _ => .load (2 ^ z.toNat) d.toNat false none) ∧
    AccessWord s (.lds c gd d a z t l) [a.toNat, pairHi a.toNat] t.toNat false
      (fun _ => .load (2 ^ z.toNat) d.toNat true none) ∧
    AccessWord s (.ldRo c gd d a z t l) [a.toNat, pairHi a.toNat] t.toNat false
      (fun _ => .loadRo (2 ^ z.toNat) d.toNat) ∧
    AccessWord s (.ldAcq c gd d a sf z t) [a.toNat, pairHi a.toNat] t.toNat false
      (fun _ => .load (2 ^ z.toNat) d.toNat false (some sf.toNat)) ∧
    AccessWord s (.st c gd d a z t l) ([a.toNat, pairHi a.toNat] ++ wideRegs (z == 3) d.toNat) t.toNat true
      (fun v => .store (leBytes (2 ^ z.toNat) (v 3 ++ v 2).toNat) none) ∧
    AccessWord s (.stRel c gd d a sf z t) ([a.toNat, pairHi a.toNat] ++ wideRegs (z == 3) d.toNat) t.toNat true
      (fun v => .store (leBytes (2 ^ z.toNat) (v 3 ++ v 2).toNat) (some sf.toNat)) ∧
    AccessWord s (.watch c gd d a sf t) [a.toNat, pairHi a.toNat, d.toNat] t.toNat false
      (fun v => .watch (v 2).toNat d.toNat sf.toNat none)) ∧
  (∀ (s : State) (c : Bool) (gd : BitVec 4) (a : BitVec 6) (t : BitVec 3) (l : BitVec 4) (r : Run) (p : Pad) (g : FileGroup),
    Issues s (.pf c gd a t l) r p g → NoPorts (.pf c gd a t l) → (∀ k ∈ r.executing g (.pf c gd a t l), (g.threads[k]?).isSome) →
    ∃ u, exec (.pf c gd a t l) s = .next u ∧ SameRegs s u ∧ SameButOps s u ∧
      ∀ k ∈ r.executing g (.pf c gd a t l), Behind u (.pf c gd a t l) r k t.toNat ∧
        ((∃ o, Placed s u r p.ctx [k] (va01 (s.vals r g [a.toNat, pairHi a.toNat] k)) .prefetch o) ∨
          ∃ new, u.thread? r.core r.fg k = some new ∧ ∀ x ∈ new.outs, x.inst = r.inst → x.ready = true))

/-- R182, R183: the atomic words of both widths place one request for the lanes of an issue group that name one address. -/
def Obligations.AtomicWords : Prop :=
  ∀ (s : State) (c : Bool) (gd : BitVec 4) (d a : BitVec 6) (w : BitVec 1) (t : BitVec 3),
    let one := [a.toNat, pairHi a.toNat] ++ wideRegs (w == 1) d.toNat
    AtomWord s (.atomAdd c gd d a w t) one t.toNat 0 (w == 1) d.toNat ∧
    AtomWord s (.atomMins c gd d a w t) one t.toNat 1 (w == 1) d.toNat ∧
    AtomWord s (.atomMaxs c gd d a w t) one t.toNat 2 (w == 1) d.toNat ∧
    AtomWord s (.atomMinu c gd d a w t) one t.toNat 3 (w == 1) d.toNat ∧
    AtomWord s (.atomMaxu c gd d a w t) one t.toNat 4 (w == 1) d.toNat ∧
    AtomWord s (.atomAnd c gd d a w t) one t.toNat 5 (w == 1) d.toNat ∧
    AtomWord s (.atomOr c gd d a w t) one t.toNat 6 (w == 1) d.toNat ∧
    AtomWord s (.atomXor c gd d a w t) one t.toNat 7 (w == 1) d.toNat ∧
    AtomWord s (.atomXchg c gd d a w t) one t.toNat 8 (w == 1) d.toNat ∧
    AtomWord s (.atomCas c gd d a w t) (Instr.atomCas c gd d a w t).reads t.toNat 9 (w == 1) d.toNat ∧
    AtomWord s (.atomFadd c gd d a t) [a.toNat, pairHi a.toNat, d.toNat] t.toNat 10 false d.toNat ∧
    AtomWord s (.atomFmin c gd d a t) [a.toNat, pairHi a.toNat, d.toNat] t.toNat 11 false d.toNat ∧
    AtomWord s (.atomFmax c gd d a t) [a.toNat, pairHi a.toNat, d.toNat] t.toNat 12 false d.toNat

/-- R73, R184, R193, R194, R198: fences, control-memory reads and LSN fences place one operation for each lane.

R196, R197: a `cm.wait` takes its lanes out of the PC table with the offset it waits on; `cm.lsn` gives the LSN of the
lane's last broadcast once that has returned, 0 where it has sent none, and waits otherwise. -/
def Obligations.FencesAndControlReads : Prop :=
  (∀ (s : State) (c : Bool) (gd : BitVec 4) (d a : BitVec 6) (sf : BitVec 3) (z : BitVec 1) (t : BitVec 3),
    OpsWord s (.fence c gd sf t) [] t.toNat true (fun _ => .fence sf.toNat) ∧
    OpsWord s (.cmLd c gd d a z t) [a.toNat] t.toNat false
      (fun v => .cmLoad (v 0).toNat (4 * 2 ^ z.toNat) d.toNat) ∧
    OpsWord s (.fenceSeq c gd a t) [a.toNat, pairHi a.toNat] t.toNat false (fun v => .fenceSeq false (va01 v)) ∧
    OpsWord s (.fenceSeqAll c gd a t) [a.toNat, pairHi a.toNat] t.toNat false (fun v => .fenceSeq true (va01 v))) ∧
  (∀ (s : State) (c : Bool) (gd : BitVec 4) (d a : BitVec 6) (z : BitVec 1) (t : BitVec 3) (r : Run) (p : Pad) (g : FileGroup),
    (Issues s (.cmWait c gd d a z t) r p g → NoPorts (.cmWait c gd d a z t) →
      (∀ k ∈ r.executing g (.cmWait c gd d a z t), (g.threads[k]?).isSome) →
      ∃ u, exec (.cmWait c gd d a z t) s = .next u ∧ SameRegs s u ∧ SameButOps s u ∧
        ∀ k ∈ r.executing g (.cmWait c gd d a z t),
          let v := s.vals r g ([a.toNat] ++ wideRegs (z == 1) d.toNat) k
          Behind u (.cmWait c gd d a z t) r k t.toNat ∧
          (∃ o, Placed s u r p.ctx [k] 0 (.cmWait (v 0).toNat (4 * 2 ^ z.toNat) d.toNat (v 2 ++ v 1).toNat) o) ∧
          ∃ new, u.thread? r.core r.fg k = some new ∧ new.wait = .cmWait ∧ new.waitArg = v 0) ∧
    (Issues s (.cmLsn c gd d t) r p g → NoPorts (.cmLsn c gd d t) → (∀ x ∈ g.threads, x.tidy) → d ≠ 0 →
      (∀ k ∈ r.executing g (.cmLsn c gd d t), (g.threads[k]?).isSome) →
      ∃ u, exec (.cmLsn c gd d t) s = .next u ∧ SameButOps s u ∧
        ∀ k ∈ r.executing g (.cmLsn c gd d t), Behind u (.cmLsn c gd d t) r k t.toNat ∧
          ∃ new, u.thread? r.core r.fg k = some new ∧
          ((g.thread k).lastSent = none → new.pair d.toNat = 0) ∧
          (∀ ref n, (g.thread k).lastSent = some ref → (g.thread k).lastLsn = some n →
            new.pair d.toNat = BitVec.ofNat 64 n) ∧
          ∀ ref, (g.thread k).lastSent = some ref → (g.thread k).lastLsn = none →
            new.regs = (g.thread k).regs ∧ ∃ o, Placed s u r p.ctx [k] 0 (.cmLsn d.toNat ref) o))

/-- R185: `seal` and `unseal` place one operation for the run's executing lanes, over the pages that the first executing lane
names, and nothing else changes until it is performed.

R193, R195: control-memory stores, sums, claims, launches and table updates are broadcast as records with the payloads
that the word's operands give. -/
def Obligations.SealAndBroadcastWords : Prop :=
  (∀ (s : State) (c : Bool) (gd : BitVec 4) (d a : BitVec 6) (sf t : BitVec 3) (set : Bool) (r : Run) (p : Pad) (g : FileGroup),
    let i : Instr := if set then .seal c gd d a sf t else .unseal c gd d a sf t
    Issues s i r p g → ∀ l rest, r.executing g i = l :: rest → (∀ k ∈ l :: rest, (g.threads[k]?).isSome) →
      let v := s.vals r g [a.toNat, pairHi a.toNat, d.toNat] l
      ∃ u, exec i s = .next u ∧ SameRegs s u ∧ (∀ k ∈ l :: rest, Behind u i r k t.toNat) ∧
        (∃ o, Placed s u r p.ctx (l :: rest) (va01 v) (.seal set (va01 v) (v 2).toNat sf.toNat 0 0) o) ∧
        (NoPorts i → SameButOps s u)) ∧
  (∀ (s : State) (c : Bool) (gd : BitVec 4) (d a : BitVec 6) (z r y : BitVec 1) (t : BitVec 3),
    SendWord s (.cmSt c gd d a z r t y) ([a.toNat] ++ wideRegs (z == 1) d.toNat) t.toNat 1 z.toNat d.toNat (r == 1) (y == 1)
      (fun v => (v 0).setWidth 64) (fun v => v 2 ++ v 1) (fun _ => 0) ∧
    SendWord s (.cmAdd c gd d a z r t y) ([a.toNat] ++ wideRegs (z == 1) d.toNat) t.toNat 2 z.toNat d.toNat (r == 1) (y == 1)
      (fun v => (v 0).setWidth 64) (fun v => v 2 ++ v 1) (fun _ => 0) ∧
    SendWord s (.cmClaim c gd d a r t y) [a.toNat] t.toNat 3 0 d.toNat (r == 1) (y == 1)
      (fun v => (v 0).setWidth 64) (fun _ => 0) (fun _ => 0) ∧
    SendWord s (.cmLaunch c gd d a r t y) [a.toNat, pairHi a.toNat, d.toNat, pairHi d.toNat, d.toNat + 2] t.toNat 4 0 0
      (r == 1) (y == 1) (fun v => v 1 ++ v 0) (fun v => v 3 ++ v 2) (fun v => (v 4).toNat % 2 ^ 16) ∧
    SendWord s (.cmPte c gd d a r t y) [a.toNat, pairHi a.toNat, d.toNat, pairHi d.toNat] t.toNat 5 0 0
      (r == 1) (y == 1) (fun v => v 1 ++ v 0) (fun v => v 3 ++ v 2) (fun _ => 0))

/-- R205, R214, R228: engine words that place one operation of the run's leader: the read and the store of a shape record, a
counter update and a counter read, and a guest packet, which carries the issuing context's id.

R205: `shmod` replaces one 32-bit word of a handle's record, writes the record to the handle's shadow in the scratchpad,
and is complete for every lane.

R229: a `qfence` that joins nothing is complete at once; another puts a join entry, with all that its mask names at that
moment, last in the guest queue, and waits for it. -/
def Obligations.EngineWords : Prop :=
  (∀ (s : State) (c : Bool) (h l : BitVec 4) (d a q : BitVec 6) (k : BitVec 1) (t : BitVec 3),
    EngineWord s (.shld c h a t l) [a.toNat, pairHi a.toNat] t.toNat false (fun _ => va01) (fun _ _ => .shapeLoad h.toNat) ∧
    EngineWord s (.shst c h a t l) [a.toNat, pairHi a.toNat] t.toNat true (fun _ => va01)
      (fun p _ => .store (leBytes 64 (p.shape h.toNat).toNat) none) ∧
    EngineWord s (.ctrAdd c d a t l) [a.toNat, d.toNat] t.toNat false (fun p v => s.counterVa p.ctx (v 0).toNat)
      (fun _ v => .counter ((v 0).toNat % 8192) (some (v 1).toNat) 0) ∧
    EngineWord s (.ctrLd c d a t l) [a.toNat] t.toNat false (fun p v => s.counterVa p.ctx (v 0).toNat)
      (fun _ v => .counter ((v 0).toNat % 8192) none d.toNat) ∧
    EngineWord s (.gsend c k d q t l) (upFrom d.toNat 16) t.toNat false (fun _ _ => 0)
      (fun p v => .guest k.toNat q.toNat (packetData ((upFrom 0 16).map v) p.ctx))) ∧
  (∀ (s : State) (c : Bool) (h n l : BitVec 4) (d : BitVec 6) (t : BitVec 3) (r : Run) (p : Pad) (g : FileGroup),
    let i : Instr := .shmod c h d n t l
    Issues s i r p g → NoPorts i → r.executing g i ≠ [] → (∀ k ∈ r.executing g i, (g.threads[k]?).isSome) →
      let sh := shSetWord (p.shape h.toNat) n.toNat (s.vals r g [d.toNat] (r.lead g i) 0).toNat
      ∃ u q, exec i s = .next u ∧ SameRegs s u ∧ u.pad? r.core = some q ∧
        q.shapes = modifyAt p.shapes h.toNat (fun _ => sh) ∧
        q.scratch = tabSetMany 0 p.scratch (p.shadowOff h.toNat) (leBytes 64 sh.toNat) ∧
        { u with pads := s.pads } = s ∧
        ∀ k ∈ r.executing g i, ∃ new, u.thread? r.core r.fg k = some new ∧ new.pc = nextPc i r ∧
          ∀ x ∈ new.outs, x.inst = r.inst → x.ready = true) ∧
  (∀ (s : State) (c : Bool) (k : BitVec 1) (q : BitVec 6) (m l : BitVec 4) (t : BitVec 3) (r : Run) (p : Pad) (g : FileGroup),
    let i : Instr := .qfence c k q m t l
    Issues s i r p g → r.executing g i ≠ [] → (∀ j ∈ r.executing g i, (g.threads[j]?).isSome) → k.toNat < s.sockets.length →
      ∃ u, exec i s = .next u ∧ SameRegs s u ∧ u.mem.bytes = s.mem.bytes ∧
        (m = 0 → SameButThreads s u ∧ ∀ j ∈ r.executing g i, ∃ new, u.thread? r.core r.fg j = some new ∧
          ∀ x ∈ new.outs, x.inst = r.inst → x.ready = true) ∧
        (m ≠ 0 → tabWf GQueue.zero (atD Socket.zero s.sockets k.toNat).queues = true →
          (∃ o, Placed s u r p.ctx (r.executing g i) 0
            (.join k.toNat q.toNat m.toNat (s.fenceMarks p k.toNat q.toNat m.toNat)) o) ∧
          (u.guestQueue k.toNat q.toNat).fifo = (s.guestQueue k.toNat q.toNat).fifo ++
            [.join s.nextId m.toNat (s.fenceMarks p k.toNat q.toNat m.toNat) s.nextId]))

/-- R212, R216-R218: `tcp`, `tcp.red` and `tcp.post` compose an entry from the leader's operands and `ring.arm` arms the one
composed by stores; the entry waits to be published, or has been, and then waits for the engine to take it. With nothing
outstanding before it for the leader and room in the ring it is published at once.

R222, R225: the matrix words put their command, with the records of their handles, last in the core's queue. -/
def Obligations.RingAndMatrixWords : Prop :=
  (∀ (s : State) (c : Bool) (h l : BitVec 4) (d a : BitVec 6) (t : BitVec 3) (r : Run) (p : Pad) (g : FileGroup) (which : Fin 4),
    let i : Instr := match which with
      | 0 => .tcp c h d a t l
      | 1 => .tcpRed c h d a t l
      | 2 => .tcpPost c h d a t l
      | _ => .ringArm c d a t l
    Issues s i r p g → NoPorts i → r.executing g i ≠ [] → (∀ k ∈ r.executing g i, (g.threads[k]?).isSome) →
      let v := s.vals r g i.reads (r.lead g i)
      let arm := decide (which = 3)
      let op := if which = 3 then 0 else which.val + 1
      let hn := if which = 3 then 0 else h.toNat
      let arg := if which = 0 then (v 2).toNat else 0
      let thresh := if which = 3 then (v 1).toNat else 0
      let dst := if which = 3 then 0 else d.toNat
      let va := if which = 3 then 0 else va01 v
      ∃ u o, exec i s = .next u ∧ SameRegs s u ∧ o ∈ u.mem.ops ∧ o.lanes = r.executing g i ∧ o.inst = r.inst ∧
        o.ctx = p.ctx ∧ o.va = va ∧
        (o.kind = .publish op hn arg thresh arm dst ∨ ∃ n f, o.kind = .ringPut n dst f) ∧
        (s.mem.ops = [] → (g.thread (r.lead g i)).outs = [] → countDiff p.notify p.done < 64 →
          o.kind = .ringPut p.notify dst (g.thread (r.lead g i)).floor ∧
          ∃ q, u.pad? r.core = some q ∧
            q.scratch = (p.publish op hn arg va thresh arm (s.coreClk r.core)).scratch)) ∧
  (∀ (s : State) (c : Bool) (h n l : BitVec 4) (z b : BitVec 1) (a : BitVec 6) (t : BitVec 3),
    MatrixWord s (.mma c h z b n t l) [] t.toNat (fun p _ x => x.kind = 1 ∧ x.bank = b.toNat ∧ x.zs = (z == 1) ∧
      x.a = p.shape h.toNat ∧ x.b = p.shape n.toNat) ∧
    MatrixWord s (.mmaGather c h z b n a t l) [a.toNat] t.toNat (fun p v x => x.kind = 2 ∧ x.bank = b.toNat ∧
      x.zs = (z == 1) ∧ x.a = p.shape h.toNat ∧ x.b = p.shape n.toNat ∧ x.goff = (v 0).toNat) ∧
    MatrixWord s (.accClr c b t l) [] t.toNat (fun _ _ x => x.kind = 3 ∧ x.bank = b.toNat) ∧
    MatrixWord s (.accLd c h b a t l) [a.toNat, pairHi a.toNat] t.toNat (fun p v x => x.kind = 4 ∧ x.bank = b.toNat ∧
      x.a = p.shape h.toNat ∧ x.addr = va01 v) ∧
    MatrixWord s (.accSt c h b a t l) [a.toNat, pairHi a.toNat] t.toNat (fun p v x => x.kind = 5 ∧ x.bank = b.toNat ∧
      x.a = p.shape h.toNat ∧ x.addr = va01 v))

/-- R187, R188: a `wait` issues when its lanes' tokens are clear, and without a late promise (R338) its lanes then only move
on; `sleep.until` moves on where its time is reached, and takes a lane out of the PC table with that time where it is not.

R172: the lanes of a `reconv` go on behind it when no thread of their level still in the PC table, or held out of it at a
word that will let it go on, has a lower PC; else they wait at it. -/
def Obligations.WaitSleepAndReconv : Prop :=
  (∀ (s : State) (gd : BitVec 4) (m : BitVec 8) (a : BitVec 6) (r : Run) (p : Pad) (g : FileGroup),
    (Issues s (.wait gd m) r p g → (∀ l ∈ r.executing g (.wait gd m), p.lateFor g l m.toNat = none) →
      HoldWord s (.wait gd m) r g fun _ old new => (∀ k, m.getLsbD k → old.clear k = true) ∧
        new = { old with pc := nextPc (.wait gd m) r, outs := new.outs, age := 0, quiet := 0 }) ∧
    (Issues s (.sleepUntil gd a) r p g → NoPorts (.sleepUntil gd a) →
      HoldWord s (.sleepUntil gd a) r g fun _ old new => new.pc = nextPc (.sleepUntil gd a) r ∧ Kept old new ∧
        let late := (BitVec.ofNat 32 (s.coreClk r.core) - old.reg a.toNat).toNat
        (late < 2 ^ 31 → new.wait = old.wait ∧ new.waitArg = old.waitArg) ∧
        (2 ^ 31 ≤ late → new.wait = .sleep ∧ new.waitArg = old.reg a.toNat))) ∧
  (∀ (s : State) (gd : BitVec 4) (r : Run) (p : Pad) (g : FileGroup),
    Issues s (.reconv gd) r p g → g.splits = [] → r.pc.toNat + 4 < 2 ^ 57 → (∀ l ∈ r.lanes, (g.thread l).level = g.level) →
    ((∀ k u, k ∉ r.lanes → g.threads[k]? = some u → holdsBack u g.level r.pc.toNat = false) →
      ∃ t, exec (.reconv gd) s = .next t ∧ SameRegs s t ∧ ∀ l ∈ r.executing g (.reconv gd), ∀ old, g.threads[l]? = some old →
        ∃ new, t.thread? r.core r.fg l = some new ∧ new.wait = .ready ∧ new.pc = r.pc + 4) ∧
    ((∃ k u, k ∉ r.lanes ∧ g.threads[k]? = some u ∧ holdsBack u g.level r.pc.toNat = true) →
      ∃ t, exec (.reconv gd) s = .next t ∧ SameRegs s t ∧ ∀ l ∈ r.executing g (.reconv gd), ∀ old, g.threads[l]? = some old →
        ∃ new, t.thread? r.core r.fg l = some new ∧ new.wait = .reconv ∧ new.pc = r.pc))

/-- R175, R190: an arrival word holds its lanes at it, out of the PC table, noted as arriving at the barrier with the
weight that `bar.arrive.exp` reads from the register it names, a port popped by every lane in turn; the others name none.

R237, R304: a lane of `exit` with accesses outstanding waits at its exit for them; a lane without any has exited, and when
that was the last of file group 0 at level 0, the pad group's successors are bits [56:0] of the k pairs that the word names.

R127, R140, R243: a `safept` passes to the next packet; with its context's pre-emption pending, a thread without accesses
outstanding parks there with the packet's live mask, and any other waits for them first. -/
def Obligations.BarrierExitAndSafePoint : Prop :=
  (∀ (s : State) (gd : BitVec 4) (d : BitVec 6) (l : BitVec 3) (b : BitVec 4) (r : Run) (p : Pad) (g : FileGroup) (which : Fin 3),
    let i : Instr := match which with
      | 0 => .barArrive gd l b
      | 1 => .barWait gd l b
      | _ => .barArriveExp gd d l b
    Issues s i r p g →
    (NoPorts i → HoldWord s i r g fun _ old new => new.pc = r.pc ∧ new.wait = .barrier ∧ Kept old new ∧
      new.barrier = .arriving l.toNat b.toNat (decide (which = 1))
        (if which = 2 then some (old.reg d.toNat).toNat else none)) ∧
    (which = 2 → exec i s = .next (
      let x := (s.atEffect r g i).laneReads r g [d.toNat] (r.executing g i)
      let stand := fun (w : Nat) => AtBarrier.arriving l.toNat b.toNat false (some w)
      x.2.foldl (fun u y => u.mapThread r.core r.fg y.1 fun t =>
        { t with pc := r.pc, wait := .barrier, waitSub := b.toNat, barrier := stand (nth y.2 0).toNat }) x.1))) ∧
  (∀ (s : State) (gd : BitVec 4) (d : BitVec 6) (n : BitVec 3) (r : Run) (p : Pad) (g : FileGroup),
    let i : Instr := .exit gd d n
    Issues s i r p g →
    ((∀ l ∈ r.executing g i, ∃ old, g.threads[l]? = some old ∧ old.quiet? = false) →
      HoldWord s i r g fun _ old new => new.wait = .exiting d.toNat n.toNat ∧ new.exited = old.exited ∧ new.pc = nextPc i r) ∧
    (g.pendTraps = [] → (∀ u ∈ g.threads, u.barrier = .no) →
      (g.level ≠ 0 → (r.executing g i).length ≤ (if g.level = 2 then g.bank2 else g.bank1).nht) →
      (∀ l ∈ r.executing g i, ∃ old, g.threads[l]? = some old ∧ old.quiet? = true ∧ old.level = g.level) →
      ∃ t, exec i s = .next t ∧
      ∀ l ∈ r.executing g i, ∃ new, t.thread? r.core r.fg l = some new ∧ new.exited = true) ∧
    (g.pendTraps = [] →
      (∀ l old, g.threads[l]? = some old → l ∈ r.executing g i ∧ old.quiet? = true ∧ old.barrier = .no ∧ old.level = 0) →
      r.fg = 0 → g.level = 0 → g.threads ≠ [] → ∃ t q g', exec i s = .next t ∧ t.pad? r.core = some q ∧ t.fg? r.core r.fg = some g' ∧ g'.exited = true ∧
        q.succ = some ((upFrom 0 n.toNat).map fun k =>
          ((g.kreg (d.toNat + 2 * k + 1) ++ g.kreg (d.toNat + 2 * k)).toNat % 2 ^ 57)))) ∧
  (∀ (s : State) (r : Run) (p : Pad) (g : FileGroup), Issues s .safept r p g →
    (∀ l ∈ r.lanes, (g.thread l).level = g.level) →
    HoldWord s .safept r g fun _ old new => new.pc = BitVec.ofNat 57 (r.pc.toNat / 12 * 12 + 12) ∧ Kept old new ∧
      (s.preempt? p.ctx = none → new.wait = old.wait ∧ new.parked = old.parked) ∧
      ((s.preempt? p.ctx).isSome → if old.quiet? then
          new.wait = .ready ∧ new.parked = some (BitVec.ofNat 64 (s.liveMask p g r.pc.toNat))
        else new.wait = .saving (s.liveMask p g r.pc.toNat) ∧ new.parked = old.parked))

/-- R246: `dcwb` lets its lanes go on once their stores to the lines named are visible, and drops those lines from its L1 and
L2; a lane with a store there that is not yet performed, or whose write time has not come, waits. No byte of memory changes.

R246: `icinv` drops the context's instruction-cache lines of 192 bytes that overlap the 256-byte lines named, in every
core, and no other; `fbar` drops the words fetched ahead by its file group, of which later ones are fetched anew. -/
def Obligations.CacheWords : Prop :=
  (∀ (s : State) (c : Bool) (gd : BitVec 4) (d : BitVec 6) (n : BitVec 9) (r : Run) (p : Pad) (g : FileGroup),
    let i : Instr := .dcwb c gd d n
    Issues s i r p g → (∀ l ∈ r.lanes, (g.thread l).level = g.level) → ∃ t, exec i s = .next t ∧ SameRegs s t ∧
      { t with pads := s.pads, mem := { t.mem with copies := s.mem.copies, replicas := s.mem.replicas } } = s ∧
      (∀ x ∈ t.mem.copies, x ∈ s.mem.copies) ∧ (∀ x ∈ t.mem.replicas, x ∈ s.mem.replicas) ∧
      ∀ l ∈ r.executing g i, ∀ old, g.threads[l]? = some old → ∃ new, t.thread? r.core r.fg l = some new ∧
        new.pc = nextPc i r ∧
        let lo := (old.pair d.toNat).toNat / 256 * 256
        let hi := lo + 256 * (n.toNat + 1)
        (new.wait = .cache lo hi ∨ new.wait = .ready) ∧
        ((∃ x ∈ old.own, lineOf x.1 ∈ s.rangeLines p.ctx lo hi ∧ s.dieClk (homeOf (lineOf x.1)) < x.2) ∨
          (∃ o ∈ s.mem.ops, o.core = r.core ∧ o.fg = r.fg ∧ l ∈ o.lanes ∧ lo < o.va + 8 ∧ o.va < hi ∧ o.kind.isStore = true) →
          new.wait = .cache lo hi) ∧
        (old.own = [] → s.mem.ops = [] → new.wait = .ready ∧
          (∀ x ∈ t.mem.copies, x.line ∈ s.rangeLines p.ctx lo hi →
            ¬ (x.l1 = true ∧ x.unit = r.core) ∧ ¬ (x.l1 = false ∧ x.unit = sliceOf r.core)) ∧
          ∀ x ∈ t.mem.replicas, (x.module, x.line) ∈ s.rangeFar p.ctx lo hi →
            ¬ (x.l1 = true ∧ x.unit = r.core) ∧ ¬ (x.l1 = false ∧ x.unit = sliceOf r.core))) ∧
  (∀ (s : State) (c : Bool) (gd : BitVec 4) (d : BitVec 6) (n : BitVec 9) (r : Run) (p : Pad) (g : FileGroup),
    (Issues s (.icinv c gd d n) r p g → ∃ t, exec (.icinv c gd d n) s = .next t ∧ SameRegs s t ∧
      { t with pads := s.pads, icache := s.icache } = s ∧
      ∀ x, x ∈ t.icache ↔ x ∈ s.icache ∧ ∀ l ∈ r.executing g (.icinv c gd d n),
        let lo := ((g.thread l).pair d.toNat).toNat / 256 * 256
        ¬ (x.ctx = p.ctx ∧ lo < 192 * x.line + 192 ∧ 192 * x.line < lo + 256 * (n.toNat + 1))) ∧
    (Issues s (.fbar gd) r p g → ∃ t g', exec (.fbar gd) s = .next t ∧ SameRegs s t ∧ { t with pads := s.pads } = s ∧
      t.fg? r.core r.fg = some g' ∧ (r.executing g (.fbar gd) ≠ [] → g'.fetched = []) ∧
      { g' with threads := [], fetched := [], ahead := 0 } = { g with threads := [], fetched := [], ahead := 0 }))

/-- R248, R302: `rdsr` gives the special register that it names, as its thread, file group, core, die and context have it.

R116, R248, R302: `wrsr` writes half of each lane's generator, all zeros standing for 1, or once, with the highest
executing lane's value, another register, of which reserved bits take nothing; every other special register reads as
before, but that nothing is said here of 33 and 34, which follow QSEL, nor, below level 2, of 30 to 32, of which 30 and 31
are the bank that 17 and 18 write. -/
def Obligations.SpecialRegisterWords : Prop :=
  ((∀ (s : State) (c : Bool) (gd : BitVec 4) (d : BitVec 6) (n : BitVec 9),
    PlaceWord s (.rdsr c gd d n) d.toNat fun r p g l old => s.readSr p r.fg g l old n.toNat) ∧
  ∀ (s : State) (p : Pad) (fg l : Nat) (g : FileGroup) (t : Thread),
    let sr := s.readSr p fg g l t
    let bank := if g.level = 2 then g.bank2 else g.bank1
    let die := atD DieState.zero s.dies (dieOf p.core)
    sr 0 = BitVec.ofNat 32 (s.ownerOf p.ctx * 2 ^ 16 + p.ctx % 2 ^ 16) ∧
    sr 5 ++ sr 4 = BitVec.ofNat 64 die.energy ∧ sr 8 ++ sr 7 = t.rng ∧ sr 10 = BitVec.ofNat 32 p.top ∧
    sr 11 = BitVec.ofNat 32 l ∧ sr 16 = bank.cause ∧ sr 18 ++ sr 17 = bank.epc ∧ sr 20 ++ sr 19 = bank.addr ∧
    sr 21 = bank.info ∧ sr 22 = bank.word ∧ (sr 23).getLsbD 3 = bank.pmode ∧
    (sr 23 >>> 16).toNat = bank.nht % 2 ^ 16 ∧ (∀ k, k < 6 → sr (24 + k) = atD 0 g.tscr k) ∧
    sr 31 ++ sr 30 = g.bank1.epc ∧ sr 32 = BitVec.ofNat 32 s.service.qsel ∧
    ∀ x, s.ctx? p.ctx = some x → sr 3 ++ sr 2 = BitVec.ofInt 64 x.balance ∧ sr 35 = BitVec.ofNat 32 x.erefill) ∧
  (∀ (s : State) (c : Bool) (gd : BitVec 4) (d : BitVec 6) (k : BitVec 9) (r : Run) (p : Pad) (g : FileGroup),
    let i : Instr := .wrsr c gd d k
    let n := k.toNat
    Issues s i r p g → NoPorts i →
    (n = 7 ∨ n = 8 → ∃ t, exec i s = .next t ∧ LaneResult s t i r g fun _ old new => new.pc = nextPc i r ∧
      new.regs = old.regs ∧ new.preds = old.preds ∧
      let v := if n = 7 then old.rng.extractLsb' 32 32 ++ old.reg d.toNat else old.reg d.toNat ++ old.rng.extractLsb' 0 32
      new.rng = if v = 0 then 1 else v) ∧
    (n ≠ 7 → n ≠ 8 → (s.ctx? p.ctx).isSome → (n < 24 ∨ 30 ≤ n ∨ n - 24 < g.tscr.length) →
      ∀ l, (r.executing g i).getLast? = some l →
      ∃ t q g', exec i s = .next t ∧ SameRegs s t ∧ t.pad? r.core = some q ∧ t.fg? r.core r.fg = some g' ∧
        { t with pads := s.pads, service := s.service, ctxs := s.ctxs } = s ∧
        ∀ fg lane th, let v := (g.thread l).reg d.toNat
          let after := t.readSr q fg g' lane th
          let before := s.readSr p fg g lane th
          after n = (if n = 16 then v &&& 0x0007FFFF else if n = 18 ∨ n = 31 then v &&& 0x01FFFFFF else
            if n = 23 then (before 23 &&& ~~~8) ||| (v &&& 8) else if n = 32 then v &&& 63 else v) ∧
          ∀ m, m ≠ n → (m < 30 ∨ 35 ≤ m ∨ (g.level = 2 ∧ m < 33)) → (m = 7 ∨ m = 8 ∨ after m = before m)))

/-- R250, R301, R302: `trap`, `sysc` and, without a debug agent, `brk` of task code enter the handler with causes 0x0000,
0x0002 and 0x0001 and their number; the return address is the next packet, for `brk` the word itself.

R247: a system word of threads in user mode traps with cause 0x0106 at its own address and has none of its effect.

R175, R321: a load or store whose address is not a multiple of its size traps with cause 0x0203 and that address, before
any other test of it, and stores nothing. -/
def Obligations.TakingTraps : Prop :=
  (∀ (s : State) (gd : BitVec 4) (n : BitVec 9) (r : Run) (p : Pad) (g : FileGroup) (w : Word) (which : Fin 3),
    let i : Instr := match which with
      | 0 => .trap gd n
      | 1 => .sysc gd n
      | _ => .brk gd n
    AtWord s i r p g w → g.level = 0 → r.executing g i ≠ [] → (∀ l ∈ r.lanes, (g.threads[l]?).isSome) →
      s.service.debugAgent = false →
      ∃ t, exec i s = .next t ∧ Entered s t i r g (r.executing g i) w
        (match which with | 0 => 0x0000 | 1 => 0x0002 | _ => 0x0001) n.toNat
        (if which = 2 then r.pc.setWidth 64 else BitVec.ofNat 64 ((r.pc.toNat / 12 * 12 + 12) % 2 ^ 57)) 0) ∧
  (∀ (s : State) (c : Bool) (gd : BitVec 4) (d q : BitVec 6) (k : BitVec 1) (r : Run) (p : Pad) (g : FileGroup) (w : Word)
      (which : Fin 4),
    let i : Instr := match which with
      | 0 => .qbind c gd d q
      | 1 => .qunbind c gd q
      | 2 => .gbind c gd d k q
      | _ => .gunbind c gd k q
    AtWord s i r p g w → g.level = 0 → r.executing g i ≠ [] → (∀ l ∈ r.lanes, (g.threads[l]?).isSome) →
      (∀ l ∈ r.executing g i, (g.thread l).system = false) →
      ∃ t, exec i s = .next t ∧ Entered s t i r g (r.executing g i) w 0x0106 0 (r.pc.setWidth 64) 0) ∧
  (∀ (s : State) (c : Bool) (gd : BitVec 4) (d a : BitVec 6) (z : BitVec 2) (k : BitVec 3) (la : BitVec 4) (r : Run) (p : Pad)
      (g : FileGroup) (w : Word) (l : Nat) (store : Bool),
    let i : Instr := if store then .st c gd d a z k la else .ld c gd d a z k la
    AtWord s i r p g w → NoPorts i → g.level = 0 → r.executing g i = [l] → (∀ l ∈ r.lanes, (g.threads[l]?).isSome) →
      ((g.thread l).pair a.toNat).toNat % 2 ^ z.toNat ≠ 0 →
      ∃ t, exec i s = .next t ∧ Entered s t i r g [l] w 0x0203 0 (r.pc.setWidth 64) ((g.thread l).pair a.toNat))

/-- R304: `rti` returns its lanes to TEPC in the mode PMODE, one level down; NHT falls by their number, and the file group is
a level down when it reaches 0. -/
def Obligations.TrapReturn : Prop :=
  ∀ (s : State) (gd : BitVec 4) (r : Run) (p : Pad) (g : FileGroup),
    let i : Instr := .rti gd
    let bank := if g.level = 2 then g.bank2 else g.bank1
    let n := (r.executing g i).length
    Issues s i r p g → g.pendTraps = [] → n ≠ 0 → (∀ u ∈ g.threads, u.wait = .ready) →
      ∃ t g', exec i s = .next t ∧ SameRegs s t ∧ { t with pads := s.pads } = s ∧ t.fg? r.core r.fg = some g' ∧
        (g'.level = if bank.nht ≤ n then g.level - 1 else g.level) ∧
        ((if g.level = 2 then g'.bank2 else g'.bank1) = { bank with nht := bank.nht - n }) ∧
        (if g.level = 2 then g'.bank1 = g.bank1 else g'.bank2 = g.bank2) ∧
        ∀ l ∈ r.executing g i, ∀ old, g.threads[l]? = some old → ∃ new, t.thread? r.core r.fg l = some new ∧
          new.pc = bank.epc.setWidth 57 ∧ new.system = bank.pmode ∧ new.level = old.level - 1

/-- R251, R252, R261, R265: in system mode `qbind` binds a submission queue as the last lane's binding word says and `qunbind`
unbinds it; `gbind` starts the binding of a guest queue to a context, `gunbind` ends that of a bound one, and both hold
their lanes for the guest die's answer. -/
def Obligations.BindingWords : Prop :=
  ∀ (s : State) (c : Bool) (gd : BitVec 4) (d q : BitVec 6) (k : BitVec 1) (r : Run) (p : Pad) (g : FileGroup),
    (Issues s (.qbind c gd d q) r p g → ∀ l, (r.executing g (.qbind c gd d q)).getLast? = some l →
      let w := (g.thread l).pair d.toNat
      ∃ t, exec (.qbind c gd d q) s = .next t ∧ SameRegs s t ∧ { t with pads := s.pads, queues := s.queues } = s ∧
        t.queues = modifyAt s.queues q.toNat fun x =>
          { x with bound := some ((w.extractLsb' 32 16).toNat, (w.extractLsb' 16 2).toNat, (w.extractLsb' 0 16).toNat) }) ∧
    (Issues s (.qunbind c gd q) r p g → r.executing g (.qunbind c gd q) ≠ [] →
      ∃ t, exec (.qunbind c gd q) s = .next t ∧ SameRegs s t ∧ { t with pads := s.pads, queues := s.queues } = s ∧
        t.queues = modifyAt s.queues q.toNat fun x => { x with bound := none }) ∧
    (Issues s (.gbind c gd d k q) r p g → NoPorts (.gbind c gd d k q) → k.toNat < s.sockets.length →
      tabWf GQueue.zero (atD Socket.zero s.sockets k.toNat).queues = true →
      ∀ l, (r.executing g (.gbind c gd d k q)).getLast? = some l →
      ∃ t, exec (.gbind c gd d k q) s = .next t ∧ SameRegs s t ∧ { t with pads := s.pads, sockets := s.sockets } = s ∧
        t.guestQueue k.toNat q.toNat = { s.guestQueue k.toNat q.toNat with
          binding := some (((g.thread l).reg d.toNat).toNat % 2 ^ 16, 0, s.clk) } ∧
        ∀ j ∈ r.executing g (.gbind c gd d k q), (g.threads[j]?).isSome →
          (t.thread? r.core r.fg j).map (·.wait) = some (.binding k.toNat q.toNat)) ∧
    (Issues s (.gunbind c gd k q) r p g → k.toNat < s.sockets.length →
      tabWf GQueue.zero (atD Socket.zero s.sockets k.toNat).queues = true → r.executing g (.gunbind c gd k q) ≠ [] →
      ∃ t, exec (.gunbind c gd k q) s = .next t ∧ SameRegs s t ∧ { t with pads := s.pads, sockets := s.sockets } = s ∧
        ((s.guestQueue k.toNat q.toNat).bound = none → t.sockets = s.sockets) ∧
        ((s.guestQueue k.toNat q.toNat).bound ≠ none →
          t.guestQueue k.toNat q.toNat = { s.guestQueue k.toNat q.toNat with
            unbinding := some (0, s.clk)
            owed := if (s.guestQueue k.toNat q.toNat).stopped then 0 else packetCount (s.guestQueue k.toNat q.toNat).fifo } ∧
          ∀ j ∈ r.executing g (.gunbind c gd k q), (g.threads[j]?).isSome →
            (t.thread? r.core r.fg j).map (·.wait) = some (.binding k.toNat q.toNat)))

/-- R47, R48, R174, R346: the issue unit chooses, of the ready runs of a file group, the one whose age is greatest among those
that have reached the limit, else the first in table order that has not yielded; no register changes.

R50, R51, R317, R330: a chosen run whose code page is absent leaves the PC table as an eft with a free number, and an eft
whose retry has been asked for goes back into it when its lanes' level is the current one. No register changes. -/
def Obligations.IssueAndEftRows : Prop :=
  (∀ (s : State) (core fg : Nat) (p : Pad) (g : FileGroup), s.cur = none → s.pad? core = some p → s.fg? core fg = some g →
    p.stopped = false → g.halted = false → g.exited = false →
    let ready := g.runs.filter (s.runReady p fg g)
    ready ≠ [] → ∃ t r x, exec (.issueSelect core fg) s = .next t ∧ SameRegs s t ∧ x ∈ ready ∧
      t.cur = some r ∧ r.core = core ∧ r.fg = fg ∧ r.lanes = x.2 ∧ r.whole = x.2 ∧ r.ops = [] ∧ r.index = 0 ∧ r.start = BitVec.ofNat 57 x.1 ∧ r.pc = r.start ∧
      r.snap = none ∧ r.inst = s.nextId ∧ s.nextId < t.nextId ∧
      ((∃ y ∈ ready, s.ageLimit p.ctx ≤ g.runAge y.2) → ∀ y ∈ ready, g.runAge y.2 ≤ g.runAge x.2) ∧
      ((∀ y ∈ ready, g.runAge y.2 < s.ageLimit p.ctx) → (∀ y ∈ ready, g.runYielded y.2 = 0) → ready.head? = some x)) ∧
  ((∀ (s : State) (r : Run) (p : Pad) (g : FileGroup) (pc n : Nat), s.cur = some r → s.pad? r.core = some p →
    s.fg? r.core r.fg = some g → s.fetchGroup p g r.start.toNat = .error (.absent pc) → g.level = 0 → r.lanes ≠ [] →
    g.freeEft = some n → ∃ t g', exec .fetchFault s = .next t ∧ SameRegs s t ∧ t.fg? r.core r.fg = some g' ∧
      g'.efts = g.efts ++ [{ num := n, lanes := r.lanes, pc := r.start, va := pc, cause := 0x0200, write := false,
                             held := false, retry := false }] ∧
      ∀ l ∈ r.lanes, ∀ old, g.threads[l]? = some old → ∃ new, t.thread? r.core r.fg l = some new ∧ new.wait = .eft ∧
        new.waitSub = n ∧ new.pc = r.start) ∧
  ∀ (s : State) (core fg num : Nat) (p : Pad) (g : FileGroup) (e : Eft), s.pad? core = some p → s.fg? core fg = some g →
    (g.efts.find? fun x => decide (x.num = num)) = some e → e.retry = true →
    (∀ l ∈ e.lanes, (g.thread l).level = g.level) → ∃ t g', exec (.eftResume core fg num) s = .next t ∧ SameRegs s t ∧ t.fg? core fg = some g' ∧
      g'.efts = g.efts.filter (fun x => decide (x.num ≠ num)) ∧
      ∀ l ∈ e.lanes, ∀ old, g.threads[l]? = some old → old.wait = .eft → old.waitSub = num →
        t.thread? core fg l = some { old with wait := .ready })

/-- R25, R172, R188: a sleeping thread whose tick is reached and a thread at a `reconv` that nothing holds back re-enter the
PC table, the second behind its word, when their level is the current one (R303); a sleeping thread whose tick is not
reached, one whose pad group a save has stopped (R52, R373), and one held back, stay as they are.

R190-R192, R342: the complete arrival of a member lowers the barrier's count by 1 and lets its threads go on behind their
words, those that wait held at the barrier; the last arrival begins a new phase, with every live member expected, and
releases them. A spilled barrier counts by its own row in the same way. -/
def Obligations.WakeAndBarrierRows : Prop :=
  ((∀ (s : State) (core fg l : Nat) (p : Pad) (old : Thread), s.pad? core = some p → s.thread? core fg l = some old → old.wait = .sleep →
    (s.fg? core fg).map (·.level) = some old.level → ∃ t, exec (.sleepWake core fg l) s = .next t ∧ SameButThreads s t ∧ SameOtherThreads s t core fg [l] ∧
      t.thread? core fg l = some (if p.stopped = false ∧ (BitVec.ofNat 32 (s.coreClk core) - old.waitArg).toNat < 2 ^ 31
        then { old with wait := .ready, waitArg := 0 } else old)) ∧
  ∀ (s : State) (core fg l : Nat) (g : FileGroup) (old : Thread), s.fg? core fg = some g → g.threads[l]? = some old →
    old.wait = .reconv → old.level = g.level → g.splits = [] →
    ∃ t, exec (.reconvRelease core fg) s = .next t ∧ SameButThreads s t ∧ SameRegs s t ∧
      t.thread? core fg l = some (if ∃ u ∈ g.threads, holdsBack u old.level old.pc.toNat = true then old
        else { old with wait := .ready, pc := old.pc + 4 })) ∧
  (∀ (s : State) (core fg thread level bar : Nat) (waits spilled : Bool) (n : Nat) (p : Pad),
    let members := s.memberPlaces p fg level (core, fg, thread)
    let row : Instr := if spilled then .barrierSpillArrival core fg thread else .barrierArrival core fg thread
    let mark := members.map fun x => (s.at_ x).mark
    let old := s.barWord p fg level bar
    s.pad? core = some p → (s.at_ (core, fg, thread)).barrier = .arriving level bar waits none →
    (decide (2 ≤ level) && s.barSpilled p level) = spilled → s.arrivalDone members level bar = true → members.Nodup →
    (∀ x ∈ members, ∀ a b c d, (s.at_ x).barrier = .arriving a b c d → d = none) →
    old.exp = n + 1 →
    ∃ t, exec row s = .next t ∧ SameRegs s t ∧ t.mem = s.mem ∧
      (n ≠ 0 → (∃ times, t.barWord p fg level bar = BarWord.mk n old.phase (max old.maxMark (greatest 0 mark)) times ∧
          (2 ≤ level → times = old.seen)) ∧
        ∀ x ∈ members, ∃ new, t.thread? x.1 x.2.1 x.2.2 = some new ∧ new.pc = (s.at_ x).pc + 4 ∧
          (new.barrier = .waiting level bar ∨ (new.barrier = .no ∧ new.wait = .ready))) ∧
      (n = 0 → t.barWord p fg level bar = BarWord.mk (s.aliveMembers p fg level) ((old.phase + 1) % 2 ^ 16) 0 [] ∧
        ∀ x ∈ members, ∃ new, t.thread? x.1 x.2.1 x.2.2 = some new ∧ new.pc = (s.at_ x).pc + 4 ∧ new.barrier = .no ∧
          new.wait = .ready))

/-- R69, R73: an instruction that nothing in flight belongs to and that is complete for every lane clears its token; a fence
with no earlier instruction outstanding is performed, and at slice scope or wider raises the floor to the mark. -/
def Obligations.TokenRow : Prop :=
  (∀ (s : State) (core fg inst : Nat) (g : FileGroup), s.fg? core fg = some g →
    (∀ o ∈ s.mem.ops, ¬ (o.core = core ∧ o.fg = fg ∧ o.inst = inst)) →
    (∀ u ∈ g.threads, ∀ x ∈ u.outs, x.inst = inst → x.ready = true) → (∀ u ∈ g.threads, u.wait = .ready) →
    ∃ t, exec (.tokenClear core fg inst) s = .next t ∧ SameRegs s t ∧
      ∀ l old, g.threads[l]? = some old → t.thread? core fg l =
        (some { old with outs := old.outs.filter (fun x => decide (x.inst ≠ inst)) })) ∧
  ∀ (s : State) (o : Op) (scope l : Nat) (g : FileGroup) (old : Thread) (x : Out), s.mem.ops = [o] → o.kind = .fence scope →
    o.lanes = [l] → s.fg? o.core o.fg = some g → (∀ u ∈ g.threads, u.wait = .ready) → s.thread? o.core o.fg l = some old → old.tokHeld = [] → old.outs = [x] → x.inst = o.inst → old.wait = .ready →
    (6 ≤ scope → s.allVisible old = true) →
    ∃ t new, exec (.tokenClear o.core o.fg o.inst) s = .next t ∧ t.mem.ops = [] ∧ t.thread? o.core o.fg l = some new ∧
      Kept old new ∧ new.floor = (if 3 ≤ scope then max old.floor old.mark else old.floor) ∧
      (∀ u ∈ new.outs, u.inst = o.inst → u.ready = true)

/-- R58, R63, R65: a store that reaches its home when no lease is held there is current at once, at the home's clk; with a
lease that ends within 128 ticks it is held, changing nothing, and takes place by its own row when the lease is over; with
a longer lease it is given the first tick after it, and reads before that tick see the old bytes. Every other byte's last
version stays.

R58, R63: the pending version of a line becomes its current one when the home's clk has reached its write time, and not
before; what is said of memory holds as the version comes, and the host broadcast queues are looked at again behind it
(log entry 33). -/
def Obligations.StoreRows : Prop :=
  (∀ (s : State) (o : Op) (bytes : List Byte) (key l : Nat) (old : Thread),
    let now := s.dieClk (homeOf (lineOf key))
    let e := s.mem.expiry (lineOf key)
    let row : Instr := if o.hold.isSome then .leaseLapse o.id else .storeArrival o.id
    s.mem.ops = [o] → o.kind = .store bytes none → o.loc = .mem key → o.lanes = [l] → o.afterAll = false →
    s.thread? o.core o.fg l = some old → oneLine key bytes.length → s.Plain (s.ownerOf o.ctx) key → s.noneHeld →
    s.heldByMatrix o = false → s.mem.wf = true →
    (s.mem.leaseOver (lineOf key) now → (∀ h, o.hold = some h → h < now) →
      ∃ t new, exec row s = .next t ∧ t.mem.ops = [] ∧ (∀ i v, bytes[i]? = some v → t.mem.byte (key + i) = v) ∧
        (∀ k, k < key ∨ key + bytes.length ≤ k → t.mem.byte k = s.mem.byte k) ∧
        t.thread? o.core o.fg l = some new ∧ Kept old new ∧ new.mark = max old.mark now) ∧
    (now ≤ e → e ≤ now + 128 → e ≠ 0 → o.hold = none →
      ∃ t, exec row s = .next t ∧ t.mem = { s.mem with ops := [{ o with hold := some e }] }) ∧
    (now + 128 < e → o.hold = none → ∃ t, exec row s = .next t ∧
      (∀ i v, bytes[i]? = some v → t.mem.latest (key + i) = v ∧ t.mem.byteAt (key + i) (e + 1) = v) ∧
      ∀ k n, n ≤ e → t.mem.byteAt k n = s.mem.byteAt k n)) ∧
  (∀ (s : State) (line : Nat) (p : Pend), s.mem.pending line = some p → (p.bytes.map (·.1)).Nodup → s.mem.wf = true →
    s.noneHeld → s.mem.windows = [] → s.mem.ops = [] →
    ∃ t : State, exec (.versionCurrent line) s = .next t.pollHbqs ∧
      (p.wt ≤ s.dieClk (homeOf line) → t.mem.pending line = none ∧
        ∀ k, t.mem.byte k = (p.byte? k).getD (s.mem.byte k)) ∧
      (s.dieClk (homeOf line) < p.wt → t.mem = s.mem))

/-- R61, R62, R64, R177, R178: a load that asks the home agent is given the line with a lease to the longer of its read time
and the time asked for, at most 4,096 ticks on, or keeps a longer one of its slice's, and its register receives the bytes;
one that hits a copy in its L1 within its lease receives the bytes of that copy's time. -/
def Obligations.LoadRow : Prop :=
  ∀ (s : State) (o : Op) (size dst key l l2 l1 : Nat) (old : Thread),
    let line := lineOf key
    let now := s.dieClk (homeOf line)
    let rt := max now old.floor
    let v := BitVec.ofNat 32 (leValue ((upFrom key size).map s.mem.byte))
    s.mem.ops = [o] → o.kind = .load size dst false none → o.loc = .mem key → o.lanes = [l] → o.afterAll = false →
    s.thread? o.core o.fg l = some old → old.awaits o.inst dst → tabWf (0 : Word) old.regs = true →
    (size = 1 ∨ size = 2 ∨ size = 4) → dst ≠ 0 → dst < 56 → s.heldByMatrix o = false →
    s.Plain (s.ownerOf o.ctx) key → lineOf (key + size - 1) = line → s.sealedAt o.ctx o.va = false →
    (0 < l2 → (∀ k, key ≤ k → k < key + size → tabGet 0 s.mem.wts k ≤ rt) →
      ∃ t new, exec (.lineFetch o.id l2 l1) s = .next t ∧ t.mem.ops = [] ∧ t.mem.bytes = s.mem.bytes ∧
        t.thread? o.core o.fg l = some new ∧ new.reg dst = v ∧ (∀ n, n ≠ dst → new.reg n = old.reg n) ∧
        ∃ x ∈ t.mem.leases, x.line = line ∧ x.holder = sliceOf o.core ∧ max rt (now + min l2 4096) ≤ x.expiry ∧
          ((∀ y ∈ s.mem.leases, y.line = line → y.holder = sliceOf o.core → y.expiry ≤ max rt (now + min l2 4096)) →
            x.expiry = max rt (now + min l2 4096))) ∧
    (∀ c, s.mem.copy? true o.core line = some c → c.serves old.floor now = true → l2 = 0 → l1 = 0 →
      (∀ k, key ≤ k → k < key + size → tabGet 0 s.mem.wts k ≤ c.asOf) →
      ∃ t new, exec (.lineFetch o.id l2 l1) s = .next t ∧ t.mem = { s.mem with ops := [] } ∧
        t.thread? o.core o.fg l = some new ∧ new.reg dst = v ∧ ∀ n, n ≠ dst → new.reg n = old.reg n)

/-- R64, R182, R183, R186: an atomic request is performed at its word's home in one step, giving the lane the old value and
leaving the function's; a watch that has run for 1,000,000 ticks gives its lane the word as it is. -/
def Obligations.AtomicAndWatchRows : Prop :=
  (∀ (s : State) (o : Op) (aop x y key dst l : Nat) (old : Thread),
    let now := s.dieClk (homeOf (lineOf key))
    let m := leValue ((upFrom key 4).map s.mem.byte)
    s.mem.ops = [o] → o.kind = .atomic aop false [x] [y] dst → o.loc = .mem key → o.lanes = [l] → o.afterAll = false →
    o.hold = none → s.thread? o.core o.fg l = some old → old.awaits o.inst dst → tabWf (0 : Word) old.regs = true →
    dst ≠ 0 → dst < 56 → key % 4 = 0 → s.Plain (s.ownerOf o.ctx) key → s.mem.leaseOver (lineOf key) now → s.noneHeld →
    s.mem.wf = true → s.heldByMatrix o = false → aop < 10 → x < 2 ^ 32 → y < 2 ^ 32 →
    let z := match aop with
      | 0 => (m + x) % 2 ^ 32
      | 1 => (if (BitVec.ofNat 32 x).slt (BitVec.ofNat 32 m) then x else m)
      | 2 => (if (BitVec.ofNat 32 m).slt (BitVec.ofNat 32 x) then x else m)
      | 3 => min m x
      | 4 => max m x
      | 5 => m &&& x
      | 6 => m ||| x
      | 7 => m ^^^ x
      | 8 => x
      | _ => (if m = x then y else m)
    ∃ t new, exec (.atomicRequest o.id) s = .next t ∧ t.mem.ops = [] ∧ leValue ((upFrom key 4).map t.mem.byte) = z ∧
      (∀ k, k < key ∨ key + 4 ≤ k → t.mem.byte k = s.mem.byte k) ∧ t.thread? o.core o.fg l = some new ∧
      new.reg dst = BitVec.ofNat 32 m ∧ ∀ n, n ≠ dst → new.reg n = old.reg n) ∧
  ∀ (s : State) (o : Op) (c dst scope since key l : Nat) (old : Thread),
    let now := s.dieClk (homeOf (lineOf key))
    s.mem.ops = [o] → o.kind = .watch c dst scope (some since) → o.met = none → o.loc = .mem key → o.lanes = [l] →
    s.thread? o.core o.fg l = some old → old.awaits o.inst dst → tabWf (0 : Word) old.regs = true → dst ≠ 0 → dst < 56 →
    since + 1000000 ≤ now → ∃ t new, exec (.watchTimeout o.id) s = .next t ∧ t.mem = { s.mem with ops := [] } ∧
      t.thread? o.core o.fg l = some new ∧ new.reg dst = BitVec.ofNat 32 (leValue (s.mem.bytesAt key 4 now)) ∧
      ∀ n, n ≠ dst → new.reg n = old.reg n

/-- R239, R240, R234: a root merge reaches its home sector and is combined with it element by element; a contribution whose
sector is not dirty in the receiving task's map becomes its contents there, and one that is, is combined. A message that has
arrived is gone. One that waits behind another sector of its merge stays as it is (the model's reading, log entry 77).

R239: a task that finishes chooses its merge target, and sends nothing while contributions to it are on their way; with
its target chosen and none on its way, a task whose declaration holds no tile is over, and its record is gone. -/
def Obligations.MergeRows : Prop :=
  ((∀ (s : State) (m : Merge) (p : Page) (k : Nat),
    (s.mem.merges.find? fun x => decide (x.id = m.id)) = some m → m.target = none → m.stalled = none →
    s.mergeSent m.id = false → s.sectorBehind m = false → s.walk m.ctx m.va = some p → p.check true = .page p → s.pageLoc p m.va = .mem k →
    s.hostFault (s.ownerOf m.ctx) k = none → k % 64 = 0 → m.bytes.length = 64 → m.poison = false →
    s.poisonedAt k = false → s.mem.guestDirty (lineOf k) = false → s.Direct k 64 → s.Calm →
    ∃ t, exec (.rootMerge m.id) s = .next t ∧ t.mem.merges = s.mem.merges.filter (fun x => decide (x.id ≠ m.id)) ∧
      t.holds k (combineSector m.decl ((upFrom k 64).map s.mem.byte) m.bytes) ∧ OnlyBytes s t k 64 ∧
      (m.decl.fmt = 1 → m.decl.op = 0 → ∀ i, i < 16 →
        t.num (k + 4 * i) 4 = (s.num (k + 4 * i) 4 + leValue ((m.bytes.drop (4 * i)).take 4)) % 2 ^ 32)) ∧
  ∀ (s u : State) (m : Merge) (goal a k : Nat) (old : List Byte),
    let map := s.viewMap m.ctx goal m.tile 8
    let dirty := (s.mapEntry m.ctx map m.page).2.testBit m.sector
    (s.mem.merges.find? fun x => decide (x.id = m.id)) = some m → m.target = some goal → m.stalled = none → s.sectorBehind m = false → map ≠ 0 →
    s.viewSector m.ctx goal m.tile 8 map m.page m.sector m.decl = some (u, a) →
    u.devKey m.ctx (a + 64 * m.sector) true = some k → u.devRead m.ctx (a + 64 * m.sector) 64 = some old →
    k % 64 = 0 → m.bytes.length = 64 → m.poison = false → u.poisonedAt k = false → u.mem.guestDirty (lineOf k) = false → u.Direct k 64 →
    u.Calm → ∃ t, exec (.contributionArrive m.id) s = .next t ∧
      t.mem.merges = s.mem.merges.filter (fun x => decide (x.id ≠ m.id)) ∧
      t.holds k (if dirty then combineSector m.decl old m.bytes else m.bytes)) ∧
  (∀ (s : State) (m : Merge), (s.mem.merges.find? fun x => decide (x.id = m.id)) = some m → s.sectorBehind m = true →
    exec (.rootMerge m.id) s = .next s ∧ exec (.contributionArrive m.id) s = .next s) ∧
  (∀ (s : State) (ctx rec_ : Nat) (r : VRec), s.vrec? ctx rec_ = some r →
    (r.target = none → s.recByte ctx rec_ 8 = 3 →
      (s.mem.merges.any fun m => decide (m.ctx = ctx ∧ m.target = some rec_)) = true →
      ∃ t, exec (.taskFinish ctx rec_) s = .next t ∧
        t.vrec? ctx rec_ = some { r with target := some (s.mergeTarget ctx rec_) } ∧ t.mem.merges = s.mem.merges) ∧
    (r.target.isSome → s.mergesTo ctx rec_ = false →
      (∀ x ∈ r.tiles, x.pages = 0) →
      ∃ t, exec (.taskFinish ctx rec_) s = .next t ∧ t.vrec? ctx rec_ = none ∧ t.mem.merges = s.mem.merges) ∧
    (r.target.isSome → s.mergesTo ctx rec_ = true → exec (.taskFinish ctx rec_) s = .next s))

/-- R52, R310-R312, R377: a request opens one pre-emption of a context; copy issue stops once every thread is at a safe
point, not before; a save whose images are all written frees the cores, launches and stacks of the context; and PTIMEOUT
forces a save that still waits for threads, whose system handlers are abandoned, no sooner. -/
def Obligations.PreemptRows : Prop :=
  ∀ (s : State) (ctx : Nat),
    (s.preempt? ctx = none → s.mem.ops = [] → exec (.preemptionRequest ctx) s =
      .next { s with preempts := s.preempts ++ [Preempt.mk ctx s.clk 1 false none 0 0 [] []] }) ∧
    ((s.preempt? ctx).isSome → exec (.preemptionRequest ctx) s = .next s) ∧
    ∀ x, s.preempt? ctx = some x →
      (x.step = 1 → s.threadsSafe ctx = true → ∃ t, exec (.copyIssueStop ctx) s = .next t ∧
        t.preempt? ctx = some { x with step := 2 } ∧ t.mem = s.mem ∧
        t.pads = s.pads.map fun p => if p.ctx = ctx then { p with stopped := true } else p) ∧
      (s.threadsSafe ctx = false → exec (.copyIssueStop ctx) s = .next s) ∧
      (x.step = 4 → x.stalled = none → s.Calm → (s.pads.map (·.core)).Nodup →
        (∀ l ∈ s.launches, l.ctx = ctx → l.id ∈ x.written ∧ s.savePending l.id = false) →
        ∃ t, exec (.contextSave ctx) s = .next t ∧ t.pads = s.pads.filter (fun p => decide (p.ctx ≠ ctx)) ∧
          t.launches = s.launches.filter (fun l => decide (l.ctx ≠ ctx)) ∧ t.preempt? ctx = none ∧
          t.spawns = s.spawns.map fun q => q.filter fun y => decide (y.ctx ≠ ctx)) ∧
      ∀ c, s.ctx? ctx = some c →
        (s.clk < x.since + c.ptimeout → exec (.forcedSave ctx) s = .next s) ∧
        (x.since + c.ptimeout ≤ s.clk → x.step = 1 → s.threadsSafe ctx = false → s.unreached ctx = [] →
          ∃ t, exec (.forcedSave ctx) s = .next t ∧ t.preempt? ctx = some { x with forced := true, step := 2 } ∧
            ∀ q ∈ t.pads, q.ctx = ctx → q.stopped = true ∧ ∀ g ∈ q.fgs, g.level < 2 ∨ g.halted = true)

/-- R26, R42, R281: every 1,000,000 ticks each balance rises by its refill, up to the cap; every 1,000 ticks the dies' meters
advance by their readings and each context pays its shares; and after each charge the governor lowers by 100 MHz, above
1.0 GHz, the compute die that draws most where the draw passes the cap, raises the slowest below 2.0 GHz where the draw is
under 95% of it, and otherwise changes no clock. That each share is rounded down is the model's choice (log entry 23). -/
def Obligations.EnergyRows : Prop :=
  ∀ (s : State),
    (s.refills < s.clk / 1000000 → exec .balanceRefill s = .next { s with refills := s.refills + 1, ctxs := s.ctxs.map fun c =>
      { c with balance := min (c.ecap : Int) (c.balance + (c.erefill : Int)) } }) ∧
    (s.clk / 1000000 ≤ s.refills → exec .balanceRefill s = .next s) ∧
    (∀ readings active, s.energyMark < s.clk / 1000 → ∃ t, exec (.energyCharge readings active) s = .next t ∧
      t.energyMark = s.energyMark + 1 ∧ (∀ i d, s.dies[i]? = some d →
        ∃ e, t.dies[i]? = some e ∧ e.energy = d.energy + atD 0 readings i ∧ e.clock = d.clock) ∧
      t.ctxs = s.ctxs.map fun c => { c with balance := c.balance - (((upFrom 0 24).map fun d =>
        shareOf c.id (atD 0 readings d) (s.activeOn d active)).foldl (· + ·) 0 : Nat) }) ∧
    (∀ readings active, s.clk / 1000 ≤ s.energyMark → exec (.energyCharge readings active) s = .next s) ∧
    (s.energyMark ≤ s.governed → exec .governorStep s = .next s) ∧
    (s.governed < s.energyMark → s.dies.length = 25 → (∀ d ∈ s.dies, d.clock ≤ 20) →
      let draw := fun (d : DieState) => d.recent.foldl (· + ·) 0
      let sum := (s.dies.map draw).foldl (· + ·) 0
      let die := fun (n : Nat) => atD DieState.zero s.dies n
      ∃ t, exec .governorStep s = .next t ∧ t.governed = s.governed + 1 ∧ t.mem = s.mem ∧ SameRegs s t ∧
        (10 * s.service.modCap < sum → ∃ n, n < 24 ∧ (∀ m, m < 24 → draw (die m) ≤ draw (die n)) ∧
          t.dies = if 10 < (die n).clock then modifyAt s.dies n (fun d => { d with clock := d.clock - 1 }) else s.dies) ∧
        (sum ≤ 10 * s.service.modCap → sum * 100 < 950 * s.service.modCap →
          ∃ n, n < 24 ∧ (∀ m, m < 24 → (die n).clock ≤ (die m).clock) ∧
          t.dies = if (die n).clock < 20 then modifyAt s.dies n (fun d => { d with clock := d.clock + 1 }) else s.dies) ∧
        (sum ≤ 10 * s.service.modCap → 950 * s.service.modCap ≤ sum * 100 → t.dies = s.dies))

/-- R207, R208, R210-R212: the engine takes the entry at HEAD: it runs from then on, STATUS 1 and its promise in its slot, HEAD
one further, the promise neither past nor before those it has given. No register changes where no word waits for it.

R77, R210, R211, R335: the entry at the head of a ring, within its promise, that has failed, or that is finished with nothing to follow and its
increment made, leaves the ring: its STATUS is the failure's or 2, DONE is one beyond its count, and the lanes whose word
issued it have that word complete and their floors at least at its last write. -/
def Obligations.EntryTakeAndRetire : Prop :=
  (∀ (s : State) (core promise : Nat) (p : Pad),
    let e : Entry := { s.readEntry p p.head with marks := s.entryMarks p (s.readEntry p p.head) }
    let at_ := min (max promise (max (s.coreClk core) p.promised)) (s.coreClk core + 2 ^ 31 - 1)
    s.pad? core = some p → s.mem.ops = [] → s.mayTake p = true → 0 < p.spad → tabWf (0 : Byte) p.scratch = true →
    (tabGet 0 p.scratch (p.slotOff p.head)).toNat / 16 ≠ 3 →
    (tabGet 0 p.scratch (p.slotOff p.head + 2)).toNat.testBit 1 = false → s.acceptFault p e false = none →
    ∃ t q, exec (.entryTake core promise) s = .next t ∧ SameRegs s t ∧ t.mem = s.mem ∧ t.pad? core = some q ∧
      q.ring = p.ring ++ [{ e with promise := at_ }] ∧ q.head = (p.head + 1) % 2 ^ 32 ∧ q.done = p.done ∧
      q.notify = p.notify ∧ q.word (p.slotOff p.head + 4) = at_ % 2 ^ 32 ∧
      tabGet 0 q.scratch (p.slotOff p.head) = BitVec.ofNat 8 (16 + e.op)) ∧
  (∀ (s : State) (p : Pad) (e : Entry) (rest : List Entry) (status : Nat), s.pad? e.core = some p → p.ring = e :: rest →
    s.entry? e.id = some e → s.entryLate e = false → s.Calm → 0 < p.spad → tabWf (0 : Byte) p.scratch = true →
    ((e.fail ≠ 0 ∧ status = e.fail) ∨ (e.fail = 0 ∧ e.finished = true ∧ e.armedDie = none ∧ e.follow = false ∧
      (e.cnt = true → e.counted = true) ∧ status = 2)) →
    ∃ t q, exec (.entryRetire e.core) s = .next t ∧ t.pad? e.core = some q ∧
      q.ring = p.ring.filter (fun x => decide (x.id ≠ e.id)) ∧ q.done = (e.count + 1) % 2 ^ 32 ∧ q.head = p.head ∧
      tabGet 0 q.scratch (p.slotOff e.count) = BitVec.ofNat 8 (status * 16 + e.op) ∧ t.mem.bytes = s.mem.bytes ∧ SameRegs s t ∧
      (e.inst ≠ 0 → ∀ l ∈ e.lanes, ∀ old, s.thread? e.core e.fg l = some old →
        ∃ new, t.thread? e.core e.fg l = some new ∧ new.floor = max old.floor e.maxWt ∧
          ∀ o ∈ new.outs, o.inst = e.inst → o.ready = true))

/-- R213, R335, R337: a copy whose source page is absent stalls there with 0x0200, and where it is present moves bytes in
order; an entry that has reached its promise gets a later one, in its slot and counted. -/
def Obligations.EntryMoveRows : Prop :=
  (∀ (s : State) (e : Entry) (budget src dst n : Nat), s.Goes e → e.op = 1 → e.started = true →
    e.rows < tileBytes e.shape → 0 < budget → tilePiece e.shape e.dst e.rows budget = (src, dst, n) → s.Calm →
    (s.engineRes e src false = (s, .bad 0x0200) →
      ∃ t, exec (.entryStall e.id budget) s = .next t ∧ SameRegs s t ∧ RingsMapped s t e.id fun x =>
        { x with stalled := some 0x0200, stallVa := src, parkedOn := 0x0200 }) ∧
    (∀ k core off q, let now := s.dieClk (homeOf (lineOf k))
      let rt := max e.floor (e.readAt.getD now)
      rt ≤ now → s.engineRes e src false = (s, .at_ (.mem k)) → s.engineRes e dst true = (s, .at_ (.spad core off)) →
      s.pad? core = some q → tabWf (0 : Byte) q.scratch = true → s.hostFault (s.ownerOf e.ctx) k = none →
      s.poisonedAt k = false → s.mem.pending (lineOf k) = none → n = budget → e.rows + n < tileBytes e.shape →
      ∃ t q', exec (.entryStall e.id budget) s = .next t ∧ SameRegs s t ∧ t.mem.bytes = s.mem.bytes ∧
        t.pad? core = some q' ∧
        q'.scratchBytes off n = s.mem.bytesAt k n rt ∧
        (∀ a, a < off ∨ off + n ≤ a → tabGet 0 q'.scratch a = tabGet 0 q.scratch a) ∧
        q'.ring = q.ring.map fun x => if x.id = e.id then
          { x with rows := x.rows + n, maxWt := max x.maxWt (s.coreClk core), parkedOn := 0 } else x)) ∧
  ∀ (s : State) (e : Entry) (promise : Nat) (p : Pad), s.entry? e.id = some e → e.armedDie = none →
    s.pad? e.core = some p → 0 < p.spad → tabWf (0 : Byte) p.scratch = true →
    (s.coreClk e.core < e.promise → exec (.promiseRevision e.id promise) s = .next s) ∧
    (e.promise ≤ s.coreClk e.core → ∃ t q n, exec (.promiseRevision e.id promise) s = .next t ∧ SameRegs s t ∧
      s.coreClk e.core < n ∧ t.pad? e.core = some q ∧ q.word (p.slotOff e.count + 4) = n % 2 ^ 32 ∧
      q.ring = p.ring.map fun x => if x.id = e.id then { x with promise := n, revisions := x.revisions + 1 } else x)

/-- R67, R214, R215, R336: the increment of a finished entry adds 1 to its event counter; a fired entry that has finished
without one frees its trigger slot; and a merge window's hold ends at its tick, not before, and starts every fetch that
joined it, with one read time not before any of their floors. -/
def Obligations.CounterAndTriggerRows : Prop :=
  (∀ (s : State) (e : Entry) (k : Nat), s.entry? e.id = some e → e.cnt = true → e.counted = false → e.finished = true →
    e.fail = 0 → s.followDone e = true → e.maxWt ≤ s.clk → s.entryQuiet e = true →
    (∀ a m pa, e.firstByte = some a → (s.engineRes e a false).2 ≠ .at_ (.remote m pa)) → (s.ctx? e.ctx).isSome →
    s.counterGone e.ctx e.cctr = false → s.counterReady e.ctx e.cctr = true → s.counterKey e.ctx e.cctr = some k → s.Direct k 8 → s.Calm →
    ∃ t, exec (.cntIncrement e.id) s = .next t ∧ t.num k 8 = (s.num k 8 + 1) % 2 ^ 64 ∧ OnlyBytes s t k 8 ∧
      SameRegs s t ∧ RingsMapped s t e.id fun x => { x with counted := true }) ∧
  (∀ (s : State) (e : Entry) (die slot : Nat),
    (s.triggers.find? fun x => decide (x.armedDie = some die ∧ x.slot = slot)) = some e → e.fired = true →
    e.tested = true → e.finished = true → e.fail = 0 → e.cnt = false → s.entry? e.id = some e → s.mem.ops = [] →
    ∃ t, exec (.triggerSlotFree die slot) s = .next t ∧ SameRegs s t ∧
      t.triggers.map (·.id) = (s.triggers.map (·.id)).filter fun x => decide (x ≠ e.id)) ∧
  ∀ (s : State) (h : Hold), (s.mem.holds.find? fun x => decide (x.id = h.id)) = some h →
    (s.clk < h.endsAt → exec (.mergeWindowHoldEnd h.id) s = .next s) ∧
    (h.endsAt ≤ s.clk → let floors := h.joined.map fun x => ((s.entry? x).map (·.floor)).getD 0
      ∃ t, exec (.mergeWindowHoldEnd h.id) s = .next t ∧
      t.mem = { s.mem with holds := s.mem.holds.filter fun x => decide (x.id ≠ h.id) } ∧
      ∀ x ∈ h.joined, ∀ e, s.entry? x = some e → 
        t.entry? x = some { e with started := true, readAt := some (greatest (s.dieClk (h.slice / 8)) floors) })

/-- R217-R219, R339: a posting opens a window of its shape at its home; a contribution's element is combined with the window's
partial, the first as it is, and counted; with no window there the contribution keeps the element that it has read, waits 256
ticks and then twice as long each time, up to 65,536, and tries again no sooner. -/
def Obligations.CollectiveRows : Prop :=
  (∀ (s : State) (e : Entry) (place k : Nat), s.Goes e → e.op = 3 → s.takeAnswer e.id = none → s.entryQuiet e = true →
    s.recOf e = .ok (some place) → s.engineRes e e.dst true = (s, .at_ (.mem k)) → s.mem.windows = [] →
    s.windowInPage e.ctx e.shape e.dst = true →
    let w := Window.mk s.nextId (s.ownerOf e.ctx) e.ctx k e.dst e.shape (windowElems e.shape) (shExpect e.shape) [] [] [place]
      0 []
    w.storage ≤ partialRoom → ∃ t, exec (.windowPost e.id) s = .next t ∧ t.mem = { s.mem with windows := [w] } ∧
      SameRegs s t ∧ RingsMapped s t e.id fun x => { x with finished := true }) ∧
  (∀ (s : State) (e : Entry) (rec_ : Option Nat) (bs : List Byte) (k : Nat), s.Goes e → e.op = 2 → e.retryAt = 0 →
    s.takeAnswer e.id = none → s.entryQuiet e = true → s.recOf e = .ok rec_ →
    s.redRead e = (s, .bytes bs) → s.engineRes e (redElem e e.rows).2 true = (s, .at_ (.mem k)) → s.stackGone k = false →
    (∀ w, s.mem.windows = [w] → w.owner = s.ownerOf e.ctx → w.covers k = true → shFmt w.shape = 7 → shFmt e.shape = 7 →
      shRop w.shape = 0 → shRop e.shape = 0 → (k - w.key) % 8 = 0 → tabWf 0 w.partials = true → tabWf 0 w.counts = true →
      (e.atFirst = false → e.win = w.id) →
      let i := (k - w.key) / 8
      tabGet 0 w.counts i + 1 < w.expect → i < w.elems → bs.length = 8 →
      ∃ t x, exec (.contributionCombine e.id 1) s = .next t ∧ SameRegs s t ∧ t.mem.windows = [x] ∧
        tabGet 0 x.counts i = tabGet 0 w.counts i + 1 ∧
        tabGet 0 x.partials i = (if tabGet 0 w.counts i = 0 then leValue bs
          else (tabGet 0 w.partials i + leValue bs) % 2 ^ 64) ∧
        (∀ j, j ≠ i → tabGet 0 x.partials j = tabGet 0 w.partials j ∧ tabGet 0 x.counts j = tabGet 0 w.counts j) ∧
        RingsMapped s t e.id fun x => { x with rows := x.rows + 1, win := w.id, retryGap := 0, retryAt := 0, firstTry := 0,
                                               parkedOn := 0, held := none, finished := decide (redCount x.shape ≤ x.rows + 1) }) ∧
    (s.mem.windows = [] → e.rows = 0 → e.retryGap = 0 → ∃ t, exec (.contributionCombine e.id 1) s = .next t ∧
      SameRegs s t ∧ t.mem = s.mem ∧ ∀ x, t.entry? e.id = some x →
        x.retryAt = s.coreClk e.core + 256 ∧ x.rows = 0 ∧ x.held = some (leValue bs))) ∧
  ∀ (s : State) (e : Entry) (rec_ : Option Nat) (bs : List Byte) (k : Nat), s.entry? e.id = some e → s.mem.windows = [] →
    (s.coreClk e.core < e.retryAt → exec (.contributionRetry e.id) s = .next s) ∧
    let u := s.mapRing e.id fun x => { x with retryAt := 0 }
    let f : Entry := { e with retryAt := 0 }
    (e.retryAt ≠ 0 → e.retryAt ≤ s.coreClk e.core → s.coreClk e.core < e.firstTry + 1000000 → u.Goes f → e.op = 2 →
      u.takeAnswer e.id = none → u.entryQuiet f = true → u.recOf f = .ok rec_ → e.rows = 0 → e.retryGap ≠ 0 →
      u.redRead f = (u, .bytes bs) → u.engineRes f (redElem f 0).2 true = (u, .at_ (.mem k)) → u.stackGone k = false →
      ∃ t, exec (.contributionRetry e.id) s = .next t ∧ SameRegs s t ∧ t.mem = s.mem ∧ ∀ x, t.entry? e.id = some x →
        x.retryAt = s.coreClk e.core + min 65536 (2 * e.retryGap) ∧ x.rows = 0 ∧ x.held = some (leValue bs))

/-- R123, R222, R225, R340: the sequencer clears a bank, applies a K step of two blocks in ascending K to every entry of its
bank, and lets a cleared command go with its lanes' word complete; a fill whose page is absent halts it there with 0x0200,
changing no bank. -/
def Obligations.MatrixRows : Prop :=
  ∀ (s : State) (core : Nat) (p : Pad) (c : MatCmd) (rest : List MatCmd), s.pad? core = some p → p.mq = c :: rest →
    c.stalled = none → s.matrixHeld core c = false → tabWf (0 : BitVec 80) s.acc = true → c.bank < 2 →
    (c.applied = false → c.kind = 3 → ∃ t q, exec (.matrixStep core) s = .next t ∧ SameRegs s t ∧
      t.pad? core = some q ∧ q.mq.head? = some { c with applied := true } ∧ t.mem = s.mem ∧
      (∀ i j, i < 128 → j < 128 → t.accGet core c.bank i j = 0) ∧
      ∀ b i j, b < 2 → b ≠ c.bank → i < 128 → j < 128 → t.accGet core b i j = s.accGet core b i j) ∧
    (c.applied = false → c.kind = 1 ∨ c.kind = 2 → c.steps < c.stepCount → ∃ t q c', exec (.matrixStep core) s = .next t ∧
      SameRegs s t ∧ t.pad? core = some q ∧ q.mq.head? = some c' ∧ c'.id = c.id ∧ c'.steps = c.steps + 1 ∧
      c'.applied = decide (c.stepCount ≤ c.steps + 1) ∧
      (∀ i j, i < 128 → j < 128 →
        let step := fun (b : Nat) (x : BitVec 80) =>
          BitVec.ofNat 80 (blockStep c.zs (p.rowBlock c i b) (p.opBlock c.b j b) x).bits
        t.accGet core c.bank i j = step (2 * c.steps + 1) (step (2 * c.steps) (s.accGet core c.bank i j))) ∧
      ∀ b i j, b < 2 → b ≠ c.bank → i < 128 → j < 128 → t.accGet core b i j = s.accGet core b i j) ∧
    (c.applied = true → c.kind = 3 → (∀ x ∈ rest, x.stalled = none) → ∃ t q, exec (.matrixStep core) s = .next t ∧
      SameRegs s t ∧ t.acc = s.acc ∧ t.pad? core = some q ∧ q.mq = p.mq.filter (fun x => decide (x.id ≠ c.id)) ∧
      (c.inst ≠ 0 → ∀ l ∈ c.lanes, ∀ old, s.thread? core c.fg l = some old →
        ∃ new, t.thread? core c.fg l = some new ∧ new.floor = max old.floor c.maxWt ∧
          ∀ o ∈ new.outs, o.inst = c.inst → o.ready = true)) ∧
    (c.applied = false → c.kind = 4 → c.buf = [] → 0 < accBytes c.a → accMisaligned c.a c.addr 0 = false →
      let floor := ((s.thread? core c.fg (leastD 0 c.lanes)).getD Thread.gone).floor
      let at_ := accAddr c.a c.addr 0
      s.engineRead (c.asEntry p floor) at_.1 (min at_.2 (64 - at_.1 % 64)) floor = (s, .bad 0x0200) →
      ∃ t q, exec (.matrixQueueStall core) s = .next t ∧ SameRegs s t ∧ t.acc = s.acc ∧ t.pad? core = some q ∧
        q.mq.head? = some { c with stalled := some 0x0200, stallVa := at_.1, parkedOn := 0x0200 })

/-- R95-R97, R195: a STORE, ADD or CLAIM record of an owner with a partition that holds its bytes writes the replica, in LSN
order: the operand, the sum, or for a word that holds 0 its claimer's context and LSN. Every other byte of the replica
stays.

R93, R94, R96, R99, R275: a LAUNCH record whose mask names the module enters the queue that its context is bound to,
behind what the ring holds; PART writes a partition entry, SYSST a word of the system page beyond that table, and KEYROLL
switches an owner's key.

R5, R98, R269, R271: a PTE record first stores the entry, its reserved bits 0, and drops the cached translations of its owner's contexts in the
page; it is applied when every guest die has acknowledged, and not before. -/
def Obligations.ReplicaRecords : Prop :=
  (∀ (s : State) (r : Stamped) (type a : Nat), s.AtHead r → hdrType r.hdr = type → hdrSize r.hdr ≤ 1 →
    tabWf (0 : Byte) s.tap.cmem = true →
    let w := if type = 3 ∨ hdrSize r.hdr = 1 then 8 else 4
    let old := s.cmRead a w
    s.cmPlace (hdrOwner r.hdr) (r.p0.toNat % 2 ^ 22) w = some a →
    ∀ row : Instr, (type = 1 ∧ row = .storeRecord) ∨ (type = 2 ∧ row = .addRecord) ∨ (type = 3 ∧ row = .claimRecord) →
    ∃ t, exec row s = .next t ∧ Applied t r ∧ t.tap.missing = s.tap.missing ∧ SameRegs s t ∧
      t.cmRead a w = (if type = 1 then r.p1.toNat % 2 ^ (8 * w) else if type = 2 then (old + r.p1.toNat) % 2 ^ (8 * w)
        else if old = 0 then hdrCtx r.hdr * 2 ^ 48 + r.lsn % 2 ^ 48 else old) ∧
      ∀ k, k < a ∨ a + w ≤ k → tabGet 0 t.tap.cmem k = tabGet 0 s.tap.cmem k) ∧
  (∀ (s : State) (r : Stamped), s.AtHead r → tabWf (0 : Byte) s.tap.cmem = true →
    (∀ q, hdrType r.hdr = 4 → r.p1.toNat.testBit s.tap.position = true →
      s.boundQueue (hdrCtx r.hdr) = some q → (s.desc (hdrCtx r.hdr)).isSome →
      ∃ t, exec .launchRecord s = .next t ∧ Applied t r ∧ SameRegs s t ∧
        t.queues = modifyAt s.queues q fun k => { k with waiting := k.waiting ++
          [Waiting.mk (hdrCtx r.hdr) (r.p0.toNat % 2 ^ 57) r.p1.toNat (hdrAux r.hdr) (hdrOwner r.hdr) r.lsn k.tail] }) ∧
    (hdrType r.hdr = 4 → r.p1.toNat.testBit s.tap.position = false →
      ∃ t, exec .launchRecord s = .next t ∧ Applied t r ∧ SameRegs s t ∧ t.queues = s.queues) ∧
    (hdrType r.hdr = 0x20 → hdrOwner r.hdr = 0 → ∃ t, exec .part s = .next t ∧ Applied t r ∧ SameRegs s t ∧
      t.cmRead (8 * (r.p0.toNat % 64)) 8 = r.p1.toNat) ∧
    (hdrType r.hdr = 0x21 → hdrOwner r.hdr = 0 → let off := r.p0.toNat % 2 ^ 16 / 8 * 8
      ∃ t, exec .sysst s = .next t ∧ Applied t r ∧ SameRegs s t ∧ (512 ≤ off → t.cmRead off 8 = r.p1.toNat) ∧
        (off < 512 → t.tap.cmem = s.tap.cmem)) ∧
    (hdrType r.hdr = 0x22 → hdrOwner r.hdr = 0 → tabWf (0 : Nat) s.tap.keys = true → let o := r.p0.toNat % 4096
      ∃ t, exec .keyroll s = .next t ∧ Applied t r ∧ SameRegs s t ∧ tabGet 0 t.tap.keys o = s.tap.keyFor o (r.lsn + 1))) ∧
  (∀ (s : State) (r : Stamped), s.AtHead r → hdrType r.hdr = 5 →
    (∀ a, s.tap.pteStarted r.lsn = none → s.podSlot (hdrOwner r.hdr) (r.p0.toNat % 2 ^ 57 / 2 ^ 16 * 2 ^ 16) (r.p0.toNat % 4) = some a →
      s.mem.wf = true → s.Direct a 8 → s.mem.guestDirty (lineOf a) = false →
      let n := pageBytes (r.p0.toNat % 4)
      let lo := r.p0.toNat % 2 ^ 57 / 2 ^ 16 * 2 ^ 16 / n * n
      ∃ t, exec .pteRecord s = .next t ∧ SameRegs s t ∧ (t.tap.pteStarted r.lsn).isSome ∧ t.tap.applied = s.tap.applied ∧
        t.num a 8 = entClean r.p1.toNat ∧ OnlyBytes s t a 8 ∧
        ∀ x ∈ t.mem.tlbs, s.ownerOf x.ctx = hdrOwner r.hdr → meets x.va (x.va + x.size) lo (lo + n) = false) ∧
    ∀ invals, s.tap.pteStarted r.lsn = some invals →
      (s.invalsGone invals = false → exec .pteRecord s = .next s) ∧
      (s.invalsGone invals = true → ∃ t, exec .pteRecord s = .next t ∧ SameRegs s t ∧ Applied t r ∧
        t.tap.ptePending = none))

/-- R85-R88, R90, R92, R101, R348: a record that arrives is stamped with the next LSN, and is under repair when its tag fails; a
record of the tap's own that returns gives its LSN to the threads that sent it; a token with a wrong check value goes no
further, and a valid one lets 1 to 16 waiting records go ahead, and leaves with the smaller of its HACC and A(m), or at the
origin with HACC moved into HZ. That the host broadcast queues are looked at again when a token has passed is the model's
reading of R89 and R274 (log entry 33).

R353, R354: a tap that waits for its copy passes the token on as it is, and its H(m) follows HZ. -/
def Obligations.TokenPassRows : Prop :=
  ∀ (s : State), s.tap.onLoop = true → s.tap.redo = [] → s.tap.catchUp = none →
    (∀ hdr p0 p1 tag, s.tap.snapshot = none → s.tap.pending = [] → 1 ≤ hdrType hdr → hdrType hdr ≤ 5 →
      let good := decide (s.tap.tagFor (s.tap.lsn + 1) hdr p0 p1 = tag)
      ∃ t, exec (.recordArrival hdr p0 p1 tag) s = .next t ∧ t.mem = s.mem ∧ t.pads = s.pads ∧ t.tap.lsn = s.tap.lsn + 1 ∧
        t.tap.applied = s.tap.applied ∧ t.tap.pending = [Stamped.mk (s.tap.lsn + 1) hdr p0 p1 tag good] ∧
        t.tap.missing = if good then s.tap.missing else s.tap.missing ++ [(s.tap.lsn + 1, s.clk)]) ∧
    (∀ lsn r, s.tap.own lsn = some r → lsn ∉ s.tap.returned → r.origin = 0 → s.mem.ops = [] →
      ∃ t, exec (.recordReturn lsn) s = .next t ∧ t.mem = s.mem ∧
        t.tap = { s.tap with returned := s.tap.returned ++ [lsn] } ∧
        ∀ c f l old, s.thread? c f l = some old → t.thread? c f l =
          some (if old.lastSent = some r.ref then { old with lastLsn := some lsn } else old)) ∧
    ∀ (n hz hacc : BitVec 64) (rot origin chk send : Nat),
      let k := Token.mk n.toNat hz.toNat hacc.toNat rot origin chk
      (k.sealed_.chk ≠ chk → ∃ t : State, exec (.tokenArrival n hz hacc rot origin chk send) s = .next t.pollHbqs ∧ t.tap = s.tap ∧
        t.fabric.reports = s.fabric.reports ++ [FmReport.mk 0x0601 n.toNat s.clk none] ∧ t.pads = s.pads) ∧
      (k.sealed_.chk = chk → s.tap.snapshot = none → n.toNat = s.tap.lsn + 1 → s.tap.missing = [] → s.tap.pending = [] →
        s.tap.queue = [] →
        let k' := if s.tap.isOrigin then Token.mk n.toNat (if s.tap.skipHz then hz.toNat else hacc.toNat) s.tap.applied
            ((rot + 1) % 2 ^ 32) s.tap.position chk
          else Token.mk n.toNat hz.toNat (min hacc.toNat s.tap.applied) rot origin chk
        ∃ t : State, exec (.tokenArrival n hz hacc rot origin chk send) s = .next t.pollHbqs ∧ SameRegs s t ∧
          t.tap.sentToken = some k'.sealed_ ∧ t.tap.horizon = k'.hz ∧ t.tap.lsn = s.tap.lsn ∧
          t.tap.applied = s.tap.applied) ∧
      (k.sealed_.chk = chk → s.tap.snapshot = none → n.toNat = s.tap.lsn + 1 → s.tap.missing = [] → s.tap.queue ≠ [] →
        let count := max 1 (min send (min 16 s.tap.queue.length))
        ∃ t : State, exec (.tokenArrival n hz hacc rot origin chk send) s = .next t.pollHbqs ∧ t.tap.lsn = s.tap.lsn + count ∧
          (s.tap.outside = [] → t.tap.queue = s.tap.queue.drop count)) ∧
      ∀ j, k.sealed_.chk = chk → s.tap.snapshot = some (j, none) → j ≠ 0 → n.toNat = s.tap.lsn + 1 →
        ∃ t : State, exec (.tokenArrival n hz hacc rot origin chk send) s = .next t.pollHbqs ∧ SameRegs s t ∧
          t.tap.sentToken = some k.sealed_ ∧ t.tap.horizon = hz.toNat ∧ t.tap.lsn = s.tap.lsn ∧
          t.tap.applied = s.tap.applied ∧ t.tap.queue = s.tap.queue

/-- R349-R352, R355: 20 µs after the token left, and no sooner, the origin probes, every other tap sends the
probe on with the highest LSN so far, and its return makes a new token that goes on from the highest LSN; a missed record is
taken only with its tag, and a tap answers a request for one from its replay ring or passes it upstream; after 100 µs, and no sooner, it is void, its owner's
partition is fenced and the tap goes on; and a lag of more than 1 ms
is reported once.

R84, R353, R354: a bypassed tap leaves the loop and both its ready bits fall; another tap's bypass takes it from the
presence map; a tap that joins holds records until a copy of control memory is installed, which becomes the replica and the
point from which it applies; the upstream tap sends the copy once it has applied all that the joining tap does not hold. That a
joining tap is the origin from the JOIN on when it is the lowest is the model's choice
(log entry 27). -/
def Obligations.RepairAndJoinRows : Prop :=
  (∀ (s : State),
    (∀ since, s.tap.timer = some since → s.tap.onLoop = true → s.tap.isOrigin = true →
      exec .tokenLossTimeout s = .next (if since + 20000 ≤ s.clk
        then { s with tap := { s.tap with timer := none, probing := true, probe := some s.tap.lsn } } else s)) ∧
    (∀ (maxl : BitVec 64), s.tap.onLoop = true → s.tap.isOrigin = false →
      exec (.probe maxl) s = .next { s with tap := { s.tap with probe := some (max maxl.toNat s.tap.lsn) } }) ∧
    (∀ (maxl : BitVec 64) k0, s.tap.onLoop = true → s.tap.isOrigin = true → s.tap.probing = true →
      s.tap.sentToken = some k0 → ∃ t, exec (.probe maxl) s = .next t ∧ t.pads = s.pads ∧ t.tap = { s.tap with
        probing := false, timer := some s.clk, sentToken := some (Token.sealed_ (Token.mk (max maxl.toNat s.tap.lsn + 1)
          s.tap.horizon s.tap.applied ((k0.rot + 1) % 2 ^ 32) s.tap.position 0)) }) ∧
    (∀ lsn since hdr p0 p1 tag, s.tap.missing = [(lsn, since)] → s.tap.pending = [] → s.tap.redo = [] → 1 ≤ hdrType hdr → hdrType hdr ≤ 5 →
      (s.tap.tagFor lsn hdr p0 p1 ≠ tag → exec (.recordRepair (.record lsn) hdr p0 p1 tag) s = .next s) ∧
      (s.tap.tagFor lsn hdr p0 p1 = tag → ∃ t, exec (.recordRepair (.record lsn) hdr p0 p1 tag) s = .next t ∧ t.pads = s.pads ∧
        t.tap.missing = [] ∧ t.tap.pending = [Stamped.mk lsn hdr p0 p1 tag true])) ∧
    (∀ lsn hdr p0 p1 tag, s.tap.onLoop = true → exec (.recordRepair (.request lsn) hdr p0 p1 tag) s =
      .next { s with tap := { s.tap with
        repairs := s.tap.repairs ++ [(lsn, s.tap.replay.find? fun r => decide (r.lsn = lsn))] } }) ∧
    (∀ first data, s.tap.onLoop = true → s.tap.ptePending = none → s.tap.redo = [] → s.tap.snapshot = none →
      exec (.snapshotCopy (.request first none) data) s = .next (if first ≤ s.tap.applied + 1
        then { s with tap := { s.tap with copies := s.tap.copies ++ [(s.tap.applied, none, s.tap.cmem)] } } else s)) ∧
    (∀ first o base len data, s.tap.onLoop = true → s.tap.ptePending = none → s.tap.redo = [] → s.tap.snapshot = none →
      first ≤ s.tap.applied + 1 → s.partition o = some (base, len) →
      exec (.snapshotCopy (.request first (some o)) data) s = .next { s with tap := { s.tap with copies := s.tap.copies ++
        [(s.tap.applied, some o, s.tap.cmem.filter fun c => decide (base ≤ c.1 ∧ c.1 < base + len))] } }) ∧
    (∀ lsn m, (s.tap.missing.find? fun x => decide (x.1 = lsn)) = some m →
      (s.clk < m.2 + 100000 → exec (.recordVoid lsn) s = .next s) ∧
      ∀ old, m.2 + 100000 ≤ s.clk → s.tap.pending = [old] → old.lsn = lsn → hdrOwner old.hdr ∈ s.partOwners →
        s.mem.ops = [] → ∃ t, exec (.recordVoid lsn) s = .next t ∧ hdrOwner old.hdr ∈ t.tap.fenced ∧ t.tap.cmem = s.tap.cmem ∧
          SameRegs s t ∧ (∀ x ∈ t.tap.missing, x.1 ≠ lsn) ∧
          (s.tap.onLoop = true → s.tap.redo = [] → s.tap.snapshot = none → s.tap.applied + 1 = lsn → s.tap.own lsn = none →
            t.tap.applied = lsn)) ∧
    ∀ since, s.tap.lagSince = some since →
      (s.clk ≤ since + 1000000 → exec .applyStall s = .next s) ∧
      (since + 1000000 < s.clk → s.tap.lagSaid = false → ∃ t, exec .applyStall s = .next t ∧ t.pads = s.pads ∧
        t.tap = { s.tap with lagSaid := true } ∧
        t.fabric.reports = s.fabric.reports ++ [FmReport.mk 0x0605 s.tap.applied s.clk none])) ∧
  (∀ (s : State) (tap : Nat),
    (tap = s.tap.position → ∃ t, exec (.bypass tap) s = .next t ∧ t.pads = s.pads ∧ t.tap.bypassed = true ∧
      t.tap.isOrigin = false ∧ t.readyBit 82 = false ∧ t.readyBit 83 = false ∧ t.tap.cmem = s.tap.cmem ∧
      t.tap.ptePending = none) ∧
    (tap ≠ s.tap.position → ∃ t, exec (.bypass tap) s = .next t ∧ t.pads = s.pads ∧ t.mem = s.mem ∧
      t.tap.present.testBit tap = false ∧ (∀ k, k ≠ tap → t.tap.present.testBit k = s.tap.present.testBit k) ∧
      t.tap.isOrigin = (s.tap.onLoop && decide (lowestTap t.tap.present = s.tap.position)) ∧ t.tap.cmem = s.tap.cmem) ∧
    (∃ t, exec (.join tap) s = .next t ∧ t.pads = s.pads ∧ t.mem = s.mem ∧ t.tap.present = s.tap.present ||| 2 ^ tap ∧
      (tap = s.tap.position → t.tap.running = true ∧ t.tap.bypassed = false ∧ t.tap.snapshot = some (0, none) ∧
        t.tap.pending = [] ∧ t.tap.ptePending = none ∧ t.readyBit 82 = true ∧
        t.tap.isOrigin = decide (lowestTap t.tap.present = s.tap.position)) ∧
      (tap ≠ s.tap.position → t.tap.isOrigin = (s.tap.isOrigin && decide (lowestTap t.tap.present = s.tap.position)))) ∧
    ∀ (j n : Nat) (data : List Nat), s.tap.snapshot = some (j, none) →
      (j = 0 ∨ n + 1 < j → exec (.snapshotCopy (.copy n) data) s = .next s) ∧
      (j ≠ 0 → j ≤ n + 1 → s.tap.pending = [] → s.tap.redo = [] → ∃ t, exec (.snapshotCopy (.copy n) data) s = .next t ∧ t.pads = s.pads ∧
        t.tap.snapshot = none ∧ t.tap.applied = n ∧ t.tap.fenced = [] ∧ t.tap.skipHz = true ∧
        t.tap.isOrigin = decide (lowestTap s.tap.present = s.tap.position) ∧
        ∀ i v, data[i]? = some v → i < 2 ^ 22 → tabGet 0 t.tap.cmem i = BitVec.ofNat 8 v))

/-- R88, R275, R276, R352, R354: the fabric manager's commands to the tap. LOOPSTART clears it, and is refused on a loop that
runs; LOOPGO makes the lowest tap the origin and sends the first token; KEYLOAD keeps a key for the next KEYROLL; RESYNC asks
for a copy of a fenced owner's partition; and a management record enters the broadcast queue while it has room.

R269, R276, R277, R283: SETOWNERS, SETROUTE, PORTDRAIN, PORTUP and SETPPT each take effect and are answered; a route of more
than 8 hops, of more than 4 ports, or with a port or weight out of range is refused and changes no route. Every answer
carries its command's sequence number. That SETOWNERS brings the pod module number and that commands are numbered in the order
in which they come (log entry 66), and that a route of more than 4 ports, or with a port or weight out of range, is refused
(log entry 81), are the model's choices. -/
def Obligations.ManagementCommands : Prop :=
  (∀ (s : State),
    (∀ taps, s.loopRuns = true → ∃ t, exec (.loopstart taps) s = .next t ∧ t.tap = s.tap ∧ Answered s t 2) ∧
    (∀ taps, s.loopRuns = false → ∃ t, exec (.loopstart taps) s = .next t ∧ Answered s t 1 ∧ t.pads = s.pads ∧
      t.tap.present = taps ∧ t.tap.running = true ∧ t.tap.lsn = 0 ∧ t.tap.applied = 0 ∧ t.tap.cmem = [] ∧
      t.tap.keys = s.tap.keys ∧ t.tap.position = s.tap.position) ∧
    (let may := s.tap.onLoop && !s.readyBit 82 && decide (lowestTap s.tap.present = s.tap.position);
      (may = false → ∃ t, exec .loopgo s = .next t ∧ t.tap = s.tap ∧ Answered s t 2) ∧
      (may = true → ∃ t, exec .loopgo s = .next t ∧ Answered s t 1 ∧ t.pads = s.pads ∧ t.tap.isOrigin = true ∧
        t.tap.sentToken = some (Token.sealed_ (Token.mk 1 0 0 0 s.tap.position 0)) ∧ t.readyBit 82 = true ∧
        t.readyBit 83 = true)) ∧
    (∀ owner key, ∃ t, exec (.keyload owner key) s = .next t ∧ Answered s t 1 ∧
      t.tap = { s.tap with pendingKeys := tabSet 0 s.tap.pendingKeys owner key }) ∧
    (∀ owner, ∃ t, exec (.resync owner) s = .next t ∧
      (owner ∈ s.tap.fenced → s.tap.snapshot = none → Answered s t 1 ∧
        t.tap = { s.tap with snapshot := some (s.tap.lsn + 1, some owner) }) ∧
      (owner ∉ s.tap.fenced ∨ s.tap.snapshot ≠ none → Answered s t 2 ∧ t.tap = s.tap)) ∧
    ∀ rtype p0 p1, 0x20 ≤ rtype → rtype < 0x30 → exec (.managementRecord rtype p0 p1) s = .next (
      if s.queueRoom 1 then
        let r := Rec.mk (headerWord rtype 0 s.tap.position false 0 0 0) p0 p1 3 0 s.tap.nextNum
        { s with tap := { s.tap with queue := s.tap.queue ++ [r], nextNum := s.tap.nextNum + 1 } }
      else s)) ∧
  (∀ (s : State),
    (∀ position owners port portOwners, ∃ t, exec (.setowners ⟨position, owners⟩ port portOwners) s = .next t ∧
      Answered s t 1 ∧ t.tap = { s.tap with position := position % 64 } ∧ t.fabric.owners = owners ∧
      t.fabric.portOwners = modifyAt s.fabric.portOwners port (fun _ => portOwners) ∧
      t.fabric.routes = s.fabric.routes ∧ t.fabric.packets = s.fabric.packets) ∧
    (∀ dest ports weights hops, let good := decide (hops ≤ 8 ∧ ports.length ≤ 4 ∧ weights.length = ports.length) &&
        (weights.all fun w => decide (1 ≤ w ∧ w ≤ 15)) && (ports.all fun p => decide (p < 32));
      (good = false → ∃ t, exec (.setroute dest ports weights hops) s = .next t ∧ Answered s t 2 ∧
        t.fabric.routes = s.fabric.routes ∧ t.pads = s.pads) ∧
      (good = true → ∃ t, exec (.setroute dest ports weights hops) s = .next t ∧ Answered s t 1 ∧ t.pads = s.pads ∧
        t.mem = s.mem ∧ t.fabric.routes = tabSet ([], 0) s.fabric.routes dest (ports.zip weights, hops))) ∧
    (∀ port up, port < 32 → ∃ t, exec (if up then .portup port else .portdrain port) s = .next t ∧
      Answered s t 1 ∧ t.pads = s.pads ∧ t.mem = s.mem ∧ t.readyBit (48 + port) = up ∧
      ∀ b, b ≠ 48 + port → t.readyBit b = s.readyBit b) ∧
    ∀ owner base size, ∃ t, exec (.setppt owner base size) s = .next t ∧ Answered s t 1 ∧ t.pads = s.pads ∧
      t.mem = s.mem ∧ t.pool? owner = some (base, size) ∧ ∀ o, o ≠ owner → t.pool? o = s.pool? o)

/-- R277, R357, R359: a packet of a flow is delivered at its turn, a duplicate not again; one whose owner the port does not
serve is answered OWNERREJECT and delivered to nobody; nothing comes through a port that is down. A packet for another module
joins the queue of the class one above its hop count, and goes on when its route has a port up. A packet that nobody has
acknowledged for 50 µs is sent again where a port of its route is up.

R357-R360: a port that goes down clears its ready bit and is reported; packets that have waited 1,000,000 ticks for a
port of their route are reported once, with the module they are for (log entry 32); and a load whose packet is refused or
revoked on its way ends with 0 in its register. -/
def Obligations.PacketRows : Prop :=
  ((∀ (s : State) (src hops seqNo owner port kind ref addr : Nat) (data : List Nat), port < 32 → src ≠ s.tap.position →
    kind ∉ [3, 11, 12, 14, 15, 16] → seqNo < 2 ^ 32 →
    let row : Instr := .fabricPacket ⟨src, s.tap.position, hops⟩ seqNo owner port kind ref addr data
    let expect := tabGet 0 s.fabric.expectSeq src
    (s.readyBit (48 + port) = false → exec row s = .next s) ∧
    (s.readyBit (48 + port) = true → owner ∈ atD [] s.fabric.portOwners port → s.fabric.early = [] → expect = seqNo →
      tabWf (0 : Nat) s.fabric.expectSeq = true →
      ∃ t, exec row s = .next t ∧ t.pads = s.pads ∧ t.mem = s.mem ∧
        t.fabric.inbound = s.fabric.inbound ++ [Inbound.mk s.nextId src owner kind ref addr data none] ∧
        tabGet 0 t.fabric.expectSeq src = (seqNo + 1) % 2 ^ 32) ∧
    (s.readyBit (48 + port) = true → owner ∈ atD [] s.fabric.portOwners port → 2 ^ 31 ≤ countDiff seqNo expect →
      ∃ t, exec row s = .next t ∧ t.fabric = s.fabric ∧ t.pads = s.pads ∧ t.mem = s.mem) ∧
    (s.readyBit (48 + port) = true → owner ∉ atD [] s.fabric.portOwners port → s.fabric.early = [] →
      ∃ t k, exec row s = .next t ∧ t.pads = s.pads ∧ t.mem = s.mem ∧ t.fabric.inbound = s.fabric.inbound ∧
        t.fabric.packets = s.fabric.packets ++ [k] ∧ k.dest = src ∧ k.kind = 12 ∧ k.owner = owner ∧ k.ref = ref ∧
        k.addr = addr ∧ t.fabric.reports = s.fabric.reports ++ [FmReport.mk 0x0710 (port * 2 ^ 12 + owner) s.clk none])) ∧
  (∀ (s : State) (src dest hops seqNo owner port kind ref addr : Nat) (data : List Nat), port < 32 →
    src ≠ s.tap.position → dest ≠ s.tap.position → s.readyBit (48 + port) = true → owner ∈ atD [] s.fabric.portOwners port →
    hops < 7 → s.fabric.transit = [] →
    let k := Transit.mk port (hops + 1) src dest seqNo owner kind ref addr data
    let f : Fabric := if s.routeUp dest then { s.fabric with passed := s.fabric.passed ++ [k] }
      else { s.fabric with transit := [k] }
    exec (.fabricPacket ⟨src, dest, hops⟩ seqNo owner port kind ref addr data) s = .next { s with fabric := f }) ∧
  ∀ (s : State) (id : Nat), exec (.packetResend id) s = .next { s with fabric := { s.fabric with
    packets := s.fabric.packets.map fun k => if k.id = id ∧ k.acked = false ∧ k.sentAt + 50000 ≤ s.clk ∧
      s.routeUp k.dest = true then { k with sentAt := s.clk } else k } }) ∧
  ((∀ (s : State) (port : Nat), port < 32 →
    (s.readyBit (48 + port) = false → exec (.portDown port) s = .next s) ∧
    (s.readyBit (48 + port) = true → ∃ t, exec (.portDown port) s = .next t ∧ t.pads = s.pads ∧ t.mem = s.mem ∧
      t.readyBit (48 + port) = false ∧ t.fabric.reports = s.fabric.reports ++ [FmReport.mk 0x0700 port s.clk none])) ∧
  (∀ (s : State) (dest : Nat), ((∀ k ∈ s.fabric.packets, k.dest = dest → k.saidStall = false → ∀ since,
      k.stalledSince = some since → s.clk < since + 1000000) → exec (.routeStall dest) s = .next s) ∧
    ∀ k since, k ∈ s.fabric.packets → k.dest = dest → k.saidStall = false → k.stalledSince = some since →
      since + 1000000 ≤ s.clk → ∃ t, exec (.routeStall dest) s = .next t ∧ t.pads = s.pads ∧
        t.fabric.reports = s.fabric.reports ++ [FmReport.mk 0x0702 dest s.clk none] ∧
        ∀ x ∈ t.fabric.packets, x.dest = dest → x.saidStall = true) ∧
  (∀ (s : State) (id port : Nat) (k : Packet), (s.fabric.packets.find? fun x => decide (x.id = id)) = some k →
    k.kind = 3 → exec (.ownerreject id port) s = .next { s with fabric := { s.fabric with
      packets := s.fabric.packets.filter fun x => decide (x.id ≠ id) } }) ∧
  ∀ (s : State) (o : Op) (k : Packet) (size dst l port m pa : Nat) (old : Thread) (row : Instr),
    s.mem.ops = [o] → o.kind = .load size dst false none → o.lanes = [l] → o.loc = .remote m pa →
    (s.fabric.packets.find? fun x => decide (x.ref = o.id)) = some k → k.kind = 0 →
    (s.fabric.packets.find? fun x => decide (x.id = k.id)) = some k → s.forced o.ctx = false →
    s.thread? o.core o.fg l = some old → old.awaits o.inst dst → tabWf (0 : Word) old.regs = true → dst ≠ 0 → dst < 56 →
    row = .ownerreject k.id port ∨ row = .remoteAccessFailed o.id 0x0207 ∨ row = .remoteAccessFailed o.id 0x0710 →
    ∃ t new, exec row s = .next t ∧ t.mem.ops = [] ∧ t.thread? o.core o.fg l = some new ∧ new.reg dst = 0 ∧
      ∀ n, (∀ x ∈ old.outs, x.inst = o.inst → n ∉ x.dsts) → new.reg n = old.reg n)

/-- R277, R278, R279, R360: a request that no open window admits is answered REVOKED, a counter increment by the bytes of its
counter too; a read that one admits is answered with the bytes at its home; no answer of an owner that is not in the module's
owner set is sent. A TDI opens a window that nobody holds, and revokes its own; a window being revoked closes when no
request checked against it is left, and its TDI is told. That a counter increment is checked by the bytes of its counter (log
entry 28), and that an answer is sent for an owner of the module's set alone (log entry 30), is the model's. -/
def Obligations.WindowRows : Prop :=
  (∀ (s : State) (q : Inbound), (s.fabric.inbound.find? fun x => decide (x.id = q.id)) = some q → q.kind = 0 →
    q.checked = none →
    (s.admitting q = none → ∃ t, exec (.windowRequest q.id) s = .next t ∧ t.pads = s.pads ∧ t.mem = s.mem ∧
      t.fabric.inbound = s.fabric.inbound.filter (fun x => decide (x.id ≠ q.id)) ∧
      (s.maySend q.owner = false → t.fabric.packets = s.fabric.packets) ∧ (s.maySend q.owner = true →
        ∃ k, t.fabric.packets = s.fabric.packets ++ [k] ∧ k.dest = q.src ∧ k.kind = 11 ∧ k.ref = q.ref)) ∧
    ∀ w, s.admitting q = some w → s.poisonedAt q.addr = false → s.mem.pending (lineOf q.addr) = none →
      ∃ t, exec (.windowRequest q.id) s = .next t ∧ t.pads = s.pads ∧ t.mem = s.mem ∧
        t.fabric.inbound = s.fabric.inbound.filter (fun x => decide (x.id ≠ q.id)) ∧
        (s.maySend q.owner = false → t.fabric.packets = s.fabric.packets) ∧ (s.maySend q.owner = true →
          ∃ k, t.fabric.packets = s.fabric.packets ++ [k] ∧ k.dest = q.src ∧ k.kind = 3 ∧ k.ref = q.ref ∧
            k.data = (s.mem.bytesAt q.addr q.span (s.dieClk (homeOf (lineOf q.addr)))).map (·.toNat))) ∧
  (∀ (s : State) (q : Inbound) (key : Nat), (s.fabric.inbound.find? fun x => decide (x.id = q.id)) = some q → q.kind = 5 →
    q.checked = none → s.countTarget q = some key → s.maySend q.owner = true → s.admitting { q with addr := key } = none →
    ∃ t k, exec (.windowRequest q.id) s = .next t ∧ t.pads = s.pads ∧ t.mem = s.mem ∧
      t.fabric.packets = s.fabric.packets ++ [k] ∧ k.dest = q.src ∧ k.kind = 11 ∧ k.ref = q.ref) ∧
  (∀ (s : State) (n : Nat) (x : Tdi), s.service.tdis[n]? = some x → x.tdiState = 2 → x.busy = none →
    let w := s.exportWindow x.wsel
    (∃ t y, exec (.winOpen n) s = .next t ∧ t.pads = s.pads ∧ t.mem = s.mem ∧ t.service.tdis[n]? = some y ∧
      (w.state = 0 → 0 < x.wlen → x.wbase + 65536 * x.wlen ≤ hbmBytes → y.result = 0 ∧
        t.exportWindow x.wsel = ExportWindow.mk x.owner x.wbase x.wlen (peersOf x.wpeers) x.wrights 1) ∧
      (w.state = 0 → x.wlen = 0 ∨ hbmBytes < x.wbase + 65536 * x.wlen → y.result = 4 ∧ t.fabric = s.fabric) ∧
      (w.state ≠ 0 → y.result = (if w.owner = x.owner then 2 else 1) ∧ t.fabric = s.fabric)) ∧
    ∃ t y, exec (.winRevoke n) s = .next t ∧ t.pads = s.pads ∧ t.mem = s.mem ∧ t.service.tdis[n]? = some y ∧
      (w.state = 1 → w.owner = x.owner → y.busy = some x.wsel ∧ t.exportWindow x.wsel = { w with state := 2 }) ∧
      (w.state ≠ 0 → w.owner ≠ x.owner → y.result = 1 ∧ t.fabric = s.fabric)) ∧
  ∀ (s : State) (win i : Nat) (x : Tdi), (s.exportWindow win).state = 2 → tabWf ExportWindow.zero s.fabric.windows = true →
    (∀ q ∈ s.fabric.inbound, q.checked = some win → exec (.windowClose win) s = .next s) ∧
    ((∀ q ∈ s.fabric.inbound, q.checked ≠ some win) → s.service.tdis[i]? = some x → x.busy = some win →
      ∃ t y, exec (.windowClose win) s = .next t ∧ t.pads = s.pads ∧ t.mem = s.mem ∧
        t.exportWindow win = ExportWindow.zero ∧ t.service.tdis[i]? = some y ∧ y.busy = none ∧ y.result = 0 ∧
        (i + 1) * 2048 + 1 ∈ t.service.msix)

/-- R98, R262, R271, R330: FRESUME sets the parked work of the context whose faulting address lies in the page, or anywhere for
address 0, to try again, and VPGROW all of it with the pool no smaller than asked. LTINVAL drops the range's translations of
the context, waits behind one that is running, and is counted when nothing uses them.

R118, R273, R279, R364: LOTSEED seeds the lottery, 0 as 1; SOCKRESET frees a socket that is isolated or drained; a write of a
register of the physical function keeps the bits that are not reserved; a TDI's window command 1 opens and 2 revokes, and
its registers take no write outside RUN.

R89, R274, R365: a doorbell of a host broadcast queue lets the fabric die read the record behind the last one; a record in
order enters the broadcast queue with the header made for its owner, the reserved bits of its payload 0 (R5, R93); nothing is
read while the link is down. That an access narrower than a register replaces its low bits, and that MODCAP above 9,600
is kept as written, are the model's choices (log entry 34). -/
def Obligations.ParkedWorkAndRegisters : Prop :=
  (∀ (s : State) (ctx : Nat),
    (∀ (addr : Nat) (row : Instr),
      let a := if row = .fresume ctx addr then addr % 2 ^ 57 else 0
      let n := match s.walk ctx a with
        | some p => p.size
        | none => 2 ^ 16
      let lo := if a = 0 then 0 else a / n * n
      let hi := if a = 0 then 2 ^ 64 else a / n * n + n
      row = .fresume ctx addr ∨ row = .vpgrow ctx addr → ∃ t, exec row s = .next t ∧ SameRegs s t ∧
        t.mem.bytes = s.mem.bytes ∧
        (t.pads.map fun p => p.fgs.map fun g => g.efts) = (s.pads.map fun p => p.fgs.map fun g => g.efts.map fun e =>
          if p.ctx = ctx ∧ lo ≤ e.va ∧ e.va < hi then { e with retry := true } else e) ∧
        (t.triggers = s.triggers.map fun e => if e.stalled.isSome = true ∧ e.ctx = ctx ∧ lo ≤ e.stallVa ∧ e.stallVa < hi
          then { e with stalled := none } else e) ∧
        (t.mem.merges = s.mem.merges.map fun m => if m.stalled.isSome = true ∧ m.ctx = ctx ∧ lo ≤ m.stallVa ∧ m.stallVa < hi
          then { m with stalled := none } else m) ∧
        (t.ctxs = if row = .fresume ctx addr then s.ctxs else s.ctxs.map fun c =>
          if c.id = ctx then { c with vpSize := max c.vpSize (addr / 4096 * 4096) } else c)) ∧
    (∀ w : BitVec 64, s.service.ltInval ≠ none → exec (.ltinval ctx w) s = .next { s with service := { s.service with
      ltQueue := s.service.ltQueue ++ [(ctx, w.toNat)] } }) ∧
    (∀ w : BitVec 64, s.service.ltInval = none →
      let n := pageBytes (w.toNat % 4)
      let lo := if w.toNat.testBit 2 then 0 else w.toNat % 2 ^ 57 / n * n
      let hi := if w.toNat.testBit 2 then 2 ^ 64 else w.toNat % 2 ^ 57 / n * n + n
      ∃ t l, exec (.ltinval ctx w) s = .next t ∧ t.pads = s.pads ∧ t.mem.bytes = s.mem.bytes ∧
        t.service.ltInval = some (ctx, w.toNat, l) ∧
        t.mem.tlbs = s.mem.tlbs.filter fun x => !(decide (x.ctx = ctx) && meets x.va (x.va + x.size) lo hi)) ∧
    ∀ w invals, s.service.ltInval = some (ctx, w, invals) →
      let gone := s.invalsGone invals && s.transGone (fun c => decide (c = ctx)) (invalRange w).1 (invalRange w).2
      (gone = false → exec .ltinvalComplete s = .next s) ∧
      (gone = true → s.service.ltQueue = [] → ∃ t, exec .ltinvalComplete s = .next t ∧ SameRegs s t ∧
        t.mem.bytes = s.mem.bytes ∧ t.service.ltInval = none ∧ t.service.ltCount = (s.service.ltCount + 1) % 2 ^ 32)) ∧
  (∀ (s : State),
    (∀ v : BitVec 64, exec (.lotseed v) s = .next { s with lottery := if v = 0 then 1 else v }) ∧
    (∀ sock, sock < 2 → ∃ t, exec (.sockreset (2 ^ sock)) s = .next t ∧ { t with sockets := s.sockets } = s ∧
      t.sockets = modifyAt s.sockets sock fun k => if k.isolated || k.drained then Socket.zero else k) ∧
    (∀ v, exec (.serviceRegisterWrite 63 0x08 8 v) s = .next { s with service := { s.service with
        sysEntry := (s.service.sysEntry / 2 ^ 64 * 2 ^ 64 + v % 2 ^ 64) % 2 ^ 57 } } ∧
      exec (.serviceRegisterWrite 63 0x10 8 v) s = .next { s with service := { s.service with
        ctxTab := (s.service.ctxTab / 2 ^ 64 * 2 ^ 64 + v % 2 ^ 64) % 2 ^ 54 / 2 ^ 21 * 2 ^ 21 } } ∧
      exec (.serviceRegisterWrite 63 0x18 4 v) s = .next { s with service := { s.service with
        modCap := (s.service.modCap / 2 ^ 32 * 2 ^ 32 + v % 2 ^ 32) % 2 ^ 16 } }) ∧
    (∀ q v, q < 64 → ∃ t, exec (.serviceRegisterWrite 63 (0x100 + 32 * q + 8) 4 v) s = .next t ∧
      { t with queues := s.queues } = s ∧
      t.queues = modifyAt s.queues q fun k => { k with nent := (k.nent / 2 ^ 32 * 2 ^ 32 + v % 2 ^ 32) % 2 ^ 16 }) ∧
    ∀ n x, n ≠ 63 → s.service.tdis[n]? = some x →
      (x.tdiState ≠ 2 → ∀ off size v, exec (.serviceRegisterWrite n off size v) s = .next s) ∧
      (x.tdiState = 2 → exec (.serviceRegisterWrite n 0x20 4 1) s = exec (.winOpen n) s ∧
        exec (.serviceRegisterWrite n 0x20 4 2) s = exec (.winRevoke n) s ∧
        ∃ t, exec (.serviceRegisterWrite n 0x00 4 7) s = .next t ∧ t.pads = s.pads ∧ t.mem = s.mem ∧
          t.service.tdis[n]? = some { x with wsel := (x.wsel / 2 ^ 32 * 2 ^ 32 + 7) % 256 })) ∧
  (∀ (s : State) (q tail owner : Nat) (k : Hbq),
    let slot := k.next % 64
    let word := fun (i : Nat) => BitVec.ofNat 64 (leValue (s.mem.latestBytes (hostKey (k.base + 32 * slot) + 8 * i) 8))
    let h := word 0
    (s.service.linkUp = false → exec (.hbqTail q tail) s = .next s) ∧
    (s.service.hbqs[q]? = some k → s.service.linkUp = true → k.owner = some owner → s.ownerCut owner = false →
      s.intake = true → s.hostPerformed = true → s.queueRoom 1 = true → k.next < 2 ^ 32 →
      tail % 2 ^ 32 = (k.next + 1) % 2 ^ 32 → s.hostRecordOk owner h = true →
      ∃ t, exec (.hbqTail q tail) s = .next t ∧ t.pads = s.pads ∧ t.mem = s.mem ∧
        t.service.hbqs[q]? = some { k with tail := tail % 2 ^ 32, next := (k.next + 1) % 2 ^ 32 } ∧
        t.tap.queue = s.tap.queue ++ [Rec.mk (headerWord (hdrType h) owner s.tap.position true (hdrSize h)
          (if hdrType h = 4 then hdrCtx h else 0) (if hdrType h = 4 then hdrAux h else 0)) (payload0 (hdrType h) (word 1))
          (payload1 (hdrType h) (hdrSize h) (word 2)) 2 (64 * q + slot) s.tap.nextNum]))

/-- R252, R254, R262, R264, R265: the first capability record of a socket is kept; BINDACK binds the queue and releases the
threads that wait at `gbind`; QSTATE puts the unstarted packets back in order and drops the finished ones, and the last
queue of a context that is unbound starts an invalidation of everything; INVACK ends what its INVAL named.

R256, R257, R263, R361-R363: the guest die takes the packet at the head of a queue while fewer than 4 are with it, and a fifth
cuts it off; a translation fault of a packet stalls its queue; a record about a context that the queue does not serve, an
overdue answer and a link that fails at its lowest rate cut it off; a link that has failed is retrained at 32, then 24, then
16 GT/s, its channels held, and while it retrains no bound runs. How a finished packet is told, with the next pull (log entry
35), and that an INVACK drops the translations that its INVAL named (log entry 36), is the model's. -/
def Obligations.GuestBindingAndDuties : Prop :=
  (∀ (s : State) (sock q : Nat), sock < s.sockets.length →
    (∀ vendor nq ver tcent clines, (s.socket sock).cap = none → (s.socket sock).isolated = false →
      (s.socket sock).drained = false → ∃ t, exec (.capabilityRecord sock vendor nq ver tcent clines) s = .next t ∧
        t.pads = s.pads ∧ t.mem = s.mem ∧
        t.socket sock = { s.socket sock with cap := some (vendor, nq, ver, tcent, clines) }) ∧
    (s.guestLive sock = true →
      let k := s.guestQueue sock q
      (∀ ctx op since, k.binding = some (ctx, op, since) → ∃ t, exec (.bindack sock q) s = .next t ∧ t.mem = s.mem ∧
        t.guestQueue sock q = { k with bound := some (ctx, s.ownerOf ctx), binding := none } ∧
        ∀ c f l old, s.thread? c f l = some old → t.thread? c f l =
          some (if old.wait = .binding sock q then { old with wait := .ready } else old)) ∧
      (∀ stalled returned done b since, k.bound = some b → k.awaiting = some since →
        let rest := k.pulled.take (k.pulled.length - returned)
        ∃ t, exec (.qstate sock q false stalled returned done) s = .next t ∧ t.pads = s.pads ∧ t.mem = s.mem ∧
          t.guestQueue sock q = { k with
            fifo := k.pulled.drop (k.pulled.length - returned) ++ k.fifo
            pulled := if stalled then rest.drop (rest.length - 1) else []
            awaiting := none, stalled := stalled }) ∧
      (∀ b since stalled returned done, k.bound = some b → k.unbinding = some (0, since) → k.owed ≠ 0 → k.stopped = false →
        exec (.qstate sock q true stalled returned done) s = .next s) ∧
      (∀ ctx owner since done, k.bound = some (ctx, owner) → k.unbinding = some (0, since) → k.owed = 0 ∨ k.stopped = true →
        k.fifo = [] → k.pulled = [] → s.otherBound sock q ctx = false →
        ∃ t, exec (.qstate sock q true false 0 done) s = .next t ∧ t.pads = s.pads ∧ t.mem = s.mem ∧
          (t.guestQueue sock q).bound = none ∧ (t.guestQueue sock q).unbinding = some (s.nextId, s.clk) ∧
          (s.nextId, ctx, 0, 2 ^ 64, s.clk) ∈ (t.socket sock).invals) ∧
      ∀ i, ((s.socket sock).invals.find? fun x => decide (x.1 = i.1)) = some i →
        ∃ t, exec (.invack sock i.1) s = .next t ∧ SameRegs s t ∧ t.mem = s.mem ∧
          (t.socket sock).invals = (s.socket sock).invals.filter (fun x => decide (x.1 ≠ i.1)) ∧
          (t.socket sock).trans = (s.socket sock).trans.filter fun x =>
            !(decide (x.ctx = i.2.1) && meets x.page (x.page + x.size) i.2.2.1 (i.2.2.1 + i.2.2.2.1)))) ∧
  (∀ (s : State) (sock q : Nat), sock < s.sockets.length → s.guestLive sock = true →
    let k := s.guestQueue sock q
    (∀ done id data op rest b, k.bound = some b → k.stopped = false → k.fifo = .packet id data op :: rest →
      let left := k.pulled.drop done
      (packetCount left < 4 → ∃ t, exec (.packetPull sock q done true) s = .next t ∧ t.pads = s.pads ∧ t.mem = s.mem ∧
        t.guestQueue sock q = { k with pulled := left ++ [.packet id data op], fifo := rest, owed := k.owed - 1 }) ∧
      (4 ≤ packetCount left → ∃ t, exec (.packetPull sock q done true) s = .next t ∧ CutOff t sock)) ∧
    (∀ (w0 addr info : BitVec 64) detail, info.toNat / 2 ^ 26 % 64 = q →
      let ctx := w0.toNat / 2 ^ 32 % 2 ^ 16
      let owner := w0.toNat / 2 ^ 48 % 4096
      (k.bound = some (ctx, owner) → w0.toNat % 2 ^ 16 = 0x0C00 →
        ∃ t, exec (.guestFault sock w0 addr info detail) s = .next t ∧
          t.guestQueue sock q = { k with stalled := true, stallVa := addr.toNat }) ∧
      (k.bound = some (ctx, owner) → w0.toNat % 2 ^ 16 ≠ 0x0C00 →
        ∃ t, exec (.guestFault sock w0 addr info detail) s = .next t ∧ (t.guestQueue sock q).stalled = false ∧
          (t.guestQueue sock q).fifo = k.fifo) ∧
      (k.bound ≠ some (ctx, owner) → ∃ t, exec (.guestFault sock w0 addr info detail) s = .next t ∧ CutOff t sock)) ∧
    (∀ i ∈ (s.socket sock).invals, i.2.2.2.2 + 10500 ≤ s.clk →
      ∃ t, exec (.guestDutyTimeout sock 0x0C07) s = .next t ∧ CutOff t sock) ∧
    (∀ r ∈ s.mem.recalls, r.1 = sock → r.2.2 + 2500 ≤ s.clk →
      ∃ t, exec (.guestDutyTimeout sock 0x0C09) s = .next t ∧ CutOff t sock) ∧
    ((∀ i ∈ (s.socket sock).invals, s.clk < i.2.2.2.2 + 10500) → exec (.guestDutyTimeout sock 0x0C07) s = .next s) ∧
    ∀ ok, exec (.linkRetrain sock ok) s = .next { s with sockets := modifyAt s.sockets sock fun x =>
      { x with retraining := some (32, s.clk) } }) ∧
  ∀ (s : State) (sock rate since : Nat), sock < s.sockets.length → (s.socket sock).isolated = false →
    (s.socket sock).down = false → (s.socket sock).retraining = some (rate, since) →
    s.guestLive sock = false ∧
    (rate = 32 → exec (.linkRetrain sock false) s = .next { s with sockets := modifyAt s.sockets sock fun x =>
      { x with retraining := some (24, since) } }) ∧
    (rate = 24 → exec (.linkRetrain sock false) s = .next { s with sockets := modifyAt s.sockets sock fun x =>
      { x with retraining := some (16, since) } }) ∧
    (rate = 16 → ∃ t, exec (.linkRetrain sock false) s = .next t ∧ CutOff t sock ∧ (t.socket sock).down = true) ∧
    ∃ t, exec (.linkRetrain sock true) s = .next t ∧ t.pads = s.pads ∧ (t.socket sock).rate = rate ∧
      (t.socket sock).retraining = none ∧
      (t.socket sock).invals.map (·.2.2.2.2) = (s.socket sock).invals.map (·.2.2.2.2 + (s.clk - since)) ∧
      ∀ r ∈ s.mem.recalls, r.1 = sock → (r.1, r.2.1, r.2.2 + (s.clk - since)) ∈ t.mem.recalls

/-- R182, R259-R262: a request about a page that the guest die was given for a bound context: a read leaves it a shared copy
and an ownership request an exclusive one, unless another guest die stands against it, whose copy is recalled; a write-back
stores its sectors and gives the line up or keeps it shared; so does an answer to a recall; an atomic is one update, answered
with the old value. A request that cannot be performed is answered with failure (R360): a write whose host answer fails, an
atomic to a poisoned sector, a line whose stack is gone. Any other request cuts the guest die off. A translation request is answered with the page, read-only when
it is sealed, or NOTPRESENT or DENIED. That a write through a read-only translation cuts the guest die off, and that a poisoned sector
fails a guest's read and atomic, is deduced (log entries 72, 76), and so is that a read recalls another guest die's exclusive
copy (log entry 36). An ownership request for a page that was sealed after its translation is answered with nothing. -/
def Obligations.CoherentPort : Prop :=
  ∀ (s : State) (sock ctx pa k : Nat), sock < s.sockets.length → s.guestLive sock = true →
    let line := lineOf k
    (∀ (write : Bool) (row : Instr), s.coAllowed sock ctx pa write = false →
      (if write then row = .ownershipRequest sock ctx pa ∨
        (∃ sectors data keep, row = .writeBack sock ctx pa sectors data keep) ∨
        (∃ aop wide x y, aop ≠ 14 ∧ row = .guestAtomic sock ctx pa aop wide x y) else row = .guestRead sock ctx pa) →
      ∃ t, exec row s = .next t ∧ CutOff t sock) ∧
    (∀ (ex : Bool) (row : Instr), row = (if ex then .ownershipRequest sock ctx pa else .guestRead sock ctx pa) →
      s.coAllowed sock ctx pa ex = true → guestLoc pa = .mem k → isHost k = false →
      (ex = true → s.sealedSince sock ctx pa = true → exec row s = .next s) ∧
      ((ex = true → s.sealedSince sock ctx pa = false) → s.mem.pending line = none →
        (∀ r ∈ s.mem.recalls, ¬ (r.2.1 = line ∧ r.1 = sock)) →
        (s.lineFails line ex = true → exec row s = .next (s.reply sock (.failed (256 * line) 0x0911))) ∧
        (s.lineFails line ex = false → (∀ d ∈ s.mem.gdir, d.2.1 = line → d.1 = sock) → s.mem.gdirFull line = false →
          exec row s = .next (State.reply { s with mem := s.mem.gdirPut sock line ex } sock
            (.bytes (line * 256) ex ((s.mem.latestBytes (line * 256) 256).map (·.toNat))))) ∧
        (s.lineFails line ex = false → (∃ d ∈ s.mem.gdir, d.1 ≠ sock ∧ d.2.1 = line ∧ (ex = true ∨ d.2.2 = true)) →
          ∃ t, exec row s = .next t ∧ t.pads = s.pads ∧ t.mem.gdir = s.mem.gdir ∧ t.mem.bytes = s.mem.bytes ∧
            ∃ r ∈ t.mem.recalls, r.2.1 = line ∧ r.1 ≠ sock))) ∧
    (s.coAllowed sock ctx pa true = true → guestLoc pa = .mem k →
      (∀ (keep : Bool) (data : List Nat) (sectors : Nat), isHost k = false → (sock, line, true) ∈ s.mem.gdir → s.Calm →
        s.stackGone k = false → (sectors = 0 ∨ (sectors = 1 ∧ s.mem.staleLines = [] ∧ s.Direct (256 * line) 64)) →
        ∃ t, exec (.writeBack sock ctx pa sectors data keep) s = .next t ∧ t.pads = s.pads ∧
          (t.mem.gdir = if keep then (s.mem.gdirPut sock line false).gdir
            else s.mem.gdir.filter fun d => decide (d.1 ≠ sock ∨ d.2.1 ≠ line)) ∧
          (sectors = 0 → t.mem.bytes = s.mem.bytes) ∧
          (sectors = 1 → OnlyBytes s t (256 * line) 64 ∧
            ∀ j, j < 64 → t.mem.byte (256 * line + j) = BitVec.ofNat 8 (atD 0 data j))) ∧
      (∀ c sectors data keep, isHost k = true → s.hostFault (s.ownerOf ctx) k = some c →
        exec (.writeBack sock ctx pa sectors data keep) s = .next (s.reply sock (.failed k c))) ∧
      (∀ aop wide x y, aop ≠ 14 → s.hostFault (s.ownerOf ctx) k = none → s.poisonedAt k = true →
        exec (.guestAtomic sock ctx pa aop wide x y) s = .next (s.reply sock (.failed k 0x0911))) ∧
      ∀ x y, s.poisonedAt k = false → s.hostFault (s.ownerOf ctx) k = none → (∀ d ∈ s.mem.gdir, d.2.1 = line → d.1 = sock) → s.Calm → k % 4 = 0 →
        s.Direct k 4 → ∃ t, exec (.guestAtomic sock ctx pa 0 false x y) s = .next t ∧ t.pads = s.pads ∧
          t.num k 4 = (s.num k 4 + x) % 2 ^ 32 ∧ OnlyBytes s t k 4 ∧
          (t.socket sock).replies = (s.socket sock).replies ++ [.old k (s.num k 4)]) ∧
    (∀ l since data keep, (sock, l, since) ∈ s.mem.recalls → s.Calm → ∃ t, exec (.recallAnswer sock l ⟨0, keep⟩ data) s = .next t ∧
      t.pads = s.pads ∧ t.mem.bytes = s.mem.bytes ∧
      (t.mem.gdir = if keep then (s.mem.gdirPut sock l false).gdir
        else s.mem.gdir.filter fun d => decide (d.1 ≠ sock ∨ d.2.1 ≠ l)) ∧
      t.mem.recalls = s.mem.recalls.filter fun r => decide (r.1 ≠ sock ∨ r.2.1 ≠ l)) ∧
    ∀ va write, let row := Instr.translationRequest sock ctx va write
      ((s.socket sock).serves (fun c => decide (c = ctx)) = false → ∃ t, exec row s = .next t ∧ CutOff t sock) ∧
      ((s.socket sock).serves (fun c => decide (c = ctx)) = true →
        (s.walk ctx va = none → exec row s = .next (s.reply sock (.notPresent ctx va))) ∧
        ∀ p, s.walk ctx va = some p →
          (write = true → entW p.entry = false → exec row s = .next (s.reply sock (.denied ctx va))) ∧
          ∀ key, (write = true → entW p.entry = true) → guestPlace (s.pageLoc p (va / p.size * p.size)) = some key →
            (isHost key = true → s.service.linkUp = true) →
            let g := GTrans.mk ctx (va / p.size * p.size) key p.size (entW p.entry && !entSeal p.entry) (entSeal p.entry)
            ∃ t, exec row s = .next t ∧ t.pads = s.pads ∧ t.mem = s.mem ∧ g ∈ (t.socket sock).trans ∧
              (t.socket sock).replies = (s.socket sock).replies ++ [.trans g])

/-- R267, R268, R365, R367: a snoop of the host is a store whose write time is past every lease on host lines and never falls; a
CXL.mem store to a line that nothing holds is performed at once, and a load changes nothing, and neither is served outside
the reach of the running TDIs or on a stack that is gone; an ATS invalidation leaves no translation to its frames; a host sync
waits for the invalidations before it; and a translation without an answer for 1 ms, no sooner, is given up, and where an
engine waits for it that engine's operation stalls.

R266, R365, R366: while the link is down no translation to host memory stays, ready bit 84 is clear, and the error is
logged, and a ring entry at host memory ends with STATUS 9; when it returns every TDI starts over. A TDI is locked to an owner
that no other holds, then runs with its host broadcast queues, and when it leaves RUN its owner's contexts are pre-empted.

The reach of the running TDIs (log entry 38), what a CXL.mem access to a stack that is gone does (41), the queues looked at
when a TDI starts (33), and the ERROR state of a TDI with the numbers of the messages and states (44) are the model's. -/
def Obligations.HostMemoryAndTdis : Prop :=
  (∀ (s : State),
    (∀ line data, (s.service.linkUp = false → exec (.hostSnoop line data) s = .next s) ∧
      (s.service.linkUp = true → s.Calm → s.mem.pending (lineOf (hostKey (line * 256))) = none → data.length = 256 →
        ∃ t, exec (.hostSnoop line data) s = .next t ∧ t.pads = s.pads ∧
          t.mem.latestBytes (hostKey (line * 256)) 256 = data.map (BitVec.ofNat 8) ∧
          s.service.hostWt ≤ t.service.hostWt ∧ ∀ l ∈ s.mem.leases, isHost (l.line * 256) = true → l.expiry < t.service.hostWt)) ∧
    (∀ pa size write data, let key := pa % 2 ^ 54
      (s.service.linkUp = false → exec (.cxlMemAccess pa size write data) s = .next s) ∧
      (s.mem.pending (lineOf key) = none → exec (.cxlMemAccess pa size false data) s = .next s) ∧
      (s.hdmReach key = false ∨ s.stackGone key = true → exec (.cxlMemAccess pa size write data) s = .next s) ∧
      (s.service.linkUp = true → s.hdmReach key = true → s.stackGone key = false → s.Calm → s.Direct key size →
        s.mem.guestHeld (lineOf key) = false → data.length = size →
        ∃ t, exec (.cxlMemAccess pa size true data) s = .next t ∧ t.pads = s.pads ∧
          t.holds key (data.map (BitVec.ofNat 8)) ∧ OnlyBytes s t key size ∧
          t.service.hostStores = max s.service.hostStores (s.dieClk (homeOf (lineOf key))))) ∧
    (∀ page psize, let n := pageBytes psize
      ∃ t, exec (.atsInvalidation page psize) s = .next t ∧ SameRegs s t ∧ t.mem.bytes = s.mem.bytes ∧
        t.mem.tlbs = s.mem.tlbs.filter fun x => let frame := entFrame x.entry.toNat / x.size * x.size
          !(entHost x.entry.toNat && meets frame (frame + x.size) (page / n * n) (page / n * n + n))) ∧
    (s.service.linkUp = true → s.service.atsPending = [] → exec .hostSync s = .next { s with service := { s.service with
      hostSyncs := s.service.hostSyncs + (s.service.syncsHeld + 1), syncsHeld := 0 } }) ∧
    (s.service.linkUp = false → exec .hostSync s = .next s) ∧
    ∀ o since, s.op? o.id = some o → o.kind = .ats → o.atsSince = some since →
      (s.clk < since + 1000000 → exec (.atsTimeout o.id) s = .next s) ∧
      (since + 1000000 ≤ s.clk → ∃ t, exec (.atsTimeout o.id) s = .next t ∧ SameRegs s t ∧ t.op? o.id = none)) ∧
  (∀ (s : State),
    exec (.hostLinkError true true) s = .next { s with service := { s.service with aer := 1 :: s.service.aer } } ∧
    (∀ e va, s.service.linkUp = true → s.mem.ops = [] → s.engineWork = [(e.id, e.ctx)] → s.entry? e.id = some e →
      s.entryHost e = some va → ∃ t x, exec (.hostLinkError true false) s = .next t ∧ t.service.linkUp = false ∧
        t.entry? e.id = some x ∧ x.fail = 9) ∧
    (s.service.linkUp = true → s.mem.ops = [] → s.engineWork = [] → ∃ t, exec (.hostLinkError true false) s = .next t ∧
      t.pads = s.pads ∧
      t.service.linkUp = false ∧ t.readyBit 84 = false ∧ t.service.aer = 2 :: s.service.aer ∧
      ∀ x ∈ t.mem.tlbs, entHost x.entry.toNat = false) ∧
    (s.service.linkUp = true → s.mem.ops = [] → s.engineWork = [] → ∃ t, exec (.hostLinkError false false) s = .next t ∧
      t.pads = s.pads ∧
      t.service.linkUp = true ∧ t.service.aer = 2 :: s.service.aer) ∧
    (s.service.linkUp = false → ∃ t, exec (.hostLinkError false true) s = .next t ∧ t.service.linkUp = true ∧
      t.readyBit 84 = true ∧ ∀ x ∈ t.service.tdis, x.tdiState = 0) ∧
    ∀ (n : Nat) (x : Tdi), s.service.tdis[n]? = some x →
      (x.tdiState ≠ 2 → exec (.tdiLeaveRun n) s = .next s) ∧
      (x.tdiState = 2 → ∃ t, exec (.tdiLeaveRun n) s = .next t ∧ t.service.tdis[n]? = some { x with tdiState := 3 } ∧
        x.owner ∈ t.service.cut ∧
        (queueOf s.service.sfqBase true = none → s.mem.ops = [] → s.engineWork = [] → t.pads = s.pads ∧
          ∀ l ∈ s.launches, s.ownerOf l.ctx = x.owner → (t.preempt? l.ctx).isSome)) ∧
      (s.service.linkUp = true →
        (∀ owner hbqs, x.tdiState = 0 → owner ≠ 0 → (∀ m y, s.service.tdis[m]? = some y → m ≠ n →
            ¬ (y.owner = owner ∧ y.tdiState ≠ 0)) →
          ∃ t, exec (.tdispRequest n owner 1 hbqs) s = .next t ∧ t.pads = s.pads ∧ t.mem = s.mem ∧
            t.service.tdis[n]? = some { x with owner := owner % 4096, tdiState := 1 }) ∧
        (∀ owner hbqs, x.tdiState = 1 → ∃ t : State, exec (.tdispRequest n owner 2 hbqs) s = .next t.pollHbqs ∧
          t.pads = s.pads ∧ t.mem = s.mem ∧ t.service.tdis[n]? = some { x with tdiState := 2 } ∧ x.owner ∉ t.service.cut ∧
          ∀ q k, s.service.hbqs[q]? = some k → q ∈ hbqs → t.service.hbqs[q]? = some { k with owner := some x.owner }) ∧
        ∀ owner hbqs, ∃ t y, exec (.tdispRequest n owner 3 hbqs) s = .next t ∧ t.service.tdis[n]? = some y ∧ y.tdiState = 0))

/-- R280, R282, R369, R370: an attestation report covers the nonce, the measurements, the firmware version, the ready map and
the owner sets, and carries a signature over them; a signed update whose range holds the table's version takes over, and no
other does; after 2 ms without a heartbeat the standby takes over, the old firmware in a mirror period, and the second
failure leaves no complex; a mirror period ends 1 s after the update.

R121, R284, R347, R368: an error in an L1, an L2 or an instruction cache drops the copy there; a corrected one elsewhere is
counted; an uncorrectable one marks the scratchpad word, makes the accumulator entry NaN or poisons the sector; a lost stack
and an unreachable die leave service, and work on the die stops; a boundary that goes down cuts off the dies that no path
joins to the fabric die. That the first failure clears ready bit 86 and leaves 85 set (log entry 40), which words of the DETAIL
records count HBM corrections and flit errors (log entry 42), and how boundaries are numbered and which die a record about one
names (log entry 74), are the model's.

R263, R307, R308: a record for the system fault queue goes into the slot that TAIL names, with cause, kind, context, owner
and address where R263 puts them, and then TAIL is one more and vector 0 is raised; without a queue it is counted. -/
def Obligations.FirmwareAndFailures : Prop :=
  (∀ (s : State),
    (∀ nonce, let body := nonce :: s.firmware.measures ++ [s.fwver, s.service.ready, s.ownerDigest]
      exec (.attestationRequest nonce) s = .next { s with service := { s.service with
        attest := s.service.attest ++ [body ++ [Config.sign body]] } }) ∧
    (∀ version lo hi signed, let v := s.firmware.tableVersion
      let may := signed && s.readyBit 85 && s.readyBit 86 && decide (lo ≤ v ∧ v ≤ hi)
      (may = false → exec (.liveUpdate version lo hi signed) s = .next s) ∧
      (may = true → ∃ t, exec (.liveUpdate version lo hi signed) s = .next t ∧ { t with firmware := s.firmware } = s ∧
        t.firmware.active = version ∧ t.firmware.standby = some s.firmware.active ∧
        t.firmware.previous = some s.firmware.active ∧ t.firmware.takeover = s.clk ∧
        t.firmware.tableVersion = s.firmware.tableVersion)) ∧
    (s.clk < s.firmware.heartbeat + 2000000 → exec .watchdogFailover s = .next s) ∧
    (s.firmware.heartbeat + 2000000 ≤ s.clk → s.readyBit 85 = true → s.firmware.failed = 0 → s.readyBit 86 = true →
      ∃ t, exec .watchdogFailover s = .next t ∧ SameRegs s t ∧ t.firmware.failed = 1 ∧ t.readyBit 86 = false ∧
        t.readyBit 85 = true ∧ (∀ v, s.clk < s.firmware.takeover + 1000000000 → s.firmware.previous = some v →
          t.firmware.active = v) ∧
        ∀ v, (s.firmware.takeover + 1000000000 ≤ s.clk ∨ s.firmware.previous = none) → s.firmware.standby = some v →
          t.firmware.active = v) ∧
    (s.firmware.heartbeat + 2000000 ≤ s.clk → s.readyBit 85 = true → s.firmware.failed = 1 →
      ∃ t, exec .watchdogFailover s = .next t ∧ t.pads = s.pads ∧ t.mem = s.mem ∧ t.firmware.failed = 2 ∧
        t.readyBit 85 = false ∧ t.readyBit 86 = false ∧ t.intake = false ∧
        t.fabric.reports = s.fabric.reports ++ [FmReport.mk 0x0982 0 s.clk none]) ∧
    exec .mirrorPeriodEnd s = .next (if s.firmware.previous.isSome = true ∧ s.firmware.takeover + 1000000000 ≤ s.clk
      then { s with firmware := { s.firmware with previous := none } } else s)) ∧
  (∀ (s : State) (unit index : Nat),
    (∀ (c : Bool), ∃ t u v, exec (.softError 0 unit index c) s = .next t ∧ exec (.softError 1 unit index c) s = .next u ∧
      exec (.softError 2 unit index c) s = .next v ∧ t.pads = s.pads ∧ u.pads = s.pads ∧ v.pads = s.pads ∧
      t.mem.bytes = s.mem.bytes ∧ u.mem.bytes = s.mem.bytes ∧ v.mem = s.mem ∧ t.mem.copy? true unit index = none ∧
      u.mem.copy? false unit index = none ∧ v.icache = s.icache.filter fun x => decide (x.core ≠ unit ∨ x.line ≠ index / 192)) ∧
    (∀ storage, storage = 3 ∨ storage = 4 ∨ storage = 5 → ∃ t, exec (.softError storage unit index true) s = .next t ∧
      t.pads = s.pads ∧ t.mem = s.mem ∧ t.acc = s.acc ∧
      let w := 8 * ((if storage = 5 then unit else dieOf unit) % 24) + 1
      tabGet 0 t.service.detail w = tabGet 0 s.service.detail w + 1) ∧
    (∀ p, s.pad? unit = some p → ∃ t q, exec (.softError 3 unit index false) s = .next t ∧ t.mem = s.mem ∧
      t.pad? unit = some q ∧ index ∈ q.spadBad ∧ q.scratch = p.scratch ∧ q.fgs = p.fgs) ∧
    (∃ t, exec (.softError 4 unit index false) s = .next t ∧ t.pads = s.pads ∧
      tabGet 0 t.acc (unit * 32768 + index % 32768) = BitVec.ofNat 80 a80.nan) ∧
    (∃ t, exec (.softError 5 unit index false) s = .next t ∧ t.pads = s.pads ∧ index ∈ t.mem.poison) ∧
    (∀ what pa, what = 0 ∨ what = 3 → ∃ t, exec (.hbmFailure what unit pa) s = .next t ∧ t.pads = s.pads ∧ t.mem = s.mem ∧
      let w := if what = 0 then 8 * (24 + unit % 24) else 8 * (boundary unit).1 + 2
      tabGet 0 t.service.detail w = tabGet 0 s.service.detail w + 1) ∧
    (∀ pa, ∃ t, exec (.hbmFailure 1 unit pa) s = .next t ∧ t.pads = s.pads ∧ sectorOf pa ∈ t.mem.poison) ∧
    (∀ pa, ∃ t, exec (.hbmFailure 4 unit pa) s = .next t ∧ t.pads = s.pads ∧ t.dies = s.dies ∧ unit % 36 ∈ t.narrow) ∧
    (∀ pa, s.dies.length = 25 → ∃ t, exec (.hbmFailure 5 unit pa) s = .next t ∧ SameRegs s t ∧ unit % 36 ∈ t.severed ∧
      ∀ d, d < 24 → (d ∉ reachable t.severed → (atD DieState.zero t.dies d).cut = true) ∧
        (d ∈ reachable t.severed → atD DieState.zero t.dies d = atD DieState.zero s.dies d)) ∧
    ∀ pa, s.dies.length = 25 → (atD DieState.zero s.dies (unit % 24)).cut = false →
      (∃ t, exec (.hbmFailure 2 unit pa) s = .next t ∧ t.pads = s.pads ∧ t.readyBit (24 + unit % 24) = false ∧
        ∀ key, isHost key = false → homeOf (lineOf key) = unit % 24 → t.poisonedAt key = true) ∧
      ∃ t, exec (.hbmFailure 6 unit pa) s = .next t ∧ SameRegs s t ∧ t.readyBit (unit % 24) = false ∧
        t.readyBit (24 + unit % 24) = false ∧ (∀ p ∈ t.pads, dieOf p.core = unit % 24 → p.stopped = true) ∧
        ∀ c, dieOf c = unit % 24 → t.coreFree c = false) ∧
  (∀ (s : State) (unit pa : Nat),
    (queueOf s.service.sfqBase true = none → ∃ t, exec (.hbmFailure 4 unit pa) s = .next t ∧ t.mem = s.mem ∧
      t.pads = s.pads ∧ tabGet 0 t.service.detail 696 = tabGet 0 s.service.detail 696 + 1) ∧
    ∀ key size, queueOf s.service.sfqBase true = some (key, size) → s.Calm → s.queueFull (key, size) = false →
      let tail := s.num key 4
      let slot := key + 64 + 32 * (tail % size)
      s.Direct slot 32 → s.Direct key 4 → s.mem.guestDirty (lineOf slot) = false → s.mem.guestDirty (lineOf key) = false →
      ∃ t, exec (.hbmFailure 4 unit pa) s = .next t ∧
        t.pads = s.pads ∧ t.num slot 2 = 0x0930 ∧ t.num (slot + 2) 1 = 3 * 16 ∧ t.num (slot + 3) 1 = 0 ∧
        t.num (slot + 4) 2 = 0xFFFF ∧ t.num (slot + 6) 2 = 0 ∧ t.num (slot + 8) 8 = 0 ∧ t.num (slot + 16) 8 = 0 ∧
        t.num (slot + 24) 4 = s.dieClk ((boundary unit).1 % 32) % 2 ^ 32 ∧ t.num (slot + 28) 4 = (boundary unit).1 ∧ t.num key 4 = (tail + 1) % 2 ^ 32 ∧
        (∀ k, (k < slot ∨ slot + 32 ≤ k) → (k < key ∨ key + 4 ≤ k) → t.mem.byte k = s.mem.byte k) ∧
        t.service.msix = 0 :: s.service.msix)

/-- R118, R280, R283, R284, R313: a ready bit that rises puts its unit in service, and for bit 87 the doorbells held meanwhile are
taken and the host broadcast queues looked at; a firmware complex comes into service only with a signed image, which is
measured, and not after both have failed (R370); a drained die takes no work and its contexts are pre-empted; DISCARD forgets
a saved context's work and no other's; module reset leaves nothing on the module, every byte of its memory 0 and the host's as
it was.

What memory reads after a reset, and that the host's stays (log entries 1, 2), that the queues are looked at for bit 87 (33), and
which contexts DISCARD takes (43), are the model's. -/
def Obligations.ServiceCommands : Prop :=
  ∀ (s : State),
    (∀ b, b = 82 ∨ b = 83 ∨ 88 ≤ b → exec (.readyBitRise b) s = .next s) ∧
    (∀ b, b < 24 → s.dies.length = 25 → (atD DieState.zero s.dies b).cut = false →
      ∃ t, exec (.readyBitRise b) s = .next t ∧ t.pads = s.pads ∧ t.mem = s.mem ∧ t.readyBit b = true ∧
        (atD DieState.zero t.dies b).coreStop = false ∧ ∀ k, k ≠ b → t.readyBit k = s.readyBit k) ∧
    (∀ b, 48 ≤ b → b < 80 → ∃ t, exec (.readyBitRise b) s = .next t ∧ t.pads = s.pads ∧ t.mem = s.mem ∧
      t.readyBit b = true ∧ ∀ k ∈ t.fabric.packets, b - 48 ∈ s.routePorts k.dest → k.stalledSince = none) ∧
    (∀ b, b = 85 ∨ b = 86 → 2 ≤ s.firmware.failed → exec (.readyBitRise b) s = .next s) ∧
    (∀ b, b = 85 ∨ b = 86 → let v := if b = 85 then s.firmware.active else s.firmware.standby.getD s.firmware.active
      s.firmware.failed < 2 → (b = 85 → s.readyBit 85 = false) → ∃ t, exec (.readyBitRise b) s = .next t ∧ t.pads = s.pads ∧ t.mem = s.mem ∧
        (if Config.imageSigned v then t.readyBit b = true ∧ t.firmware.measures = (s.firmware.measure v).measures
         else t = s)) ∧
    (s.firmware.failed < 2 → ∃ t : State, exec (.readyBitRise 87) s = .next t.pollHbqs ∧ t.pads = s.pads ∧ t.mem = s.mem ∧
      t.intake = true ∧ ∀ (q : Nat) (k : SubQueue), s.queues[q]? = some k → ∃ x : SubQueue, t.queues[q]? = some x ∧ x.seen = none ∧
        x.tail = k.seen.getD k.tail) ∧
    (∀ unit, s.dies.length = 25 → s.mem.ops = [] → ∃ t, exec (.drain 0 unit) s = .next t ∧ t.pads = s.pads ∧ t.readyBit (unit % 24) = false ∧
      (∀ c, dieOf c = unit % 24 → t.coreFree c = false) ∧
      ∀ p ∈ s.pads, dieOf p.core = unit % 24 → (t.preempt? p.ctx).isSome) ∧
    (∀ unit, s.dies.length = 25 → ∃ t, exec (.drain 1 unit) s = .next t ∧ t.pads = s.pads ∧ t.mem = s.mem ∧
      t.readyBit (24 + unit % 24) = false ∧ (atD DieState.zero t.dies (unit % 24)).lost = true) ∧
    (∀ sock, sock < 2 → s.sockets.length = 2 → (s.socket sock).queues = [] → ∃ t, exec (.drain 2 sock) s = .next t ∧
      t.pads = s.pads ∧ t.mem = s.mem ∧ t.readyBit (80 + sock) = false ∧ (t.socket sock).drained = true) ∧
    (∀ ctx, (s.mayDiscard ctx = false → exec (.discard ctx) s = .next s) ∧
      (s.mayDiscard ctx = true → ∃ t, exec (.discard ctx) s = .next t ∧ (∀ e ∈ t.triggers, e.ctx ≠ ctx) ∧
        ∀ p ∈ t.pads, p.ctx ≠ ctx)) ∧
    ∃ t, exec .moduleReset s = .next t ∧ t.pads = [] ∧ t.launches = [] ∧ t.ctxs = [] ∧
      t.lottery = 0x6A09E667F3BCC909#64 ∧ t.service.ready = 0 ∧ (∀ k, k < 2 ^ 54 → t.mem.byte k = 0) ∧
      (s.mem.wf = true → ∀ k, 2 ^ 54 ≤ k → t.mem.byte k = s.mem.byte k)

/-- R39-R41, R54, R273, R376: a doorbell sets TAIL, or is kept while intake is closed, and is lost while the link is down
(R365). The queue that the lottery picks has
its command taken: one that fails a check starts nothing; one of a fresh image starts a launch with the share and classes
of R43 and opens the context's record; a saved image that finds no cores at once becomes a launch whose work comes back
later, its pad groups all together (log entry 65).

R30, R99, R100: a launch that is not over, or whose work is not yet visible, stays; one that is over leaves, adds CWINC to its completion word, and for a
LAUNCH record sends an ADD of 1 to its count word. That this ADD waits outside a broadcast queue that is full is deduced (log
entry 60).

R37, R38, R44-R46, R238: a free core is given the top task of its die's stack first, and with an empty stack the next
ticket of a launch; each thread starts at the block's entry with its number in g1. A die with nothing of a launch takes the
upper half of another's tickets, or the oldest task of its stack. A core whose task is over is free. -/
def Obligations.CommandsAndDispatch : Prop :=
  ((∀ (s : State) (q tail : Nat), (s.service.linkUp = false → exec (.sqTail q tail) s = .next s) ∧
    (s.service.linkUp = true → ∃ t, exec (.sqTail q tail) s = .next t ∧ { t with queues := s.queues } = s ∧
      t.queues = modifyAt s.queues q fun k => if s.intake then { k with tail := tail % 2 ^ 32, seen := none }
        else { k with seen := some (tail % 2 ^ 32) })) ∧
  (∀ (s : State) (pref : List Nat), (∀ q, q < 64 → s.askCommand q = s) → s.drawQueue = none →
    exec (.queuePick pref) s = .next s) ∧
  ∀ (s : State) (pref : List Nat) (q : Nat) (g : BitVec 64) (c : Command),
    (∀ n, n < 64 → s.askCommand n = s) → s.drawQueue = some (q, g) → s.command? q = some c →
    let u : State := { s with lottery := g }
    let v := u.openContext c
    (c.opc = 1 → ∀ x, u.checkImage c = some x → c.aux = none → ∃ t, exec (.queuePick pref) s = .next t ∧
      t.launches = s.launches ∧ t.pads = s.pads ∧ t.lottery = g ∧
      t.queues = modifyAt s.queues q fun k => { k.takeHead with lastLaunch := 0 }) ∧
    (c.opc = 1 → u.checkImage c = none → v.hdr c.ctx c.image 6 2 ≠ 1 → (∀ x ∈ s.launches, x.id ≠ s.nextId) →
      (∃ r ∈ (v.newLaunch c).counters, r.1 < r.2) → ∃ t, exec (.queuePick pref) s = .next t ∧ t.pads = s.pads ∧
      t.mem = s.mem ∧ t.launches = s.launches ++ [v.newLaunch c] ∧ (t.ctx? c.ctx).isSome ∧ t.lottery = g ∧
      t.queues = modifyAt s.queues q fun k => { k.takeHead with lastLaunch := s.nextId }) ∧
    (c.opc = 1 → u.checkImage c = none → v.hdr c.ctx c.image 6 2 = 1 →
      let l := v.savedLaunchOf (v.newLaunch c) pref
      let w : State := { v.bump with launches := s.launches ++ [l],
                                     queues := modifyAt s.queues q fun k => { k.takeHead with lastLaunch := s.nextId } }
      (w.restore l pref = none → ∃ t, exec (.queuePick pref) s = .next t ∧ t.pads = s.pads ∧ t.mem = s.mem ∧
        t.launches = s.launches ++ [l] ∧ t.lottery = g ∧ t.queues = w.queues) ∧
      ∀ x, w.restore l pref = some x → exec (.queuePick pref) s = .next (x.forgetFar (u.commandSectors c)))) ∧
  (∀ (s : State) (l : Launch), s.launch? l.id = some l →
    (s.launchOver l = false → exec (.commandComplete l.id) s = .next s) ∧
    (s.clk < l.mark → exec (.commandComplete l.id) s = .next s) ∧
    (∀ line, s.launchOver l = true → l.mark ≤ s.clk → s.wordHeld l = some line →
      exec (.commandComplete l.id) s = .next (s.recallGuests line)) ∧
    (s.launchOver l = true → l.mark ≤ s.clk → s.wordHeld l = none → s.Calm →
      (l.aux = none → l.cwAddr = 0 → ∃ t, exec (.commandComplete l.id) s = .next t ∧ t.pads = s.pads ∧ t.mem = s.mem ∧
        t.launches = s.launches.filter fun x => decide (x.id ≠ l.id)) ∧
      (∀ p k, l.aux = none → l.cwAddr ≠ 0 → l.cwAddr % 8 = 0 → l.cwAddr < 2 ^ 57 → l.cwAddr < spadWindow →
        s.walk l.ctx l.cwAddr = some p → p.check true = .page p → s.pageLoc p l.cwAddr = .mem k → s.Direct k 8 →
        s.stackGone k = false → s.hostFault (s.ownerOf l.ctx) k = none →
        ∃ t, exec (.commandComplete l.id) s = .next t ∧ t.pads = s.pads ∧ t.num k 8 = (s.num k 8 + l.cwInc) % 2 ^ 64 ∧
          OnlyBytes s t k 8 ∧ t.launches = s.launches.filter fun x => decide (x.id ≠ l.id)) ∧
      ∀ a, l.aux = some a → a ≠ 0xFFFF → l.cwAddr = 0 →
        let r := Rec.mk (headerWord 2 l.recOwner s.tap.position false 1 l.ctx 0) (BitVec.ofNat 64 (8 * a)) 1 1 0
        ∃ t, exec (.commandComplete l.id) s = .next t ∧ t.mem = s.mem ∧
          (t.launches = s.launches.filter fun x => decide (x.id ≠ l.id)) ∧
          (s.tap.outside = [] → s.queueRoom 1 = true → t.tap.queue = s.tap.queue ++ [r s.tap.nextNum]) ∧
          (s.tap.outside ≠ [] ∨ s.queueRoom 1 = false → t.tap.queue = s.tap.queue ∧
            t.tap.outside = s.tap.outside ++ [r 0]))) ∧
  ((∀ (s : State) (core : Nat),
    let entered := fun (p : Pad) (ctx lb : Nat) => ∀ (n : Nat) (g : FileGroup), p.fgs[n]? = some g → ∀ (i : Nat) (th : Thread), g.threads[i]? = some th →
      th.pc = BitVec.ofNat 57 (s.devNum ctx lb 8) ∧ th.reg 1 = BitVec.ofNat 32 i ∧ th.exited = false ∧ th.wait = .ready
    (s.coreFree core = false → exec (.dispatch core) s = .next s) ∧
    (s.coreFree core = true → (∀ x ∈ s.dispatchSectors core, s.hasFar x = true) →
      (∀ x, s.nextSpawn (dieOf core) = some x → x.pool = none → s.blockFault x.ctx x.lb = none →
        ∃ t p, exec (.dispatch core) s = .next t ∧ t.pads = s.pads ++ [p] ∧ t.mem = s.mem ∧ p.core = core ∧
          p.ctx = x.ctx ∧ p.launch = x.launch ∧ p.index = x.pindex ∧ p.slot = some x.slot ∧ entered p x.ctx x.lb ∧
          x ∉ atD [] t.spawns (dieOf core) ∧
          ∀ y ∈ atD [] s.spawns (dieOf core), y.num ≠ x.num → y ∈ atD [] t.spawns (dieOf core)) ∧
      ∀ l, s.nextSpawn (dieOf core) = none → s.launches = [l] → l.cls < 4 → l.failed = false → l.restoring = none → l.dom = false →
        l.grain = 0 → s.mayStart l.ctx = true → (l.range (dieOf core)).1 < (l.range (dieOf core)).2 →
        s.blockFault l.ctx l.lb = none → s.devNum l.ctx (l.lb + 0x10) 8 = 0 →
        ∃ t p k, exec (.dispatch core) s = .next t ∧ t.pads = s.pads ++ [p] ∧ t.mem = s.mem ∧ p.core = core ∧
          p.ctx = l.ctx ∧ p.launch = l.id ∧ p.index = (l.range (dieOf core)).1 ∧ p.slot = none ∧ entered p l.ctx l.lb ∧
          t.launches = [k] ∧ k.id = l.id ∧ k.counters = modifyAt l.counters (dieOf core) fun r => (r.1 + 1, r.2))) ∧
  (∀ (s : State) (l : Launch) (die v : Nat), s.launches = [l] → die < 24 → v < 24 → v ≠ die →
    l.counters.length = 24 → s.spawns.length = 24 → (l.range die).2 ≤ (l.range die).1 → l.dieMask.testBit die = true →
    l.dieMask.testBit v = true → s.mayStart l.ctx = true →
    (∀ d, d ≠ v → (l.range d).2 ≤ (l.range d).1 ∧ ∀ x ∈ atD [] s.spawns d, x.launch ≠ l.id) →
    let a := (l.range v).1
    let b := (l.range v).2
    let m := b - (b - a + 1) / 2
    (a < b → l.dom = false → (∀ x ∈ atD [] s.spawns v, x.launch ≠ l.id) → ∃ t k, exec (.steal die l.id) s = .next t ∧ t.pads = s.pads ∧
      t.mem = s.mem ∧ t.spawns = s.spawns ∧ t.launches = [k] ∧ k.range v = (a, m) ∧ k.range die = (m, b)) ∧
    (∀ x ys, atD [] s.spawns v = ys ++ [x] → x.launch = l.id → (∀ y ∈ ys, y.num ≠ x.num) → x.pool = none →
      ((atD [] s.spawns die).filter fun y => y.pool.isNone).length < 4096 → ∃ t, exec (.steal die l.id) s = .next t ∧
      t.pads = s.pads ∧ t.mem = s.mem ∧ t.launches = s.launches ∧ atD [] t.spawns v = ys ∧
      atD [] t.spawns die = x :: atD [] s.spawns die)) ∧
  ∀ (s : State) (p : Pad), s.pad? p.core = some p → p.pushed = true →
    (State.slotFree p = false → exec (.slotRelease p.core) s = .next s) ∧
    (State.slotFree p = true → ∃ t, exec (.slotRelease p.core) s = .next t ∧ t.mem = s.mem ∧
      t.pads = s.pads.filter fun x => decide (x.core ≠ p.core)))
end

