-- ==== Sys2Proof/Laws/State.lean ====
section
/-! SUPPORT. What each named update of State leaves unchanged, field by field. -/

namespace Sys2Proof.Machine

/-! ### `mapPad` -/

@[simp] theorem State.mapPad_clk (s : State) (core : Nat) (f : Pad → Pad) : (s.mapPad core f).clk = s.clk := rfl
@[simp] theorem State.mapPad_memBusy (s : State) (core : Nat) (f : Pad → Pad) : (s.mapPad core f).memBusy = s.memBusy := rfl
@[simp] theorem State.mapPad_faultQs (s : State) (core : Nat) (f : Pad → Pad) : (s.mapPad core f).faultQs = s.faultQs := rfl
@[simp] theorem State.mapPad_narrow (s : State) (core : Nat) (f : Pad → Pad) : (s.mapPad core f).narrow = s.narrow := rfl
@[simp] theorem State.mapPad_severed (s : State) (core : Nat) (f : Pad → Pad) : (s.mapPad core f).severed = s.severed := rfl
@[simp] theorem State.mapPad_spent (s : State) (core : Nat) (f : Pad → Pad) : (s.mapPad core f).spent = s.spent := rfl
@[simp] theorem State.mapPad_skew (s : State) (core : Nat) (f : Pad → Pad) : (s.mapPad core f).skew = s.skew := rfl
@[simp] theorem State.mapPad_seq (s : State) (core : Nat) (f : Pad → Pad) : (s.mapPad core f).seq = s.seq := rfl
@[simp] theorem State.mapPad_nextId (s : State) (core : Nat) (f : Pad → Pad) : (s.mapPad core f).nextId = s.nextId := rfl
@[simp] theorem State.mapPad_agenda (s : State) (core : Nat) (f : Pad → Pad) : (s.mapPad core f).agenda = s.agenda := rfl
@[simp] theorem State.mapPad_cur (s : State) (core : Nat) (f : Pad → Pad) : (s.mapPad core f).cur = s.cur := rfl
@[simp] theorem State.mapPad_lottery (s : State) (core : Nat) (f : Pad → Pad) : (s.mapPad core f).lottery = s.lottery := rfl
@[simp] theorem State.mapPad_acc (s : State) (core : Nat) (f : Pad → Pad) : (s.mapPad core f).acc = s.acc := rfl
@[simp] theorem State.mapPad_accBad (s : State) (core : Nat) (f : Pad → Pad) : (s.mapPad core f).accBad = s.accBad := rfl
@[simp] theorem State.mapPad_icache (s : State) (core : Nat) (f : Pad → Pad) : (s.mapPad core f).icache = s.icache := rfl
@[simp] theorem State.mapPad_units (s : State) (core : Nat) (f : Pad → Pad) : (s.mapPad core f).units = s.units := rfl
@[simp] theorem State.mapPad_mem (s : State) (core : Nat) (f : Pad → Pad) : (s.mapPad core f).mem = s.mem := rfl
@[simp] theorem State.mapPad_ctxs (s : State) (core : Nat) (f : Pad → Pad) : (s.mapPad core f).ctxs = s.ctxs := rfl
@[simp] theorem State.mapPad_launches (s : State) (core : Nat) (f : Pad → Pad) : (s.mapPad core f).launches = s.launches := rfl
@[simp] theorem State.mapPad_queues (s : State) (core : Nat) (f : Pad → Pad) : (s.mapPad core f).queues = s.queues := rfl
@[simp] theorem State.mapPad_spawns (s : State) (core : Nat) (f : Pad → Pad) : (s.mapPad core f).spawns = s.spawns := rfl
@[simp] theorem State.mapPad_triggers (s : State) (core : Nat) (f : Pad → Pad) : (s.mapPad core f).triggers = s.triggers := rfl
@[simp] theorem State.mapPad_preempts (s : State) (core : Nat) (f : Pad → Pad) : (s.mapPad core f).preempts = s.preempts := rfl
@[simp] theorem State.mapPad_energyMark (s : State) (core : Nat) (f : Pad → Pad) : (s.mapPad core f).energyMark = s.energyMark := rfl
@[simp] theorem State.mapPad_governed (s : State) (core : Nat) (f : Pad → Pad) : (s.mapPad core f).governed = s.governed := rfl
@[simp] theorem State.mapPad_refills (s : State) (core : Nat) (f : Pad → Pad) : (s.mapPad core f).refills = s.refills := rfl
@[simp] theorem State.mapPad_tap (s : State) (core : Nat) (f : Pad → Pad) : (s.mapPad core f).tap = s.tap := rfl
@[simp] theorem State.mapPad_fabric (s : State) (core : Nat) (f : Pad → Pad) : (s.mapPad core f).fabric = s.fabric := rfl
@[simp] theorem State.mapPad_service (s : State) (core : Nat) (f : Pad → Pad) : (s.mapPad core f).service = s.service := rfl
@[simp] theorem State.mapPad_firmware (s : State) (core : Nat) (f : Pad → Pad) : (s.mapPad core f).firmware = s.firmware := rfl
@[simp] theorem State.mapPad_sockets (s : State) (core : Nat) (f : Pad → Pad) : (s.mapPad core f).sockets = s.sockets := rfl
@[simp] theorem State.mapPad_dies (s : State) (core : Nat) (f : Pad → Pad) : (s.mapPad core f).dies = s.dies := rfl

/-! ### `mapFg` -/

@[simp] theorem State.mapFg_clk (s : State) (core fg : Nat) (f : FileGroup → FileGroup) : (s.mapFg core fg f).clk = s.clk := rfl
@[simp] theorem State.mapFg_memBusy (s : State) (core fg : Nat) (f : FileGroup → FileGroup) : (s.mapFg core fg f).memBusy = s.memBusy := rfl
@[simp] theorem State.mapFg_faultQs (s : State) (core fg : Nat) (f : FileGroup → FileGroup) : (s.mapFg core fg f).faultQs = s.faultQs := rfl
@[simp] theorem State.mapFg_narrow (s : State) (core fg : Nat) (f : FileGroup → FileGroup) : (s.mapFg core fg f).narrow = s.narrow := rfl
@[simp] theorem State.mapFg_severed (s : State) (core fg : Nat) (f : FileGroup → FileGroup) : (s.mapFg core fg f).severed = s.severed := rfl
@[simp] theorem State.mapFg_spent (s : State) (core fg : Nat) (f : FileGroup → FileGroup) : (s.mapFg core fg f).spent = s.spent := rfl
@[simp] theorem State.mapFg_skew (s : State) (core fg : Nat) (f : FileGroup → FileGroup) : (s.mapFg core fg f).skew = s.skew := rfl
@[simp] theorem State.mapFg_seq (s : State) (core fg : Nat) (f : FileGroup → FileGroup) : (s.mapFg core fg f).seq = s.seq := rfl
@[simp] theorem State.mapFg_nextId (s : State) (core fg : Nat) (f : FileGroup → FileGroup) : (s.mapFg core fg f).nextId = s.nextId := rfl
@[simp] theorem State.mapFg_agenda (s : State) (core fg : Nat) (f : FileGroup → FileGroup) : (s.mapFg core fg f).agenda = s.agenda := rfl
@[simp] theorem State.mapFg_cur (s : State) (core fg : Nat) (f : FileGroup → FileGroup) : (s.mapFg core fg f).cur = s.cur := rfl
@[simp] theorem State.mapFg_lottery (s : State) (core fg : Nat) (f : FileGroup → FileGroup) : (s.mapFg core fg f).lottery = s.lottery := rfl
@[simp] theorem State.mapFg_acc (s : State) (core fg : Nat) (f : FileGroup → FileGroup) : (s.mapFg core fg f).acc = s.acc := rfl
@[simp] theorem State.mapFg_accBad (s : State) (core fg : Nat) (f : FileGroup → FileGroup) : (s.mapFg core fg f).accBad = s.accBad := rfl
@[simp] theorem State.mapFg_icache (s : State) (core fg : Nat) (f : FileGroup → FileGroup) : (s.mapFg core fg f).icache = s.icache := rfl
@[simp] theorem State.mapFg_units (s : State) (core fg : Nat) (f : FileGroup → FileGroup) : (s.mapFg core fg f).units = s.units := rfl
@[simp] theorem State.mapFg_mem (s : State) (core fg : Nat) (f : FileGroup → FileGroup) : (s.mapFg core fg f).mem = s.mem := rfl
@[simp] theorem State.mapFg_ctxs (s : State) (core fg : Nat) (f : FileGroup → FileGroup) : (s.mapFg core fg f).ctxs = s.ctxs := rfl
@[simp] theorem State.mapFg_launches (s : State) (core fg : Nat) (f : FileGroup → FileGroup) : (s.mapFg core fg f).launches = s.launches := rfl
@[simp] theorem State.mapFg_queues (s : State) (core fg : Nat) (f : FileGroup → FileGroup) : (s.mapFg core fg f).queues = s.queues := rfl
@[simp] theorem State.mapFg_spawns (s : State) (core fg : Nat) (f : FileGroup → FileGroup) : (s.mapFg core fg f).spawns = s.spawns := rfl
@[simp] theorem State.mapFg_triggers (s : State) (core fg : Nat) (f : FileGroup → FileGroup) : (s.mapFg core fg f).triggers = s.triggers := rfl
@[simp] theorem State.mapFg_preempts (s : State) (core fg : Nat) (f : FileGroup → FileGroup) : (s.mapFg core fg f).preempts = s.preempts := rfl
@[simp] theorem State.mapFg_energyMark (s : State) (core fg : Nat) (f : FileGroup → FileGroup) : (s.mapFg core fg f).energyMark = s.energyMark := rfl
@[simp] theorem State.mapFg_governed (s : State) (core fg : Nat) (f : FileGroup → FileGroup) : (s.mapFg core fg f).governed = s.governed := rfl
@[simp] theorem State.mapFg_refills (s : State) (core fg : Nat) (f : FileGroup → FileGroup) : (s.mapFg core fg f).refills = s.refills := rfl
@[simp] theorem State.mapFg_tap (s : State) (core fg : Nat) (f : FileGroup → FileGroup) : (s.mapFg core fg f).tap = s.tap := rfl
@[simp] theorem State.mapFg_fabric (s : State) (core fg : Nat) (f : FileGroup → FileGroup) : (s.mapFg core fg f).fabric = s.fabric := rfl
@[simp] theorem State.mapFg_service (s : State) (core fg : Nat) (f : FileGroup → FileGroup) : (s.mapFg core fg f).service = s.service := rfl
@[simp] theorem State.mapFg_firmware (s : State) (core fg : Nat) (f : FileGroup → FileGroup) : (s.mapFg core fg f).firmware = s.firmware := rfl
@[simp] theorem State.mapFg_sockets (s : State) (core fg : Nat) (f : FileGroup → FileGroup) : (s.mapFg core fg f).sockets = s.sockets := rfl
@[simp] theorem State.mapFg_dies (s : State) (core fg : Nat) (f : FileGroup → FileGroup) : (s.mapFg core fg f).dies = s.dies := rfl

/-! ### `mapLanes` -/

@[simp] theorem State.mapLanes_clk (s : State) (core fg : Nat) (lanes : List Nat) (f : Nat → Thread → Thread) : (s.mapLanes core fg lanes f).clk = s.clk := rfl
@[simp] theorem State.mapLanes_memBusy (s : State) (core fg : Nat) (lanes : List Nat) (f : Nat → Thread → Thread) : (s.mapLanes core fg lanes f).memBusy = s.memBusy := rfl
@[simp] theorem State.mapLanes_faultQs (s : State) (core fg : Nat) (lanes : List Nat) (f : Nat → Thread → Thread) : (s.mapLanes core fg lanes f).faultQs = s.faultQs := rfl
@[simp] theorem State.mapLanes_narrow (s : State) (core fg : Nat) (lanes : List Nat) (f : Nat → Thread → Thread) : (s.mapLanes core fg lanes f).narrow = s.narrow := rfl
@[simp] theorem State.mapLanes_severed (s : State) (core fg : Nat) (lanes : List Nat) (f : Nat → Thread → Thread) : (s.mapLanes core fg lanes f).severed = s.severed := rfl
@[simp] theorem State.mapLanes_spent (s : State) (core fg : Nat) (lanes : List Nat) (f : Nat → Thread → Thread) : (s.mapLanes core fg lanes f).spent = s.spent := rfl
@[simp] theorem State.mapLanes_skew (s : State) (core fg : Nat) (lanes : List Nat) (f : Nat → Thread → Thread) : (s.mapLanes core fg lanes f).skew = s.skew := rfl
@[simp] theorem State.mapLanes_seq (s : State) (core fg : Nat) (lanes : List Nat) (f : Nat → Thread → Thread) : (s.mapLanes core fg lanes f).seq = s.seq := rfl
@[simp] theorem State.mapLanes_nextId (s : State) (core fg : Nat) (lanes : List Nat) (f : Nat → Thread → Thread) : (s.mapLanes core fg lanes f).nextId = s.nextId := rfl
@[simp] theorem State.mapLanes_agenda (s : State) (core fg : Nat) (lanes : List Nat) (f : Nat → Thread → Thread) : (s.mapLanes core fg lanes f).agenda = s.agenda := rfl
@[simp] theorem State.mapLanes_cur (s : State) (core fg : Nat) (lanes : List Nat) (f : Nat → Thread → Thread) : (s.mapLanes core fg lanes f).cur = s.cur := rfl
@[simp] theorem State.mapLanes_lottery (s : State) (core fg : Nat) (lanes : List Nat) (f : Nat → Thread → Thread) : (s.mapLanes core fg lanes f).lottery = s.lottery := rfl
@[simp] theorem State.mapLanes_acc (s : State) (core fg : Nat) (lanes : List Nat) (f : Nat → Thread → Thread) : (s.mapLanes core fg lanes f).acc = s.acc := rfl
@[simp] theorem State.mapLanes_accBad (s : State) (core fg : Nat) (lanes : List Nat) (f : Nat → Thread → Thread) : (s.mapLanes core fg lanes f).accBad = s.accBad := rfl
@[simp] theorem State.mapLanes_icache (s : State) (core fg : Nat) (lanes : List Nat) (f : Nat → Thread → Thread) : (s.mapLanes core fg lanes f).icache = s.icache := rfl
@[simp] theorem State.mapLanes_units (s : State) (core fg : Nat) (lanes : List Nat) (f : Nat → Thread → Thread) : (s.mapLanes core fg lanes f).units = s.units := rfl
@[simp] theorem State.mapLanes_mem (s : State) (core fg : Nat) (lanes : List Nat) (f : Nat → Thread → Thread) : (s.mapLanes core fg lanes f).mem = s.mem := rfl
@[simp] theorem State.mapLanes_ctxs (s : State) (core fg : Nat) (lanes : List Nat) (f : Nat → Thread → Thread) : (s.mapLanes core fg lanes f).ctxs = s.ctxs := rfl
@[simp] theorem State.mapLanes_launches (s : State) (core fg : Nat) (lanes : List Nat) (f : Nat → Thread → Thread) : (s.mapLanes core fg lanes f).launches = s.launches := rfl
@[simp] theorem State.mapLanes_queues (s : State) (core fg : Nat) (lanes : List Nat) (f : Nat → Thread → Thread) : (s.mapLanes core fg lanes f).queues = s.queues := rfl
@[simp] theorem State.mapLanes_spawns (s : State) (core fg : Nat) (lanes : List Nat) (f : Nat → Thread → Thread) : (s.mapLanes core fg lanes f).spawns = s.spawns := rfl
@[simp] theorem State.mapLanes_triggers (s : State) (core fg : Nat) (lanes : List Nat) (f : Nat → Thread → Thread) : (s.mapLanes core fg lanes f).triggers = s.triggers := rfl
@[simp] theorem State.mapLanes_preempts (s : State) (core fg : Nat) (lanes : List Nat) (f : Nat → Thread → Thread) : (s.mapLanes core fg lanes f).preempts = s.preempts := rfl
@[simp] theorem State.mapLanes_energyMark (s : State) (core fg : Nat) (lanes : List Nat) (f : Nat → Thread → Thread) : (s.mapLanes core fg lanes f).energyMark = s.energyMark := rfl
@[simp] theorem State.mapLanes_governed (s : State) (core fg : Nat) (lanes : List Nat) (f : Nat → Thread → Thread) : (s.mapLanes core fg lanes f).governed = s.governed := rfl
@[simp] theorem State.mapLanes_refills (s : State) (core fg : Nat) (lanes : List Nat) (f : Nat → Thread → Thread) : (s.mapLanes core fg lanes f).refills = s.refills := rfl
@[simp] theorem State.mapLanes_tap (s : State) (core fg : Nat) (lanes : List Nat) (f : Nat → Thread → Thread) : (s.mapLanes core fg lanes f).tap = s.tap := rfl
@[simp] theorem State.mapLanes_fabric (s : State) (core fg : Nat) (lanes : List Nat) (f : Nat → Thread → Thread) : (s.mapLanes core fg lanes f).fabric = s.fabric := rfl
@[simp] theorem State.mapLanes_service (s : State) (core fg : Nat) (lanes : List Nat) (f : Nat → Thread → Thread) : (s.mapLanes core fg lanes f).service = s.service := rfl
@[simp] theorem State.mapLanes_firmware (s : State) (core fg : Nat) (lanes : List Nat) (f : Nat → Thread → Thread) : (s.mapLanes core fg lanes f).firmware = s.firmware := rfl
@[simp] theorem State.mapLanes_sockets (s : State) (core fg : Nat) (lanes : List Nat) (f : Nat → Thread → Thread) : (s.mapLanes core fg lanes f).sockets = s.sockets := rfl
@[simp] theorem State.mapLanes_dies (s : State) (core fg : Nat) (lanes : List Nat) (f : Nat → Thread → Thread) : (s.mapLanes core fg lanes f).dies = s.dies := rfl

/-! ### `mapThread` -/

@[simp] theorem State.mapThread_clk (s : State) (core fg i : Nat) (f : Thread → Thread) : (s.mapThread core fg i f).clk = s.clk := rfl
@[simp] theorem State.mapThread_memBusy (s : State) (core fg i : Nat) (f : Thread → Thread) : (s.mapThread core fg i f).memBusy = s.memBusy := rfl
@[simp] theorem State.mapThread_faultQs (s : State) (core fg i : Nat) (f : Thread → Thread) : (s.mapThread core fg i f).faultQs = s.faultQs := rfl
@[simp] theorem State.mapThread_narrow (s : State) (core fg i : Nat) (f : Thread → Thread) : (s.mapThread core fg i f).narrow = s.narrow := rfl
@[simp] theorem State.mapThread_severed (s : State) (core fg i : Nat) (f : Thread → Thread) : (s.mapThread core fg i f).severed = s.severed := rfl
@[simp] theorem State.mapThread_spent (s : State) (core fg i : Nat) (f : Thread → Thread) : (s.mapThread core fg i f).spent = s.spent := rfl
@[simp] theorem State.mapThread_skew (s : State) (core fg i : Nat) (f : Thread → Thread) : (s.mapThread core fg i f).skew = s.skew := rfl
@[simp] theorem State.mapThread_seq (s : State) (core fg i : Nat) (f : Thread → Thread) : (s.mapThread core fg i f).seq = s.seq := rfl
@[simp] theorem State.mapThread_nextId (s : State) (core fg i : Nat) (f : Thread → Thread) : (s.mapThread core fg i f).nextId = s.nextId := rfl
@[simp] theorem State.mapThread_agenda (s : State) (core fg i : Nat) (f : Thread → Thread) : (s.mapThread core fg i f).agenda = s.agenda := rfl
@[simp] theorem State.mapThread_cur (s : State) (core fg i : Nat) (f : Thread → Thread) : (s.mapThread core fg i f).cur = s.cur := rfl
@[simp] theorem State.mapThread_lottery (s : State) (core fg i : Nat) (f : Thread → Thread) : (s.mapThread core fg i f).lottery = s.lottery := rfl
@[simp] theorem State.mapThread_acc (s : State) (core fg i : Nat) (f : Thread → Thread) : (s.mapThread core fg i f).acc = s.acc := rfl
@[simp] theorem State.mapThread_accBad (s : State) (core fg i : Nat) (f : Thread → Thread) : (s.mapThread core fg i f).accBad = s.accBad := rfl
@[simp] theorem State.mapThread_icache (s : State) (core fg i : Nat) (f : Thread → Thread) : (s.mapThread core fg i f).icache = s.icache := rfl
@[simp] theorem State.mapThread_units (s : State) (core fg i : Nat) (f : Thread → Thread) : (s.mapThread core fg i f).units = s.units := rfl
@[simp] theorem State.mapThread_mem (s : State) (core fg i : Nat) (f : Thread → Thread) : (s.mapThread core fg i f).mem = s.mem := rfl
@[simp] theorem State.mapThread_ctxs (s : State) (core fg i : Nat) (f : Thread → Thread) : (s.mapThread core fg i f).ctxs = s.ctxs := rfl
@[simp] theorem State.mapThread_launches (s : State) (core fg i : Nat) (f : Thread → Thread) : (s.mapThread core fg i f).launches = s.launches := rfl
@[simp] theorem State.mapThread_queues (s : State) (core fg i : Nat) (f : Thread → Thread) : (s.mapThread core fg i f).queues = s.queues := rfl
@[simp] theorem State.mapThread_spawns (s : State) (core fg i : Nat) (f : Thread → Thread) : (s.mapThread core fg i f).spawns = s.spawns := rfl
@[simp] theorem State.mapThread_triggers (s : State) (core fg i : Nat) (f : Thread → Thread) : (s.mapThread core fg i f).triggers = s.triggers := rfl
@[simp] theorem State.mapThread_preempts (s : State) (core fg i : Nat) (f : Thread → Thread) : (s.mapThread core fg i f).preempts = s.preempts := rfl
@[simp] theorem State.mapThread_energyMark (s : State) (core fg i : Nat) (f : Thread → Thread) : (s.mapThread core fg i f).energyMark = s.energyMark := rfl
@[simp] theorem State.mapThread_governed (s : State) (core fg i : Nat) (f : Thread → Thread) : (s.mapThread core fg i f).governed = s.governed := rfl
@[simp] theorem State.mapThread_refills (s : State) (core fg i : Nat) (f : Thread → Thread) : (s.mapThread core fg i f).refills = s.refills := rfl
@[simp] theorem State.mapThread_tap (s : State) (core fg i : Nat) (f : Thread → Thread) : (s.mapThread core fg i f).tap = s.tap := rfl
@[simp] theorem State.mapThread_fabric (s : State) (core fg i : Nat) (f : Thread → Thread) : (s.mapThread core fg i f).fabric = s.fabric := rfl
@[simp] theorem State.mapThread_service (s : State) (core fg i : Nat) (f : Thread → Thread) : (s.mapThread core fg i f).service = s.service := rfl
@[simp] theorem State.mapThread_firmware (s : State) (core fg i : Nat) (f : Thread → Thread) : (s.mapThread core fg i f).firmware = s.firmware := rfl
@[simp] theorem State.mapThread_sockets (s : State) (core fg i : Nat) (f : Thread → Thread) : (s.mapThread core fg i f).sockets = s.sockets := rfl
@[simp] theorem State.mapThread_dies (s : State) (core fg i : Nat) (f : Thread → Thread) : (s.mapThread core fg i f).dies = s.dies := rfl

/-! ### `mapMem` -/

@[simp] theorem State.mapMem_clk (s : State) (f : Mem → Mem) : (s.mapMem f).clk = s.clk := rfl
@[simp] theorem State.mapMem_memBusy (s : State) (f : Mem → Mem) : (s.mapMem f).memBusy = s.memBusy := rfl
@[simp] theorem State.mapMem_faultQs (s : State) (f : Mem → Mem) : (s.mapMem f).faultQs = s.faultQs := rfl
@[simp] theorem State.mapMem_narrow (s : State) (f : Mem → Mem) : (s.mapMem f).narrow = s.narrow := rfl
@[simp] theorem State.mapMem_severed (s : State) (f : Mem → Mem) : (s.mapMem f).severed = s.severed := rfl
@[simp] theorem State.mapMem_spent (s : State) (f : Mem → Mem) : (s.mapMem f).spent = s.spent := rfl
@[simp] theorem State.mapMem_skew (s : State) (f : Mem → Mem) : (s.mapMem f).skew = s.skew := rfl
@[simp] theorem State.mapMem_seq (s : State) (f : Mem → Mem) : (s.mapMem f).seq = s.seq := rfl
@[simp] theorem State.mapMem_nextId (s : State) (f : Mem → Mem) : (s.mapMem f).nextId = s.nextId := rfl
@[simp] theorem State.mapMem_agenda (s : State) (f : Mem → Mem) : (s.mapMem f).agenda = s.agenda := rfl
@[simp] theorem State.mapMem_cur (s : State) (f : Mem → Mem) : (s.mapMem f).cur = s.cur := rfl
@[simp] theorem State.mapMem_lottery (s : State) (f : Mem → Mem) : (s.mapMem f).lottery = s.lottery := rfl
@[simp] theorem State.mapMem_pads (s : State) (f : Mem → Mem) : (s.mapMem f).pads = s.pads := rfl
@[simp] theorem State.mapMem_acc (s : State) (f : Mem → Mem) : (s.mapMem f).acc = s.acc := rfl
@[simp] theorem State.mapMem_accBad (s : State) (f : Mem → Mem) : (s.mapMem f).accBad = s.accBad := rfl
@[simp] theorem State.mapMem_icache (s : State) (f : Mem → Mem) : (s.mapMem f).icache = s.icache := rfl
@[simp] theorem State.mapMem_units (s : State) (f : Mem → Mem) : (s.mapMem f).units = s.units := rfl
@[simp] theorem State.mapMem_ctxs (s : State) (f : Mem → Mem) : (s.mapMem f).ctxs = s.ctxs := rfl
@[simp] theorem State.mapMem_launches (s : State) (f : Mem → Mem) : (s.mapMem f).launches = s.launches := rfl
@[simp] theorem State.mapMem_queues (s : State) (f : Mem → Mem) : (s.mapMem f).queues = s.queues := rfl
@[simp] theorem State.mapMem_spawns (s : State) (f : Mem → Mem) : (s.mapMem f).spawns = s.spawns := rfl
@[simp] theorem State.mapMem_triggers (s : State) (f : Mem → Mem) : (s.mapMem f).triggers = s.triggers := rfl
@[simp] theorem State.mapMem_preempts (s : State) (f : Mem → Mem) : (s.mapMem f).preempts = s.preempts := rfl
@[simp] theorem State.mapMem_energyMark (s : State) (f : Mem → Mem) : (s.mapMem f).energyMark = s.energyMark := rfl
@[simp] theorem State.mapMem_governed (s : State) (f : Mem → Mem) : (s.mapMem f).governed = s.governed := rfl
@[simp] theorem State.mapMem_refills (s : State) (f : Mem → Mem) : (s.mapMem f).refills = s.refills := rfl
@[simp] theorem State.mapMem_tap (s : State) (f : Mem → Mem) : (s.mapMem f).tap = s.tap := rfl
@[simp] theorem State.mapMem_fabric (s : State) (f : Mem → Mem) : (s.mapMem f).fabric = s.fabric := rfl
@[simp] theorem State.mapMem_service (s : State) (f : Mem → Mem) : (s.mapMem f).service = s.service := rfl
@[simp] theorem State.mapMem_firmware (s : State) (f : Mem → Mem) : (s.mapMem f).firmware = s.firmware := rfl
@[simp] theorem State.mapMem_sockets (s : State) (f : Mem → Mem) : (s.mapMem f).sockets = s.sockets := rfl
@[simp] theorem State.mapMem_dies (s : State) (f : Mem → Mem) : (s.mapMem f).dies = s.dies := rfl

/-! ### `mapCtx` -/

@[simp] theorem State.mapCtx_clk (s : State) (ctx : Nat) (f : Ctx → Ctx) : (s.mapCtx ctx f).clk = s.clk := rfl
@[simp] theorem State.mapCtx_memBusy (s : State) (ctx : Nat) (f : Ctx → Ctx) : (s.mapCtx ctx f).memBusy = s.memBusy := rfl
@[simp] theorem State.mapCtx_faultQs (s : State) (ctx : Nat) (f : Ctx → Ctx) : (s.mapCtx ctx f).faultQs = s.faultQs := rfl
@[simp] theorem State.mapCtx_narrow (s : State) (ctx : Nat) (f : Ctx → Ctx) : (s.mapCtx ctx f).narrow = s.narrow := rfl
@[simp] theorem State.mapCtx_severed (s : State) (ctx : Nat) (f : Ctx → Ctx) : (s.mapCtx ctx f).severed = s.severed := rfl
@[simp] theorem State.mapCtx_spent (s : State) (ctx : Nat) (f : Ctx → Ctx) : (s.mapCtx ctx f).spent = s.spent := rfl
@[simp] theorem State.mapCtx_skew (s : State) (ctx : Nat) (f : Ctx → Ctx) : (s.mapCtx ctx f).skew = s.skew := rfl
@[simp] theorem State.mapCtx_seq (s : State) (ctx : Nat) (f : Ctx → Ctx) : (s.mapCtx ctx f).seq = s.seq := rfl
@[simp] theorem State.mapCtx_nextId (s : State) (ctx : Nat) (f : Ctx → Ctx) : (s.mapCtx ctx f).nextId = s.nextId := rfl
@[simp] theorem State.mapCtx_agenda (s : State) (ctx : Nat) (f : Ctx → Ctx) : (s.mapCtx ctx f).agenda = s.agenda := rfl
@[simp] theorem State.mapCtx_cur (s : State) (ctx : Nat) (f : Ctx → Ctx) : (s.mapCtx ctx f).cur = s.cur := rfl
@[simp] theorem State.mapCtx_lottery (s : State) (ctx : Nat) (f : Ctx → Ctx) : (s.mapCtx ctx f).lottery = s.lottery := rfl
@[simp] theorem State.mapCtx_pads (s : State) (ctx : Nat) (f : Ctx → Ctx) : (s.mapCtx ctx f).pads = s.pads := rfl
@[simp] theorem State.mapCtx_acc (s : State) (ctx : Nat) (f : Ctx → Ctx) : (s.mapCtx ctx f).acc = s.acc := rfl
@[simp] theorem State.mapCtx_accBad (s : State) (ctx : Nat) (f : Ctx → Ctx) : (s.mapCtx ctx f).accBad = s.accBad := rfl
@[simp] theorem State.mapCtx_icache (s : State) (ctx : Nat) (f : Ctx → Ctx) : (s.mapCtx ctx f).icache = s.icache := rfl
@[simp] theorem State.mapCtx_units (s : State) (ctx : Nat) (f : Ctx → Ctx) : (s.mapCtx ctx f).units = s.units := rfl
@[simp] theorem State.mapCtx_mem (s : State) (ctx : Nat) (f : Ctx → Ctx) : (s.mapCtx ctx f).mem = s.mem := rfl
@[simp] theorem State.mapCtx_launches (s : State) (ctx : Nat) (f : Ctx → Ctx) : (s.mapCtx ctx f).launches = s.launches := rfl
@[simp] theorem State.mapCtx_queues (s : State) (ctx : Nat) (f : Ctx → Ctx) : (s.mapCtx ctx f).queues = s.queues := rfl
@[simp] theorem State.mapCtx_spawns (s : State) (ctx : Nat) (f : Ctx → Ctx) : (s.mapCtx ctx f).spawns = s.spawns := rfl
@[simp] theorem State.mapCtx_triggers (s : State) (ctx : Nat) (f : Ctx → Ctx) : (s.mapCtx ctx f).triggers = s.triggers := rfl
@[simp] theorem State.mapCtx_preempts (s : State) (ctx : Nat) (f : Ctx → Ctx) : (s.mapCtx ctx f).preempts = s.preempts := rfl
@[simp] theorem State.mapCtx_energyMark (s : State) (ctx : Nat) (f : Ctx → Ctx) : (s.mapCtx ctx f).energyMark = s.energyMark := rfl
@[simp] theorem State.mapCtx_governed (s : State) (ctx : Nat) (f : Ctx → Ctx) : (s.mapCtx ctx f).governed = s.governed := rfl
@[simp] theorem State.mapCtx_refills (s : State) (ctx : Nat) (f : Ctx → Ctx) : (s.mapCtx ctx f).refills = s.refills := rfl
@[simp] theorem State.mapCtx_tap (s : State) (ctx : Nat) (f : Ctx → Ctx) : (s.mapCtx ctx f).tap = s.tap := rfl
@[simp] theorem State.mapCtx_fabric (s : State) (ctx : Nat) (f : Ctx → Ctx) : (s.mapCtx ctx f).fabric = s.fabric := rfl
@[simp] theorem State.mapCtx_service (s : State) (ctx : Nat) (f : Ctx → Ctx) : (s.mapCtx ctx f).service = s.service := rfl
@[simp] theorem State.mapCtx_firmware (s : State) (ctx : Nat) (f : Ctx → Ctx) : (s.mapCtx ctx f).firmware = s.firmware := rfl
@[simp] theorem State.mapCtx_sockets (s : State) (ctx : Nat) (f : Ctx → Ctx) : (s.mapCtx ctx f).sockets = s.sockets := rfl
@[simp] theorem State.mapCtx_dies (s : State) (ctx : Nat) (f : Ctx → Ctx) : (s.mapCtx ctx f).dies = s.dies := rfl

/-! ### `mapLaunch` -/

@[simp] theorem State.mapLaunch_clk (s : State) (id : Nat) (f : Launch → Launch) : (s.mapLaunch id f).clk = s.clk := rfl
@[simp] theorem State.mapLaunch_memBusy (s : State) (id : Nat) (f : Launch → Launch) : (s.mapLaunch id f).memBusy = s.memBusy := rfl
@[simp] theorem State.mapLaunch_faultQs (s : State) (id : Nat) (f : Launch → Launch) : (s.mapLaunch id f).faultQs = s.faultQs := rfl
@[simp] theorem State.mapLaunch_narrow (s : State) (id : Nat) (f : Launch → Launch) : (s.mapLaunch id f).narrow = s.narrow := rfl
@[simp] theorem State.mapLaunch_severed (s : State) (id : Nat) (f : Launch → Launch) : (s.mapLaunch id f).severed = s.severed := rfl
@[simp] theorem State.mapLaunch_spent (s : State) (id : Nat) (f : Launch → Launch) : (s.mapLaunch id f).spent = s.spent := rfl
@[simp] theorem State.mapLaunch_skew (s : State) (id : Nat) (f : Launch → Launch) : (s.mapLaunch id f).skew = s.skew := rfl
@[simp] theorem State.mapLaunch_seq (s : State) (id : Nat) (f : Launch → Launch) : (s.mapLaunch id f).seq = s.seq := rfl
@[simp] theorem State.mapLaunch_nextId (s : State) (id : Nat) (f : Launch → Launch) : (s.mapLaunch id f).nextId = s.nextId := rfl
@[simp] theorem State.mapLaunch_agenda (s : State) (id : Nat) (f : Launch → Launch) : (s.mapLaunch id f).agenda = s.agenda := rfl
@[simp] theorem State.mapLaunch_cur (s : State) (id : Nat) (f : Launch → Launch) : (s.mapLaunch id f).cur = s.cur := rfl
@[simp] theorem State.mapLaunch_lottery (s : State) (id : Nat) (f : Launch → Launch) : (s.mapLaunch id f).lottery = s.lottery := rfl
@[simp] theorem State.mapLaunch_pads (s : State) (id : Nat) (f : Launch → Launch) : (s.mapLaunch id f).pads = s.pads := rfl
@[simp] theorem State.mapLaunch_acc (s : State) (id : Nat) (f : Launch → Launch) : (s.mapLaunch id f).acc = s.acc := rfl
@[simp] theorem State.mapLaunch_accBad (s : State) (id : Nat) (f : Launch → Launch) : (s.mapLaunch id f).accBad = s.accBad := rfl
@[simp] theorem State.mapLaunch_icache (s : State) (id : Nat) (f : Launch → Launch) : (s.mapLaunch id f).icache = s.icache := rfl
@[simp] theorem State.mapLaunch_units (s : State) (id : Nat) (f : Launch → Launch) : (s.mapLaunch id f).units = s.units := rfl
@[simp] theorem State.mapLaunch_mem (s : State) (id : Nat) (f : Launch → Launch) : (s.mapLaunch id f).mem = s.mem := rfl
@[simp] theorem State.mapLaunch_ctxs (s : State) (id : Nat) (f : Launch → Launch) : (s.mapLaunch id f).ctxs = s.ctxs := rfl
@[simp] theorem State.mapLaunch_queues (s : State) (id : Nat) (f : Launch → Launch) : (s.mapLaunch id f).queues = s.queues := rfl
@[simp] theorem State.mapLaunch_spawns (s : State) (id : Nat) (f : Launch → Launch) : (s.mapLaunch id f).spawns = s.spawns := rfl
@[simp] theorem State.mapLaunch_triggers (s : State) (id : Nat) (f : Launch → Launch) : (s.mapLaunch id f).triggers = s.triggers := rfl
@[simp] theorem State.mapLaunch_preempts (s : State) (id : Nat) (f : Launch → Launch) : (s.mapLaunch id f).preempts = s.preempts := rfl
@[simp] theorem State.mapLaunch_energyMark (s : State) (id : Nat) (f : Launch → Launch) : (s.mapLaunch id f).energyMark = s.energyMark := rfl
@[simp] theorem State.mapLaunch_governed (s : State) (id : Nat) (f : Launch → Launch) : (s.mapLaunch id f).governed = s.governed := rfl
@[simp] theorem State.mapLaunch_refills (s : State) (id : Nat) (f : Launch → Launch) : (s.mapLaunch id f).refills = s.refills := rfl
@[simp] theorem State.mapLaunch_tap (s : State) (id : Nat) (f : Launch → Launch) : (s.mapLaunch id f).tap = s.tap := rfl
@[simp] theorem State.mapLaunch_fabric (s : State) (id : Nat) (f : Launch → Launch) : (s.mapLaunch id f).fabric = s.fabric := rfl
@[simp] theorem State.mapLaunch_service (s : State) (id : Nat) (f : Launch → Launch) : (s.mapLaunch id f).service = s.service := rfl
@[simp] theorem State.mapLaunch_firmware (s : State) (id : Nat) (f : Launch → Launch) : (s.mapLaunch id f).firmware = s.firmware := rfl
@[simp] theorem State.mapLaunch_sockets (s : State) (id : Nat) (f : Launch → Launch) : (s.mapLaunch id f).sockets = s.sockets := rfl
@[simp] theorem State.mapLaunch_dies (s : State) (id : Nat) (f : Launch → Launch) : (s.mapLaunch id f).dies = s.dies := rfl

/-! ### `mapSub` -/

@[simp] theorem State.mapSub_clk (s : State) (q : Nat) (f : SubQueue → SubQueue) : (s.mapSub q f).clk = s.clk := rfl
@[simp] theorem State.mapSub_memBusy (s : State) (q : Nat) (f : SubQueue → SubQueue) : (s.mapSub q f).memBusy = s.memBusy := rfl
@[simp] theorem State.mapSub_faultQs (s : State) (q : Nat) (f : SubQueue → SubQueue) : (s.mapSub q f).faultQs = s.faultQs := rfl
@[simp] theorem State.mapSub_narrow (s : State) (q : Nat) (f : SubQueue → SubQueue) : (s.mapSub q f).narrow = s.narrow := rfl
@[simp] theorem State.mapSub_severed (s : State) (q : Nat) (f : SubQueue → SubQueue) : (s.mapSub q f).severed = s.severed := rfl
@[simp] theorem State.mapSub_spent (s : State) (q : Nat) (f : SubQueue → SubQueue) : (s.mapSub q f).spent = s.spent := rfl
@[simp] theorem State.mapSub_skew (s : State) (q : Nat) (f : SubQueue → SubQueue) : (s.mapSub q f).skew = s.skew := rfl
@[simp] theorem State.mapSub_seq (s : State) (q : Nat) (f : SubQueue → SubQueue) : (s.mapSub q f).seq = s.seq := rfl
@[simp] theorem State.mapSub_nextId (s : State) (q : Nat) (f : SubQueue → SubQueue) : (s.mapSub q f).nextId = s.nextId := rfl
@[simp] theorem State.mapSub_agenda (s : State) (q : Nat) (f : SubQueue → SubQueue) : (s.mapSub q f).agenda = s.agenda := rfl
@[simp] theorem State.mapSub_cur (s : State) (q : Nat) (f : SubQueue → SubQueue) : (s.mapSub q f).cur = s.cur := rfl
@[simp] theorem State.mapSub_lottery (s : State) (q : Nat) (f : SubQueue → SubQueue) : (s.mapSub q f).lottery = s.lottery := rfl
@[simp] theorem State.mapSub_pads (s : State) (q : Nat) (f : SubQueue → SubQueue) : (s.mapSub q f).pads = s.pads := rfl
@[simp] theorem State.mapSub_acc (s : State) (q : Nat) (f : SubQueue → SubQueue) : (s.mapSub q f).acc = s.acc := rfl
@[simp] theorem State.mapSub_accBad (s : State) (q : Nat) (f : SubQueue → SubQueue) : (s.mapSub q f).accBad = s.accBad := rfl
@[simp] theorem State.mapSub_icache (s : State) (q : Nat) (f : SubQueue → SubQueue) : (s.mapSub q f).icache = s.icache := rfl
@[simp] theorem State.mapSub_units (s : State) (q : Nat) (f : SubQueue → SubQueue) : (s.mapSub q f).units = s.units := rfl
@[simp] theorem State.mapSub_mem (s : State) (q : Nat) (f : SubQueue → SubQueue) : (s.mapSub q f).mem = s.mem := rfl
@[simp] theorem State.mapSub_ctxs (s : State) (q : Nat) (f : SubQueue → SubQueue) : (s.mapSub q f).ctxs = s.ctxs := rfl
@[simp] theorem State.mapSub_launches (s : State) (q : Nat) (f : SubQueue → SubQueue) : (s.mapSub q f).launches = s.launches := rfl
@[simp] theorem State.mapSub_spawns (s : State) (q : Nat) (f : SubQueue → SubQueue) : (s.mapSub q f).spawns = s.spawns := rfl
@[simp] theorem State.mapSub_triggers (s : State) (q : Nat) (f : SubQueue → SubQueue) : (s.mapSub q f).triggers = s.triggers := rfl
@[simp] theorem State.mapSub_preempts (s : State) (q : Nat) (f : SubQueue → SubQueue) : (s.mapSub q f).preempts = s.preempts := rfl
@[simp] theorem State.mapSub_energyMark (s : State) (q : Nat) (f : SubQueue → SubQueue) : (s.mapSub q f).energyMark = s.energyMark := rfl
@[simp] theorem State.mapSub_governed (s : State) (q : Nat) (f : SubQueue → SubQueue) : (s.mapSub q f).governed = s.governed := rfl
@[simp] theorem State.mapSub_refills (s : State) (q : Nat) (f : SubQueue → SubQueue) : (s.mapSub q f).refills = s.refills := rfl
@[simp] theorem State.mapSub_tap (s : State) (q : Nat) (f : SubQueue → SubQueue) : (s.mapSub q f).tap = s.tap := rfl
@[simp] theorem State.mapSub_fabric (s : State) (q : Nat) (f : SubQueue → SubQueue) : (s.mapSub q f).fabric = s.fabric := rfl
@[simp] theorem State.mapSub_service (s : State) (q : Nat) (f : SubQueue → SubQueue) : (s.mapSub q f).service = s.service := rfl
@[simp] theorem State.mapSub_firmware (s : State) (q : Nat) (f : SubQueue → SubQueue) : (s.mapSub q f).firmware = s.firmware := rfl
@[simp] theorem State.mapSub_sockets (s : State) (q : Nat) (f : SubQueue → SubQueue) : (s.mapSub q f).sockets = s.sockets := rfl
@[simp] theorem State.mapSub_dies (s : State) (q : Nat) (f : SubQueue → SubQueue) : (s.mapSub q f).dies = s.dies := rfl

/-! ### `mapQueue` -/

@[simp] theorem State.mapQueue_clk (s : State) (sock q : Nat) (f : GQueue → GQueue) : (s.mapQueue sock q f).clk = s.clk := rfl
@[simp] theorem State.mapQueue_memBusy (s : State) (sock q : Nat) (f : GQueue → GQueue) : (s.mapQueue sock q f).memBusy = s.memBusy := rfl
@[simp] theorem State.mapQueue_faultQs (s : State) (sock q : Nat) (f : GQueue → GQueue) : (s.mapQueue sock q f).faultQs = s.faultQs := rfl
@[simp] theorem State.mapQueue_narrow (s : State) (sock q : Nat) (f : GQueue → GQueue) : (s.mapQueue sock q f).narrow = s.narrow := rfl
@[simp] theorem State.mapQueue_severed (s : State) (sock q : Nat) (f : GQueue → GQueue) : (s.mapQueue sock q f).severed = s.severed := rfl
@[simp] theorem State.mapQueue_spent (s : State) (sock q : Nat) (f : GQueue → GQueue) : (s.mapQueue sock q f).spent = s.spent := rfl
@[simp] theorem State.mapQueue_skew (s : State) (sock q : Nat) (f : GQueue → GQueue) : (s.mapQueue sock q f).skew = s.skew := rfl
@[simp] theorem State.mapQueue_seq (s : State) (sock q : Nat) (f : GQueue → GQueue) : (s.mapQueue sock q f).seq = s.seq := rfl
@[simp] theorem State.mapQueue_nextId (s : State) (sock q : Nat) (f : GQueue → GQueue) : (s.mapQueue sock q f).nextId = s.nextId := rfl
@[simp] theorem State.mapQueue_agenda (s : State) (sock q : Nat) (f : GQueue → GQueue) : (s.mapQueue sock q f).agenda = s.agenda := rfl
@[simp] theorem State.mapQueue_cur (s : State) (sock q : Nat) (f : GQueue → GQueue) : (s.mapQueue sock q f).cur = s.cur := rfl
@[simp] theorem State.mapQueue_lottery (s : State) (sock q : Nat) (f : GQueue → GQueue) : (s.mapQueue sock q f).lottery = s.lottery := rfl
@[simp] theorem State.mapQueue_pads (s : State) (sock q : Nat) (f : GQueue → GQueue) : (s.mapQueue sock q f).pads = s.pads := rfl
@[simp] theorem State.mapQueue_acc (s : State) (sock q : Nat) (f : GQueue → GQueue) : (s.mapQueue sock q f).acc = s.acc := rfl
@[simp] theorem State.mapQueue_accBad (s : State) (sock q : Nat) (f : GQueue → GQueue) : (s.mapQueue sock q f).accBad = s.accBad := rfl
@[simp] theorem State.mapQueue_icache (s : State) (sock q : Nat) (f : GQueue → GQueue) : (s.mapQueue sock q f).icache = s.icache := rfl
@[simp] theorem State.mapQueue_units (s : State) (sock q : Nat) (f : GQueue → GQueue) : (s.mapQueue sock q f).units = s.units := rfl
@[simp] theorem State.mapQueue_mem (s : State) (sock q : Nat) (f : GQueue → GQueue) : (s.mapQueue sock q f).mem = s.mem := rfl
@[simp] theorem State.mapQueue_ctxs (s : State) (sock q : Nat) (f : GQueue → GQueue) : (s.mapQueue sock q f).ctxs = s.ctxs := rfl
@[simp] theorem State.mapQueue_launches (s : State) (sock q : Nat) (f : GQueue → GQueue) : (s.mapQueue sock q f).launches = s.launches := rfl
@[simp] theorem State.mapQueue_queues (s : State) (sock q : Nat) (f : GQueue → GQueue) : (s.mapQueue sock q f).queues = s.queues := rfl
@[simp] theorem State.mapQueue_spawns (s : State) (sock q : Nat) (f : GQueue → GQueue) : (s.mapQueue sock q f).spawns = s.spawns := rfl
@[simp] theorem State.mapQueue_triggers (s : State) (sock q : Nat) (f : GQueue → GQueue) : (s.mapQueue sock q f).triggers = s.triggers := rfl
@[simp] theorem State.mapQueue_preempts (s : State) (sock q : Nat) (f : GQueue → GQueue) : (s.mapQueue sock q f).preempts = s.preempts := rfl
@[simp] theorem State.mapQueue_energyMark (s : State) (sock q : Nat) (f : GQueue → GQueue) : (s.mapQueue sock q f).energyMark = s.energyMark := rfl
@[simp] theorem State.mapQueue_governed (s : State) (sock q : Nat) (f : GQueue → GQueue) : (s.mapQueue sock q f).governed = s.governed := rfl
@[simp] theorem State.mapQueue_refills (s : State) (sock q : Nat) (f : GQueue → GQueue) : (s.mapQueue sock q f).refills = s.refills := rfl
@[simp] theorem State.mapQueue_tap (s : State) (sock q : Nat) (f : GQueue → GQueue) : (s.mapQueue sock q f).tap = s.tap := rfl
@[simp] theorem State.mapQueue_fabric (s : State) (sock q : Nat) (f : GQueue → GQueue) : (s.mapQueue sock q f).fabric = s.fabric := rfl
@[simp] theorem State.mapQueue_service (s : State) (sock q : Nat) (f : GQueue → GQueue) : (s.mapQueue sock q f).service = s.service := rfl
@[simp] theorem State.mapQueue_firmware (s : State) (sock q : Nat) (f : GQueue → GQueue) : (s.mapQueue sock q f).firmware = s.firmware := rfl
@[simp] theorem State.mapQueue_dies (s : State) (sock q : Nat) (f : GQueue → GQueue) : (s.mapQueue sock q f).dies = s.dies := rfl

/-! ### `mapTap` -/

@[simp] theorem State.mapTap_clk (s : State) (f : Tap_ → Tap_) : (s.mapTap f).clk = s.clk := rfl
@[simp] theorem State.mapTap_memBusy (s : State) (f : Tap_ → Tap_) : (s.mapTap f).memBusy = s.memBusy := rfl
@[simp] theorem State.mapTap_faultQs (s : State) (f : Tap_ → Tap_) : (s.mapTap f).faultQs = s.faultQs := rfl
@[simp] theorem State.mapTap_narrow (s : State) (f : Tap_ → Tap_) : (s.mapTap f).narrow = s.narrow := rfl
@[simp] theorem State.mapTap_severed (s : State) (f : Tap_ → Tap_) : (s.mapTap f).severed = s.severed := rfl
@[simp] theorem State.mapTap_spent (s : State) (f : Tap_ → Tap_) : (s.mapTap f).spent = s.spent := rfl
@[simp] theorem State.mapTap_skew (s : State) (f : Tap_ → Tap_) : (s.mapTap f).skew = s.skew := rfl
@[simp] theorem State.mapTap_seq (s : State) (f : Tap_ → Tap_) : (s.mapTap f).seq = s.seq := rfl
@[simp] theorem State.mapTap_nextId (s : State) (f : Tap_ → Tap_) : (s.mapTap f).nextId = s.nextId := rfl
@[simp] theorem State.mapTap_agenda (s : State) (f : Tap_ → Tap_) : (s.mapTap f).agenda = s.agenda := rfl
@[simp] theorem State.mapTap_cur (s : State) (f : Tap_ → Tap_) : (s.mapTap f).cur = s.cur := rfl
@[simp] theorem State.mapTap_lottery (s : State) (f : Tap_ → Tap_) : (s.mapTap f).lottery = s.lottery := rfl
@[simp] theorem State.mapTap_pads (s : State) (f : Tap_ → Tap_) : (s.mapTap f).pads = s.pads := rfl
@[simp] theorem State.mapTap_acc (s : State) (f : Tap_ → Tap_) : (s.mapTap f).acc = s.acc := rfl
@[simp] theorem State.mapTap_accBad (s : State) (f : Tap_ → Tap_) : (s.mapTap f).accBad = s.accBad := rfl
@[simp] theorem State.mapTap_icache (s : State) (f : Tap_ → Tap_) : (s.mapTap f).icache = s.icache := rfl
@[simp] theorem State.mapTap_units (s : State) (f : Tap_ → Tap_) : (s.mapTap f).units = s.units := rfl
@[simp] theorem State.mapTap_mem (s : State) (f : Tap_ → Tap_) : (s.mapTap f).mem = s.mem := rfl
@[simp] theorem State.mapTap_ctxs (s : State) (f : Tap_ → Tap_) : (s.mapTap f).ctxs = s.ctxs := rfl
@[simp] theorem State.mapTap_launches (s : State) (f : Tap_ → Tap_) : (s.mapTap f).launches = s.launches := rfl
@[simp] theorem State.mapTap_queues (s : State) (f : Tap_ → Tap_) : (s.mapTap f).queues = s.queues := rfl
@[simp] theorem State.mapTap_spawns (s : State) (f : Tap_ → Tap_) : (s.mapTap f).spawns = s.spawns := rfl
@[simp] theorem State.mapTap_triggers (s : State) (f : Tap_ → Tap_) : (s.mapTap f).triggers = s.triggers := rfl
@[simp] theorem State.mapTap_preempts (s : State) (f : Tap_ → Tap_) : (s.mapTap f).preempts = s.preempts := rfl
@[simp] theorem State.mapTap_energyMark (s : State) (f : Tap_ → Tap_) : (s.mapTap f).energyMark = s.energyMark := rfl
@[simp] theorem State.mapTap_governed (s : State) (f : Tap_ → Tap_) : (s.mapTap f).governed = s.governed := rfl
@[simp] theorem State.mapTap_refills (s : State) (f : Tap_ → Tap_) : (s.mapTap f).refills = s.refills := rfl
@[simp] theorem State.mapTap_fabric (s : State) (f : Tap_ → Tap_) : (s.mapTap f).fabric = s.fabric := rfl
@[simp] theorem State.mapTap_service (s : State) (f : Tap_ → Tap_) : (s.mapTap f).service = s.service := rfl
@[simp] theorem State.mapTap_firmware (s : State) (f : Tap_ → Tap_) : (s.mapTap f).firmware = s.firmware := rfl
@[simp] theorem State.mapTap_sockets (s : State) (f : Tap_ → Tap_) : (s.mapTap f).sockets = s.sockets := rfl
@[simp] theorem State.mapTap_dies (s : State) (f : Tap_ → Tap_) : (s.mapTap f).dies = s.dies := rfl

/-! ### `mapFabric` -/

@[simp] theorem State.mapFabric_clk (s : State) (f : Fabric → Fabric) : (s.mapFabric f).clk = s.clk := rfl
@[simp] theorem State.mapFabric_memBusy (s : State) (f : Fabric → Fabric) : (s.mapFabric f).memBusy = s.memBusy := rfl
@[simp] theorem State.mapFabric_faultQs (s : State) (f : Fabric → Fabric) : (s.mapFabric f).faultQs = s.faultQs := rfl
@[simp] theorem State.mapFabric_narrow (s : State) (f : Fabric → Fabric) : (s.mapFabric f).narrow = s.narrow := rfl
@[simp] theorem State.mapFabric_severed (s : State) (f : Fabric → Fabric) : (s.mapFabric f).severed = s.severed := rfl
@[simp] theorem State.mapFabric_spent (s : State) (f : Fabric → Fabric) : (s.mapFabric f).spent = s.spent := rfl
@[simp] theorem State.mapFabric_skew (s : State) (f : Fabric → Fabric) : (s.mapFabric f).skew = s.skew := rfl
@[simp] theorem State.mapFabric_seq (s : State) (f : Fabric → Fabric) : (s.mapFabric f).seq = s.seq := rfl
@[simp] theorem State.mapFabric_nextId (s : State) (f : Fabric → Fabric) : (s.mapFabric f).nextId = s.nextId := rfl
@[simp] theorem State.mapFabric_agenda (s : State) (f : Fabric → Fabric) : (s.mapFabric f).agenda = s.agenda := rfl
@[simp] theorem State.mapFabric_cur (s : State) (f : Fabric → Fabric) : (s.mapFabric f).cur = s.cur := rfl
@[simp] theorem State.mapFabric_lottery (s : State) (f : Fabric → Fabric) : (s.mapFabric f).lottery = s.lottery := rfl
@[simp] theorem State.mapFabric_pads (s : State) (f : Fabric → Fabric) : (s.mapFabric f).pads = s.pads := rfl
@[simp] theorem State.mapFabric_acc (s : State) (f : Fabric → Fabric) : (s.mapFabric f).acc = s.acc := rfl
@[simp] theorem State.mapFabric_accBad (s : State) (f : Fabric → Fabric) : (s.mapFabric f).accBad = s.accBad := rfl
@[simp] theorem State.mapFabric_icache (s : State) (f : Fabric → Fabric) : (s.mapFabric f).icache = s.icache := rfl
@[simp] theorem State.mapFabric_units (s : State) (f : Fabric → Fabric) : (s.mapFabric f).units = s.units := rfl
@[simp] theorem State.mapFabric_mem (s : State) (f : Fabric → Fabric) : (s.mapFabric f).mem = s.mem := rfl
@[simp] theorem State.mapFabric_ctxs (s : State) (f : Fabric → Fabric) : (s.mapFabric f).ctxs = s.ctxs := rfl
@[simp] theorem State.mapFabric_launches (s : State) (f : Fabric → Fabric) : (s.mapFabric f).launches = s.launches := rfl
@[simp] theorem State.mapFabric_queues (s : State) (f : Fabric → Fabric) : (s.mapFabric f).queues = s.queues := rfl
@[simp] theorem State.mapFabric_spawns (s : State) (f : Fabric → Fabric) : (s.mapFabric f).spawns = s.spawns := rfl
@[simp] theorem State.mapFabric_triggers (s : State) (f : Fabric → Fabric) : (s.mapFabric f).triggers = s.triggers := rfl
@[simp] theorem State.mapFabric_preempts (s : State) (f : Fabric → Fabric) : (s.mapFabric f).preempts = s.preempts := rfl
@[simp] theorem State.mapFabric_energyMark (s : State) (f : Fabric → Fabric) : (s.mapFabric f).energyMark = s.energyMark := rfl
@[simp] theorem State.mapFabric_governed (s : State) (f : Fabric → Fabric) : (s.mapFabric f).governed = s.governed := rfl
@[simp] theorem State.mapFabric_refills (s : State) (f : Fabric → Fabric) : (s.mapFabric f).refills = s.refills := rfl
@[simp] theorem State.mapFabric_tap (s : State) (f : Fabric → Fabric) : (s.mapFabric f).tap = s.tap := rfl
@[simp] theorem State.mapFabric_service (s : State) (f : Fabric → Fabric) : (s.mapFabric f).service = s.service := rfl
@[simp] theorem State.mapFabric_firmware (s : State) (f : Fabric → Fabric) : (s.mapFabric f).firmware = s.firmware := rfl
@[simp] theorem State.mapFabric_sockets (s : State) (f : Fabric → Fabric) : (s.mapFabric f).sockets = s.sockets := rfl
@[simp] theorem State.mapFabric_dies (s : State) (f : Fabric → Fabric) : (s.mapFabric f).dies = s.dies := rfl

/-! ### `mapPreempt` -/

@[simp] theorem State.mapPreempt_clk (s : State) (ctx : Nat) (f : Preempt → Preempt) : (s.mapPreempt ctx f).clk = s.clk := rfl
@[simp] theorem State.mapPreempt_memBusy (s : State) (ctx : Nat) (f : Preempt → Preempt) : (s.mapPreempt ctx f).memBusy = s.memBusy := rfl
@[simp] theorem State.mapPreempt_faultQs (s : State) (ctx : Nat) (f : Preempt → Preempt) : (s.mapPreempt ctx f).faultQs = s.faultQs := rfl
@[simp] theorem State.mapPreempt_narrow (s : State) (ctx : Nat) (f : Preempt → Preempt) : (s.mapPreempt ctx f).narrow = s.narrow := rfl
@[simp] theorem State.mapPreempt_severed (s : State) (ctx : Nat) (f : Preempt → Preempt) : (s.mapPreempt ctx f).severed = s.severed := rfl
@[simp] theorem State.mapPreempt_spent (s : State) (ctx : Nat) (f : Preempt → Preempt) : (s.mapPreempt ctx f).spent = s.spent := rfl
@[simp] theorem State.mapPreempt_skew (s : State) (ctx : Nat) (f : Preempt → Preempt) : (s.mapPreempt ctx f).skew = s.skew := rfl
@[simp] theorem State.mapPreempt_seq (s : State) (ctx : Nat) (f : Preempt → Preempt) : (s.mapPreempt ctx f).seq = s.seq := rfl
@[simp] theorem State.mapPreempt_nextId (s : State) (ctx : Nat) (f : Preempt → Preempt) : (s.mapPreempt ctx f).nextId = s.nextId := rfl
@[simp] theorem State.mapPreempt_agenda (s : State) (ctx : Nat) (f : Preempt → Preempt) : (s.mapPreempt ctx f).agenda = s.agenda := rfl
@[simp] theorem State.mapPreempt_cur (s : State) (ctx : Nat) (f : Preempt → Preempt) : (s.mapPreempt ctx f).cur = s.cur := rfl
@[simp] theorem State.mapPreempt_lottery (s : State) (ctx : Nat) (f : Preempt → Preempt) : (s.mapPreempt ctx f).lottery = s.lottery := rfl
@[simp] theorem State.mapPreempt_pads (s : State) (ctx : Nat) (f : Preempt → Preempt) : (s.mapPreempt ctx f).pads = s.pads := rfl
@[simp] theorem State.mapPreempt_acc (s : State) (ctx : Nat) (f : Preempt → Preempt) : (s.mapPreempt ctx f).acc = s.acc := rfl
@[simp] theorem State.mapPreempt_accBad (s : State) (ctx : Nat) (f : Preempt → Preempt) : (s.mapPreempt ctx f).accBad = s.accBad := rfl
@[simp] theorem State.mapPreempt_icache (s : State) (ctx : Nat) (f : Preempt → Preempt) : (s.mapPreempt ctx f).icache = s.icache := rfl
@[simp] theorem State.mapPreempt_units (s : State) (ctx : Nat) (f : Preempt → Preempt) : (s.mapPreempt ctx f).units = s.units := rfl
@[simp] theorem State.mapPreempt_mem (s : State) (ctx : Nat) (f : Preempt → Preempt) : (s.mapPreempt ctx f).mem = s.mem := rfl
@[simp] theorem State.mapPreempt_ctxs (s : State) (ctx : Nat) (f : Preempt → Preempt) : (s.mapPreempt ctx f).ctxs = s.ctxs := rfl
@[simp] theorem State.mapPreempt_launches (s : State) (ctx : Nat) (f : Preempt → Preempt) : (s.mapPreempt ctx f).launches = s.launches := rfl
@[simp] theorem State.mapPreempt_queues (s : State) (ctx : Nat) (f : Preempt → Preempt) : (s.mapPreempt ctx f).queues = s.queues := rfl
@[simp] theorem State.mapPreempt_spawns (s : State) (ctx : Nat) (f : Preempt → Preempt) : (s.mapPreempt ctx f).spawns = s.spawns := rfl
@[simp] theorem State.mapPreempt_triggers (s : State) (ctx : Nat) (f : Preempt → Preempt) : (s.mapPreempt ctx f).triggers = s.triggers := rfl
@[simp] theorem State.mapPreempt_energyMark (s : State) (ctx : Nat) (f : Preempt → Preempt) : (s.mapPreempt ctx f).energyMark = s.energyMark := rfl
@[simp] theorem State.mapPreempt_governed (s : State) (ctx : Nat) (f : Preempt → Preempt) : (s.mapPreempt ctx f).governed = s.governed := rfl
@[simp] theorem State.mapPreempt_refills (s : State) (ctx : Nat) (f : Preempt → Preempt) : (s.mapPreempt ctx f).refills = s.refills := rfl
@[simp] theorem State.mapPreempt_tap (s : State) (ctx : Nat) (f : Preempt → Preempt) : (s.mapPreempt ctx f).tap = s.tap := rfl
@[simp] theorem State.mapPreempt_fabric (s : State) (ctx : Nat) (f : Preempt → Preempt) : (s.mapPreempt ctx f).fabric = s.fabric := rfl
@[simp] theorem State.mapPreempt_service (s : State) (ctx : Nat) (f : Preempt → Preempt) : (s.mapPreempt ctx f).service = s.service := rfl
@[simp] theorem State.mapPreempt_firmware (s : State) (ctx : Nat) (f : Preempt → Preempt) : (s.mapPreempt ctx f).firmware = s.firmware := rfl
@[simp] theorem State.mapPreempt_sockets (s : State) (ctx : Nat) (f : Preempt → Preempt) : (s.mapPreempt ctx f).sockets = s.sockets := rfl
@[simp] theorem State.mapPreempt_dies (s : State) (ctx : Nat) (f : Preempt → Preempt) : (s.mapPreempt ctx f).dies = s.dies := rfl

/-! ### `mapTdi` -/

@[simp] theorem State.mapTdi_clk (s : State) (n : Nat) (f : Tdi → Tdi) : (s.mapTdi n f).clk = s.clk := rfl
@[simp] theorem State.mapTdi_memBusy (s : State) (n : Nat) (f : Tdi → Tdi) : (s.mapTdi n f).memBusy = s.memBusy := rfl
@[simp] theorem State.mapTdi_faultQs (s : State) (n : Nat) (f : Tdi → Tdi) : (s.mapTdi n f).faultQs = s.faultQs := rfl
@[simp] theorem State.mapTdi_narrow (s : State) (n : Nat) (f : Tdi → Tdi) : (s.mapTdi n f).narrow = s.narrow := rfl
@[simp] theorem State.mapTdi_severed (s : State) (n : Nat) (f : Tdi → Tdi) : (s.mapTdi n f).severed = s.severed := rfl
@[simp] theorem State.mapTdi_spent (s : State) (n : Nat) (f : Tdi → Tdi) : (s.mapTdi n f).spent = s.spent := rfl
@[simp] theorem State.mapTdi_skew (s : State) (n : Nat) (f : Tdi → Tdi) : (s.mapTdi n f).skew = s.skew := rfl
@[simp] theorem State.mapTdi_seq (s : State) (n : Nat) (f : Tdi → Tdi) : (s.mapTdi n f).seq = s.seq := rfl
@[simp] theorem State.mapTdi_nextId (s : State) (n : Nat) (f : Tdi → Tdi) : (s.mapTdi n f).nextId = s.nextId := rfl
@[simp] theorem State.mapTdi_agenda (s : State) (n : Nat) (f : Tdi → Tdi) : (s.mapTdi n f).agenda = s.agenda := rfl
@[simp] theorem State.mapTdi_cur (s : State) (n : Nat) (f : Tdi → Tdi) : (s.mapTdi n f).cur = s.cur := rfl
@[simp] theorem State.mapTdi_lottery (s : State) (n : Nat) (f : Tdi → Tdi) : (s.mapTdi n f).lottery = s.lottery := rfl
@[simp] theorem State.mapTdi_pads (s : State) (n : Nat) (f : Tdi → Tdi) : (s.mapTdi n f).pads = s.pads := rfl
@[simp] theorem State.mapTdi_acc (s : State) (n : Nat) (f : Tdi → Tdi) : (s.mapTdi n f).acc = s.acc := rfl
@[simp] theorem State.mapTdi_accBad (s : State) (n : Nat) (f : Tdi → Tdi) : (s.mapTdi n f).accBad = s.accBad := rfl
@[simp] theorem State.mapTdi_icache (s : State) (n : Nat) (f : Tdi → Tdi) : (s.mapTdi n f).icache = s.icache := rfl
@[simp] theorem State.mapTdi_units (s : State) (n : Nat) (f : Tdi → Tdi) : (s.mapTdi n f).units = s.units := rfl
@[simp] theorem State.mapTdi_mem (s : State) (n : Nat) (f : Tdi → Tdi) : (s.mapTdi n f).mem = s.mem := rfl
@[simp] theorem State.mapTdi_ctxs (s : State) (n : Nat) (f : Tdi → Tdi) : (s.mapTdi n f).ctxs = s.ctxs := rfl
@[simp] theorem State.mapTdi_launches (s : State) (n : Nat) (f : Tdi → Tdi) : (s.mapTdi n f).launches = s.launches := rfl
@[simp] theorem State.mapTdi_queues (s : State) (n : Nat) (f : Tdi → Tdi) : (s.mapTdi n f).queues = s.queues := rfl
@[simp] theorem State.mapTdi_spawns (s : State) (n : Nat) (f : Tdi → Tdi) : (s.mapTdi n f).spawns = s.spawns := rfl
@[simp] theorem State.mapTdi_triggers (s : State) (n : Nat) (f : Tdi → Tdi) : (s.mapTdi n f).triggers = s.triggers := rfl
@[simp] theorem State.mapTdi_preempts (s : State) (n : Nat) (f : Tdi → Tdi) : (s.mapTdi n f).preempts = s.preempts := rfl
@[simp] theorem State.mapTdi_energyMark (s : State) (n : Nat) (f : Tdi → Tdi) : (s.mapTdi n f).energyMark = s.energyMark := rfl
@[simp] theorem State.mapTdi_governed (s : State) (n : Nat) (f : Tdi → Tdi) : (s.mapTdi n f).governed = s.governed := rfl
@[simp] theorem State.mapTdi_refills (s : State) (n : Nat) (f : Tdi → Tdi) : (s.mapTdi n f).refills = s.refills := rfl
@[simp] theorem State.mapTdi_tap (s : State) (n : Nat) (f : Tdi → Tdi) : (s.mapTdi n f).tap = s.tap := rfl
@[simp] theorem State.mapTdi_fabric (s : State) (n : Nat) (f : Tdi → Tdi) : (s.mapTdi n f).fabric = s.fabric := rfl
@[simp] theorem State.mapTdi_firmware (s : State) (n : Nat) (f : Tdi → Tdi) : (s.mapTdi n f).firmware = s.firmware := rfl
@[simp] theorem State.mapTdi_sockets (s : State) (n : Nat) (f : Tdi → Tdi) : (s.mapTdi n f).sockets = s.sockets := rfl
@[simp] theorem State.mapTdi_dies (s : State) (n : Nat) (f : Tdi → Tdi) : (s.mapTdi n f).dies = s.dies := rfl

/-! ### `setReady` -/

@[simp] theorem State.setReady_clk (s : State) (b : Nat) (v : Bool) : (s.setReady b v).clk = s.clk := rfl
@[simp] theorem State.setReady_memBusy (s : State) (b : Nat) (v : Bool) : (s.setReady b v).memBusy = s.memBusy := rfl
@[simp] theorem State.setReady_faultQs (s : State) (b : Nat) (v : Bool) : (s.setReady b v).faultQs = s.faultQs := rfl
@[simp] theorem State.setReady_narrow (s : State) (b : Nat) (v : Bool) : (s.setReady b v).narrow = s.narrow := rfl
@[simp] theorem State.setReady_severed (s : State) (b : Nat) (v : Bool) : (s.setReady b v).severed = s.severed := rfl
@[simp] theorem State.setReady_spent (s : State) (b : Nat) (v : Bool) : (s.setReady b v).spent = s.spent := rfl
@[simp] theorem State.setReady_skew (s : State) (b : Nat) (v : Bool) : (s.setReady b v).skew = s.skew := rfl
@[simp] theorem State.setReady_seq (s : State) (b : Nat) (v : Bool) : (s.setReady b v).seq = s.seq := rfl
@[simp] theorem State.setReady_nextId (s : State) (b : Nat) (v : Bool) : (s.setReady b v).nextId = s.nextId := rfl
@[simp] theorem State.setReady_agenda (s : State) (b : Nat) (v : Bool) : (s.setReady b v).agenda = s.agenda := rfl
@[simp] theorem State.setReady_cur (s : State) (b : Nat) (v : Bool) : (s.setReady b v).cur = s.cur := rfl
@[simp] theorem State.setReady_lottery (s : State) (b : Nat) (v : Bool) : (s.setReady b v).lottery = s.lottery := rfl
@[simp] theorem State.setReady_pads (s : State) (b : Nat) (v : Bool) : (s.setReady b v).pads = s.pads := rfl
@[simp] theorem State.setReady_acc (s : State) (b : Nat) (v : Bool) : (s.setReady b v).acc = s.acc := rfl
@[simp] theorem State.setReady_accBad (s : State) (b : Nat) (v : Bool) : (s.setReady b v).accBad = s.accBad := rfl
@[simp] theorem State.setReady_icache (s : State) (b : Nat) (v : Bool) : (s.setReady b v).icache = s.icache := rfl
@[simp] theorem State.setReady_units (s : State) (b : Nat) (v : Bool) : (s.setReady b v).units = s.units := rfl
@[simp] theorem State.setReady_mem (s : State) (b : Nat) (v : Bool) : (s.setReady b v).mem = s.mem := rfl
@[simp] theorem State.setReady_ctxs (s : State) (b : Nat) (v : Bool) : (s.setReady b v).ctxs = s.ctxs := rfl
@[simp] theorem State.setReady_launches (s : State) (b : Nat) (v : Bool) : (s.setReady b v).launches = s.launches := rfl
@[simp] theorem State.setReady_queues (s : State) (b : Nat) (v : Bool) : (s.setReady b v).queues = s.queues := rfl
@[simp] theorem State.setReady_spawns (s : State) (b : Nat) (v : Bool) : (s.setReady b v).spawns = s.spawns := rfl
@[simp] theorem State.setReady_triggers (s : State) (b : Nat) (v : Bool) : (s.setReady b v).triggers = s.triggers := rfl
@[simp] theorem State.setReady_preempts (s : State) (b : Nat) (v : Bool) : (s.setReady b v).preempts = s.preempts := rfl
@[simp] theorem State.setReady_energyMark (s : State) (b : Nat) (v : Bool) : (s.setReady b v).energyMark = s.energyMark := rfl
@[simp] theorem State.setReady_governed (s : State) (b : Nat) (v : Bool) : (s.setReady b v).governed = s.governed := rfl
@[simp] theorem State.setReady_refills (s : State) (b : Nat) (v : Bool) : (s.setReady b v).refills = s.refills := rfl
@[simp] theorem State.setReady_tap (s : State) (b : Nat) (v : Bool) : (s.setReady b v).tap = s.tap := rfl
@[simp] theorem State.setReady_fabric (s : State) (b : Nat) (v : Bool) : (s.setReady b v).fabric = s.fabric := rfl
@[simp] theorem State.setReady_firmware (s : State) (b : Nat) (v : Bool) : (s.setReady b v).firmware = s.firmware := rfl
@[simp] theorem State.setReady_sockets (s : State) (b : Nat) (v : Bool) : (s.setReady b v).sockets = s.sockets := rfl
@[simp] theorem State.setReady_dies (s : State) (b : Nat) (v : Bool) : (s.setReady b v).dies = s.dies := rfl

/-! ### `bump` -/

@[simp] theorem State.bump_clk (s : State) : (s.bump).clk = s.clk := rfl
@[simp] theorem State.bump_memBusy (s : State) : (s.bump).memBusy = s.memBusy := rfl
@[simp] theorem State.bump_faultQs (s : State) : (s.bump).faultQs = s.faultQs := rfl
@[simp] theorem State.bump_narrow (s : State) : (s.bump).narrow = s.narrow := rfl
@[simp] theorem State.bump_severed (s : State) : (s.bump).severed = s.severed := rfl
@[simp] theorem State.bump_spent (s : State) : (s.bump).spent = s.spent := rfl
@[simp] theorem State.bump_skew (s : State) : (s.bump).skew = s.skew := rfl
@[simp] theorem State.bump_seq (s : State) : (s.bump).seq = s.seq := rfl
@[simp] theorem State.bump_agenda (s : State) : (s.bump).agenda = s.agenda := rfl
@[simp] theorem State.bump_cur (s : State) : (s.bump).cur = s.cur := rfl
@[simp] theorem State.bump_lottery (s : State) : (s.bump).lottery = s.lottery := rfl
@[simp] theorem State.bump_pads (s : State) : (s.bump).pads = s.pads := rfl
@[simp] theorem State.bump_acc (s : State) : (s.bump).acc = s.acc := rfl
@[simp] theorem State.bump_accBad (s : State) : (s.bump).accBad = s.accBad := rfl
@[simp] theorem State.bump_icache (s : State) : (s.bump).icache = s.icache := rfl
@[simp] theorem State.bump_units (s : State) : (s.bump).units = s.units := rfl
@[simp] theorem State.bump_mem (s : State) : (s.bump).mem = s.mem := rfl
@[simp] theorem State.bump_ctxs (s : State) : (s.bump).ctxs = s.ctxs := rfl
@[simp] theorem State.bump_launches (s : State) : (s.bump).launches = s.launches := rfl
@[simp] theorem State.bump_queues (s : State) : (s.bump).queues = s.queues := rfl
@[simp] theorem State.bump_spawns (s : State) : (s.bump).spawns = s.spawns := rfl
@[simp] theorem State.bump_triggers (s : State) : (s.bump).triggers = s.triggers := rfl
@[simp] theorem State.bump_preempts (s : State) : (s.bump).preempts = s.preempts := rfl
@[simp] theorem State.bump_energyMark (s : State) : (s.bump).energyMark = s.energyMark := rfl
@[simp] theorem State.bump_governed (s : State) : (s.bump).governed = s.governed := rfl
@[simp] theorem State.bump_refills (s : State) : (s.bump).refills = s.refills := rfl
@[simp] theorem State.bump_tap (s : State) : (s.bump).tap = s.tap := rfl
@[simp] theorem State.bump_fabric (s : State) : (s.bump).fabric = s.fabric := rfl
@[simp] theorem State.bump_service (s : State) : (s.bump).service = s.service := rfl
@[simp] theorem State.bump_firmware (s : State) : (s.bump).firmware = s.firmware := rfl
@[simp] theorem State.bump_sockets (s : State) : (s.bump).sockets = s.sockets := rfl
@[simp] theorem State.bump_dies (s : State) : (s.bump).dies = s.dies := rfl

/-! ### The field that an update changes -/

@[simp] theorem State.mapPad_pads (s : State) (core : Nat) (f : Pad → Pad) :
    (s.mapPad core f).pads = s.pads.map fun p => if p.core = core then f p else p := rfl
@[simp] theorem State.mapMem_mem (s : State) (f : Mem → Mem) : (s.mapMem f).mem = f s.mem := rfl
@[simp] theorem State.mapTap_tap (s : State) (f : Tap_ → Tap_) : (s.mapTap f).tap = f s.tap := rfl
@[simp] theorem State.mapFabric_fabric (s : State) (f : Fabric → Fabric) : (s.mapFabric f).fabric = f s.fabric := rfl
@[simp] theorem State.mapSub_queues (s : State) (q : Nat) (f : SubQueue → SubQueue) :
    (s.mapSub q f).queues = modifyAt s.queues q f := rfl
@[simp] theorem State.bump_nextId (s : State) : s.bump.nextId = s.nextId + 1 := rfl

end Sys2Proof.Machine
end

