-- ==== Sys2Proof/Laws/Tab.lean ====
section
/-! SUPPORT. Laws of the sparse tables: reading after writing, and the canonical form. -/

namespace Sys2Proof.Machine

variable {α : Type}

/-- Below the first key nothing is listed. -/
theorem tabGet_below (d : α) [DecidableEq α] (t : Tab α) (lo x : Nat) (h : tabWfFrom d lo t = true) (hx : x < lo) :
    tabGet d t x = d := by
  cases t with
  | nil => rfl
  | cons e rest =>
    obtain ⟨k, v⟩ := e
    simp only [tabWfFrom, Bool.and_eq_true, decide_eq_true_eq] at h
    simp only [tabGet]
    rw [if_pos (by omega)]

/-- A lower bound of the keys may be lowered. -/
theorem tabWfFrom_mono (d : α) [DecidableEq α] (t : Tab α) (lo lo' : Nat) (h : tabWfFrom d lo t = true)
    (hl : lo' ≤ lo) : tabWfFrom d lo' t = true := by
  cases t with
  | nil => rfl
  | cons e rest =>
    obtain ⟨k, v⟩ := e
    simp only [tabWfFrom, Bool.and_eq_true, decide_eq_true_eq] at h ⊢
    exact ⟨⟨by omega, h.1.2⟩, h.2⟩

/-- A listed value is read back; every other key reads as before. -/
theorem tabGet_tabPut (d : α) (t : Tab α) (x y : Nat) (w : α) :
    tabGet d (tabPut t x w) y = if y = x then w else tabGet d t y := by
  induction t with
  | nil =>
    simp only [tabPut, tabGet]
    by_cases h : y = x
    · simp [h]
    · by_cases h2 : y < x
      · simp [h, h2]
      · simp [h, h2, Ne.symm h]
  | cons e rest ih =>
    obtain ⟨k, v⟩ := e
    simp only [tabPut]
    split
    · rename_i hx
      simp only [tabGet]
      by_cases h : y = x
      · simp [h]
      · by_cases h2 : y < x
        · have : y < k := by omega
          simp [h, h2, this]
        · simp [h, h2, Ne.symm h]
    · split
      · rename_i hx hk
        subst hk
        simp only [tabGet]
        by_cases h : y = k
        · simp [h]
        · simp [h, Ne.symm h]
      · rename_i hx hk
        simp only [tabGet, ih]
        by_cases h : y < k
        · have : y ≠ x := by omega
          simp [h, this]
        · by_cases h2 : k = y
          · have : y ≠ x := by omega
            simp [h2, this]
          · simp [h, h2]

/-- In a table of canonical form a removed key reads as the default; every other key reads as before. -/
theorem tabGet_tabErase (d : α) [DecidableEq α] (t : Tab α) (lo x y : Nat) (h : tabWfFrom d lo t = true) :
    tabGet d (tabErase t x) y = if y = x then d else tabGet d t y := by
  induction t generalizing lo with
  | nil => simp [tabErase, tabGet]
  | cons e rest ih =>
    obtain ⟨k, v⟩ := e
    simp only [tabWfFrom, Bool.and_eq_true, decide_eq_true_eq] at h
    simp only [tabErase]
    split
    · rename_i hx
      by_cases hy : y = x
      · subst hy; simp [tabGet, hx]
      · simp [hy]
    · split
      · rename_i hx hk
        subst hk
        by_cases hy : y = k
        · subst hy
          simp [tabGet_below d rest (y + 1) y h.2 (by omega)]
        · by_cases hl : y < k
          · simp [hy, tabGet, hl, tabGet_below d rest (k + 1) y h.2 (by omega)]
          · simp [hy, tabGet, hl, Ne.symm hy]
      · rename_i hx hk
        simp only [tabGet, ih (k + 1) h.2]
        by_cases hl : y < k
        · have : y ≠ x := by omega
          simp [hl, this]
        · by_cases h2 : k = y
          · have : y ≠ x := by omega
            simp [h2, this]
          · simp [hl, h2]

/-- A written value is read back; every other key reads as before. -/
theorem tabGet_tabSet (d : α) [DecidableEq α] (t : Tab α) (x y : Nat) (w : α) (h : tabWf d t = true) :
    tabGet d (tabSet d t x w) y = if y = x then w else tabGet d t y := by
  unfold tabSet
  split
  · rename_i hw
    rw [tabGet_tabErase d t 0 x y h, hw]
  · exact tabGet_tabPut d t x y w

/-- Listing a value other than the default keeps the canonical form. -/
theorem tabWfFrom_tabPut (d : α) [DecidableEq α] (t : Tab α) (lo x : Nat) (w : α) (h : tabWfFrom d lo t = true)
    (hx : lo ≤ x) (hw : w ≠ d) : tabWfFrom d lo (tabPut t x w) = true := by
  induction t generalizing lo with
  | nil => simp [tabPut, tabWfFrom, hx, hw]
  | cons e rest ih =>
    obtain ⟨k, v⟩ := e
    simp only [tabWfFrom, Bool.and_eq_true, decide_eq_true_eq] at h
    simp only [tabPut]
    split
    · rename_i hk
      simp only [tabWfFrom, Bool.and_eq_true, decide_eq_true_eq]
      exact ⟨⟨hx, hw⟩, ⟨by omega, h.1.2⟩, h.2⟩
    · split
      · rename_i hk he
        simp only [tabWfFrom, Bool.and_eq_true, decide_eq_true_eq]
        exact ⟨⟨hx, hw⟩, by rw [← he]; exact h.2⟩
      · rename_i hk he
        simp only [tabWfFrom, Bool.and_eq_true, decide_eq_true_eq]
        exact ⟨h.1, ih (k + 1) h.2 (by omega)⟩

/-- Removing a key keeps the canonical form. -/
theorem tabWfFrom_tabErase (d : α) [DecidableEq α] (t : Tab α) (lo x : Nat) (h : tabWfFrom d lo t = true) :
    tabWfFrom d lo (tabErase t x) = true := by
  induction t generalizing lo with
  | nil => rfl
  | cons e rest ih =>
    obtain ⟨k, v⟩ := e
    simp only [tabWfFrom, Bool.and_eq_true, decide_eq_true_eq] at h
    simp only [tabErase]
    split
    · simp only [tabWfFrom, Bool.and_eq_true, decide_eq_true_eq]; exact h
    · split
      · exact tabWfFrom_mono d rest (k + 1) lo h.2 (by omega)
      · simp only [tabWfFrom, Bool.and_eq_true, decide_eq_true_eq]; exact ⟨h.1, ih (k + 1) h.2⟩

/-- A write keeps the canonical form. -/
theorem tabWf_tabSet (d : α) [DecidableEq α] (t : Tab α) (x : Nat) (w : α) (h : tabWf d t = true) :
    tabWf d (tabSet d t x w) = true := by
  unfold tabSet
  split
  · exact tabWfFrom_tabErase d t 0 x h
  · rename_i hw
    exact tabWfFrom_tabPut d t 0 x w h (Nat.zero_le x) hw

/-- Writes of consecutive keys keep the canonical form. -/
theorem tabWf_tabSetMany (d : α) [DecidableEq α] (t : Tab α) (x : Nat) (ws : List α) (h : tabWf d t = true) :
    tabWf d (tabSetMany d t x ws) = true := by
  induction ws generalizing t x with
  | nil => exact h
  | cons w rest ih => exact ih (tabSet d t x w) (x + 1) (tabWf_tabSet d t x w h)

/-- The table with nothing listed has the canonical form. -/
theorem tabWf_nil (d : α) [DecidableEq α] : tabWf d ([] : Tab α) = true := rfl

/-- Consecutive keys written: inside the range the value given, outside it what was there. -/
theorem tabGet_tabSetMany (d : α) [DecidableEq α] (t : Tab α) (x y : Nat) (ws : List α) (h : tabWf d t = true) :
    tabGet d (tabSetMany d t x ws) y =
      if x ≤ y ∧ y < x + ws.length then (ws[y - x]?).getD d else tabGet d t y := by
  induction ws generalizing t x with
  | nil =>
    simp only [tabSetMany, List.length_nil]
    rw [if_neg (by omega)]
  | cons w rest ih =>
    simp only [tabSetMany, List.length_cons]
    rw [ih (tabSet d t x w) (x + 1) (tabWf_tabSet d t x w h), tabGet_tabSet d t x y w h]
    by_cases hx : y = x
    · subst hx
      rw [if_neg (by omega), if_pos rfl, if_pos (by omega)]
      simp
    · by_cases hr : x + 1 ≤ y ∧ y < x + 1 + rest.length
      · rw [if_pos hr, if_pos (by omega)]
        have : y - x = (y - (x + 1)) + 1 := by omega
        rw [this]
        simp
      · rw [if_neg hr, if_neg hx, if_neg (by omega)]

/-- An element of a list of values read as a table. -/
theorem atD_eq_getElem? (d : α) (l : List α) (n : Nat) : atD d l n = (l[n]?).getD d := by
  induction l generalizing n with
  | nil => rfl
  | cons a rest ih =>
    cases n with
    | zero => rfl
    | succ n => simp [atD, ih]

/-- The element at a place of a list changed at a place. -/
theorem getElem?_modifyAt (l : List α) (n m : Nat) (f : α → α) :
    (modifyAt l n f)[m]? = if m = n then (l[m]?).map f else l[m]? := by
  induction l generalizing n m with
  | nil => simp [modifyAt]
  | cons a rest ih =>
    cases n with
    | zero => cases m <;> simp [modifyAt]
    | succ n => cases m with
      | zero => simp [modifyAt]
      | succ m => simp [modifyAt, ih]

/-- A list keeps its length when an element is changed. -/
@[simp] theorem length_modifyAt (l : List α) (n : Nat) (f : α → α) : (modifyAt l n f).length = l.length := by
  induction l generalizing n with
  | nil => rfl
  | cons a rest ih => cases n <;> simp [modifyAt, ih]

/-- The element at a place of a mapped list. -/
theorem getElem?_mapFrom {β : Type} (f : Nat → α → β) (l : List α) (n m : Nat) :
    (mapFrom f n l)[m]? = (l[m]?).map (f (n + m)) := by
  induction l generalizing n m with
  | nil => simp [mapFrom]
  | cons a rest ih =>
    cases m with
    | zero => simp [mapFrom]
    | succ m => simp [mapFrom, ih, Nat.add_comm, Nat.add_left_comm]

/-- A mapped list has the length of the list. -/
@[simp] theorem length_mapFrom {β : Type} (f : Nat → α → β) (l : List α) (n : Nat) :
    (mapFrom f n l).length = l.length := by
  induction l generalizing n with
  | nil => rfl
  | cons a rest ih => simp [mapFrom, ih]

/-- The numbers from lo up. -/
theorem mem_upFrom (lo n x : Nat) : x ∈ upFrom lo n ↔ lo ≤ x ∧ x < lo + n := by
  induction n generalizing lo with
  | zero => simp [upFrom]
  | succ n ih => simp [upFrom, ih]; omega

end Sys2Proof.Machine
end

