-- ==== Sys2Proof/Laws/Threads.lean ====
section
/-! SUPPORT. Pad groups, file groups and threads after the updates that meanings are written with. -/

namespace Sys2Proof.Machine

/-! ### Pad groups -/

/-- The pad group of a core after one core's pad group is changed by a function that keeps its core. -/
theorem State.pad?_mapPad (s : State) (core c : Nat) (f : Pad → Pad) (hf : ∀ p, (f p).core = p.core) :
    (s.mapPad core f).pad? c = if c = core then (s.pad? c).map f else s.pad? c := by
  simp only [State.pad?, State.mapPad]
  induction s.pads with
  | nil => simp
  | cons p rest ih =>
    simp only [List.map_cons, List.find?_cons]
    by_cases hp : p.core = core
    · by_cases hc : c = core
      · subst hc; simp [hp, hf]
      · have h1 : ¬ (p.core = c) := by rw [hp]; exact Ne.symm hc
        simp only [hp, if_true, hf]
        simp only [hc, if_false] at ih ⊢
        simp [Ne.symm hc, ih]
    · simp only [hp, if_false]
      by_cases hpc : p.core = c
      · have : c ≠ core := by rw [← hpc]; exact hp
        simp [hpc, this]
      · simp only [hpc, decide_false, ih]

/-- The file group of a place after one file group is changed. -/
theorem State.fg?_mapFg (s : State) (core fg c n : Nat) (f : FileGroup → FileGroup) :
    (s.mapFg core fg f).fg? c n = if c = core ∧ n = fg then (s.fg? c n).map f else s.fg? c n := by
  simp only [State.fg?, State.mapFg]
  rw [State.pad?_mapPad s core c (fun p => p.mapFg fg f) (fun _ => rfl)]
  by_cases hc : c = core
  · cases hp : s.pad? c with
    | none => simp
    | some p =>
      simp only [hc, if_true, true_and, Option.map_some, Option.bind_some, Pad.mapFg, getElem?_modifyAt]
  · simp [hc]

/-- The pad group of a core after one file group is changed, but for its file groups. -/
theorem State.pad?_mapFg (s : State) (core fg c : Nat) (f : FileGroup → FileGroup) :
    (s.mapFg core fg f).pad? c = if c = core then (s.pad? c).map (fun p => p.mapFg fg f) else s.pad? c :=
  State.pad?_mapPad s core c _ (fun _ => rfl)

/-- The thread of a place after the threads of a set are changed. -/
theorem State.thread?_mapLanes (s : State) (core fg c n l : Nat) (lanes : List Nat) (f : Nat → Thread → Thread) :
    (s.mapLanes core fg lanes f).thread? c n l =
      if c = core ∧ n = fg ∧ l ∈ lanes then (s.thread? c n l).map (f l) else s.thread? c n l := by
  simp only [State.thread?, State.mapLanes]
  rw [State.fg?_mapFg]
  by_cases h : c = core ∧ n = fg
  · rw [if_pos h]
    obtain ⟨rfl, rfl⟩ := h
    cases hg : s.fg? c n with
    | none => simp
    | some g =>
      simp only [Option.map_some, Option.bind_some, FileGroup.mapLanes, getElem?_mapFrom, Nat.zero_add, true_and]
      cases g.threads[l]? with
      | none => simp
      | some t => by_cases hl : l ∈ lanes <;> simp [hl]
  · rw [if_neg h, if_neg (fun hh => h ⟨hh.1, hh.2.1⟩)]

/-- The thread of a place after one thread is changed. -/
theorem State.thread?_mapThread (s : State) (core fg i c n l : Nat) (f : Thread → Thread) :
    (s.mapThread core fg i f).thread? c n l =
      if c = core ∧ n = fg ∧ l = i then (s.thread? c n l).map f else s.thread? c n l := by
  simp only [State.thread?, State.mapThread]
  rw [State.fg?_mapFg]
  by_cases h : c = core ∧ n = fg
  · rw [if_pos h]
    obtain ⟨rfl, rfl⟩ := h
    cases hg : s.fg? c n with
    | none => simp
    | some g =>
      simp only [Option.map_some, Option.bind_some, FileGroup.mapThread, getElem?_modifyAt, true_and]
  · rw [if_neg h, if_neg (fun hh => h ⟨hh.1, hh.2.1⟩)]

/-- The file group of a place after the threads of a set are changed: only its threads. -/
theorem State.fg?_mapLanes (s : State) (core fg c n : Nat) (lanes : List Nat) (f : Nat → Thread → Thread) :
    (s.mapLanes core fg lanes f).fg? c n =
      if c = core ∧ n = fg then (s.fg? c n).map (fun g => g.mapLanes lanes f) else s.fg? c n :=
  State.fg?_mapFg s core fg c n _

/-- A thread of a file group, as the file group lists it. -/
theorem State.thread?_eq (s : State) (core fg l : Nat) (g : FileGroup) (h : s.fg? core fg = some g) :
    s.thread? core fg l = g.threads[l]? := by simp [State.thread?, h]

/-- Reading a thread by index. -/
theorem FileGroup.thread_eq (g : FileGroup) (l : Nat) (t : Thread) (h : g.threads[l]? = some t) : g.thread l = t := by
  simp [FileGroup.thread, atD_eq_getElem?, h]

/-! ### Registers -/

@[simp] theorem Thread.reg_zero (t : Thread) : t.reg 0 = 0 := rfl

/-- A register file in the canonical form. -/
def Thread.regsWf (t : Thread) : Bool := tabWf (0 : Word) t.regs

/-- A written register reads back, g0 excepted; every other register reads as before (R134). -/
theorem Thread.reg_putReg (t : Thread) (d r : Nat) (v : Word) (h : t.regsWf = true) :
    (t.putReg d v).reg r = if r = d ∧ d ≠ 0 ∧ d < 56 then v else t.reg r := by
  unfold Thread.putReg
  split
  · rename_i hd
    rw [if_neg (by omega)]
  · rename_i hd
    have h0 : d ≠ 0 := by omega
    have h56 : d < 56 := by omega
    simp only [Thread.reg]
    by_cases hr : r = 0
    · subst hr
      simp [Ne.symm h0]
    · simp only [hr, if_false]
      rw [tabGet_tabSet 0 t.regs d r v h]
      by_cases he : r = d <;> simp [he, h0, h56]

theorem Thread.regsWf_putReg (t : Thread) (d : Nat) (v : Word) (h : t.regsWf = true) : (t.putReg d v).regsWf = true := by
  unfold Thread.putReg
  split
  · exact h
  · exact tabWf_tabSet 0 t.regs d v h

theorem Thread.reg_setReg (seq : Nat) (t : Thread) (d r : Nat) (v : Word) (h : t.regsWf = true) :
    (Thread.setReg seq t d v).reg r = if r = d ∧ d ≠ 0 ∧ d < 56 then v else t.reg r := by
  have : (Thread.setReg seq t d v).reg r = (t.putReg d v).reg r := rfl
  rw [this, Thread.reg_putReg t d r v h]

end Sys2Proof.Machine
end

