-- ==== Sys2Proof/Laws/Issue.lean ====
section
/-! SUPPORT. What issuing a word does: the frame of every meaning (`runWord`) when the word meets no fault, and the result of
a word that works lane by lane on registers. -/

namespace Sys2Proof.Machine

/-! ### Frames of the updates -/

theorem SameButThreads.refl (s : State) : SameButThreads s s := ⟨rfl, fun _ => rfl⟩

theorem SameButThreads.trans {s t u : State} (h : SameButThreads s t) (k : SameButThreads t u) : SameButThreads s u := by
  refine ⟨?_, fun c => (k.2 c).trans (h.2 c)⟩
  have h1 := h.1
  have k1 := k.1
  cases s; cases t; cases u
  simp_all

theorem List.map_modifyAt_same {α β : Type} (l : List α) (n : Nat) (f : α → α) (h : α → β) (hf : ∀ a, h (f a) = h a) :
    (modifyAt l n f).map h = l.map h := by
  induction l generalizing n with
  | nil => rfl
  | cons a rest ih => cases n <;> simp [modifyAt, hf, ih]

/-- A change of a file group's threads is a change of threads. -/
theorem sameButThreads_mapFg (s : State) (core fg : Nat) (f : FileGroup → FileGroup)
    (hf : ∀ g, { f g with threads := [] } = { g with threads := [] }) : SameButThreads s (s.mapFg core fg f) := by
  refine ⟨rfl, fun c => ?_⟩
  rw [State.pad?_mapFg]
  split
  · cases s.pad? c with
    | none => rfl
    | some p =>
      simp only [Option.map_some, Pad.noThreads, Pad.mapFg]
      rw [List.map_modifyAt_same _ _ _ (fun g : FileGroup => ({ g with threads := [] } : FileGroup)) hf]
  · rfl

theorem sameButThreads_mapLanes (s : State) (core fg : Nat) (lanes : List Nat) (f : Nat → Thread → Thread) :
    SameButThreads s (s.mapLanes core fg lanes f) := sameButThreads_mapFg s core fg _ (fun _ => rfl)

theorem sameButThreads_mapThread (s : State) (core fg i : Nat) (f : Thread → Thread) :
    SameButThreads s (s.mapThread core fg i f) := sameButThreads_mapFg s core fg _ (fun _ => rfl)

theorem SameOtherThreads.refl (s : State) (core fg : Nat) (lanes : List Nat) : SameOtherThreads s s core fg lanes :=
  fun _ _ _ _ => rfl

theorem SameOtherThreads.trans {s t u : State} {core fg : Nat} {lanes : List Nat} (h : SameOtherThreads s t core fg lanes)
    (k : SameOtherThreads t u core fg lanes) : SameOtherThreads s u core fg lanes :=
  fun c f l n => (k c f l n).trans (h c f l n)

theorem sameOtherThreads_mapLanes (s : State) (core fg : Nat) (lanes sub : List Nat) (f : Nat → Thread → Thread)
    (h : ∀ l ∈ sub, l ∈ lanes) : SameOtherThreads s (s.mapLanes core fg sub f) core fg lanes := by
  intro c n l hn
  rw [State.thread?_mapLanes, if_neg]
  exact fun hh => hn ⟨hh.1, hh.2.1, h l hh.2.2⟩

theorem sameOtherThreads_mapThread (s : State) (core fg i : Nat) (lanes : List Nat) (f : Thread → Thread)
    (h : i ∈ lanes) : SameOtherThreads s (s.mapThread core fg i f) core fg lanes := by
  intro c n l hn
  rw [State.thread?_mapThread, if_neg]
  rintro ⟨rfl, rfl, rfl⟩
  exact hn ⟨rfl, rfl, h⟩

/-! ### The frame of a word's meaning -/

/-- A running file group is found again by its place. -/
theorem running_fg {s : State} {r : Run} {p : Pad} {g : FileGroup} (h : s.running = some (r, p, g)) :
    s.pad? r.core = some p ∧ s.fg? r.core r.fg = some g ∧ s.cur = some r := by
  simp only [State.running] at h
  split at h
  · cases h
  · rename_i r' hc
    split at h
    · cases h
    · rename_i p' hp
      split at h
      · cases h
      · rename_i g' hg
        simp only [Option.some.injEq, Prod.mk.injEq] at h
        obtain ⟨rfl, rfl, rfl⟩ := h
        exact ⟨hp, by simp [State.fg?, hp, hg], hc⟩

/-- A group without a lane fault is completed by every lane. -/
theorem planOf_clean (lanes : List Nat) : planOf lanes [] = { normal := lanes, efts := [], trapped := [] } := by
  have h : lanes.filterMap (fun l => bestFault (([] : List LaneFault).filter fun f => decide (f.lane = l))) = [] := by
    simp [bestFault]
  simp [planOf, bestFault, leastD]

/-- The thread that a lane is when the word's own effect starts. -/
def Thread.issued (t : Thread) (r : Run) (i : Instr) (ends : Bool) : Thread :=
  Thread.tick r.inst r.pc ends { t with age := 0, pc := nextPc i r, quiet := 0 }

theorem State.thread?_issued (s : State) (r : Run) (g : FileGroup) (i : Instr) (c n l : Nat) :
    (s.issued r g i).thread? c n l =
      if c = r.core ∧ n = r.fg ∧ l ∈ r.lanes then
        (s.thread? c n l).map fun t => t.issued r i (i.endsWindows && decide (l ∈ r.executing g i))
      else s.thread? c n l := by
  simp only [State.issued, State.advance, State.thread?_mapLanes]
  by_cases h : c = r.core ∧ n = r.fg ∧ l ∈ r.lanes
  · simp only [if_pos h, Option.map_map]
    congr 1
  · simp only [if_neg h]

theorem sameButThreads_issued (s : State) (r : Run) (g : FileGroup) (i : Instr) : SameButThreads s (s.issued r g i) :=
  ((sameButThreads_mapLanes s _ _ _ _).trans (sameButThreads_mapLanes _ _ _ _ _)).trans
    (sameButThreads_mapLanes _ _ _ _ _)

theorem sameOtherThreads_issued (s : State) (r : Run) (g : FileGroup) (i : Instr) :
    SameOtherThreads s (s.issued r g i) r.core r.fg r.lanes := by
  intro c n l h
  rw [State.thread?_issued, if_neg h]

theorem fg?_issued (s : State) (r : Run) (i : Instr) (g : FileGroup) (h : s.fg? r.core r.fg = some g) :
    ∃ g', (s.issued r g i).fg? r.core r.fg = some g' := by
  simp only [State.issued, State.advance, State.fg?_mapLanes, and_self, if_true, h, Option.map_some]
  exact ⟨_, rfl⟩

/-- A word that issues: its meaning is its own effect on the state in which its lanes have issued it, with their tokens set;
a word whose guard is false in every lane has no effect of its own. -/
theorem runWord_issues {s : State} {i : Instr} {r : Run} {p : Pad} {g : FileGroup} (h : Issues s i r p g)
    (eff : State → Run → List Nat → State) :
    s.runWord i eff = if (r.executing g i).isEmpty then s.issued r g i
      else eff ((s.issued r g i).addOuts (r.inWord g) (r.executing g i) i) (r.inWord g) (r.executing g i) := by
  have hw : ({ r with pc := BitVec.ofNat 57 r.pc.toNat, index := 0 } : Run) = r := by
    have := h.place
    cases r; simp_all
  have hex : ∀ x : FileGroup, (r.inWord g).executing x i = r.executing g i := by
    intro x
    simp only [Run.executing, Run.inWord, Run.source, h.alone, Option.getD_some, Option.getD_none]
  obtain ⟨g', hg'⟩ := fg?_issued s r i g (running_fg h.running).2.1
  have hadv : ∃ a, (s.advance r r.lanes (afterWordPc i r.pc.toNat)).fg? r.core r.fg = some a := by
    simp only [State.advance, State.fg?_mapLanes, and_self, if_true, (running_fg h.running).2.1, Option.map_some]
    exact ⟨_, rfl⟩
  obtain ⟨a, ha⟩ := hadv
  have hplan : s.plan r p g [{ instr := i, index := 0, pc := r.pc.toNat }] =
      { normal := r.lanes, efts := [], trapped := [] } := by
    simp only [State.plan, List.flatMap_cons, List.flatMap_nil, List.append_nil]
    rw [hw, h.clean]
    exact planOf_clean r.lanes
  have hconc : ∀ u : State, u.conclude r { normal := r.lanes, efts := [], trapped := [] } = u := fun u => rfl
  have hrun : s.runWord i eff =
      (((s.advance r r.lanes (afterWordPc i r.pc.toNat)).applyWord (r.inWord g) i eff).conclude r
        { normal := r.lanes, efts := [], trapped := [] }) := by
    unfold State.runWord
    rw [h.running]
    simp only [h.alone, h.ready, if_true]
    rw [hplan]
    rfl
  rw [hrun, hconc]
  unfold State.applyWord
  rw [show (s.advance r r.lanes (afterWordPc i r.pc.toNat)).fg? (r.inWord g).core (r.inWord g).fg = some a from ha]
  simp only [hex a]
  rfl

end Sys2Proof.Machine
end

