-- ==== Sys2Proof/Laws/Lanes.lean ====
section
/-! SUPPORT. Words that work lane by lane on registers and predicates (R150), none of their operands a queue port: what they
leave in each thread, and that they change nothing else. -/

namespace Sys2Proof.Machine

/-! ### One thread changed twice -/

theorem List.modifyAt_modifyAt {α : Type} (l : List α) (n : Nat) (f h : α → α) :
    modifyAt (modifyAt l n f) n h = modifyAt l n fun a => h (f a) := by
  induction l generalizing n with
  | nil => rfl
  | cons a rest ih => cases n <;> simp [modifyAt, ih]

theorem State.mapThread_mapThread (s : State) (core fg i : Nat) (f h : Thread → Thread) :
    (s.mapThread core fg i f).mapThread core fg i h = s.mapThread core fg i fun t => h (f t) := by
  simp only [State.mapThread, State.mapFg, State.mapPad, List.map_map]
  congr 1
  apply List.map_congr_left
  intro p _
  simp only [Function.comp]
  by_cases hp : p.core = core
  · simp only [hp, if_true, Pad.mapFg, List.modifyAt_modifyAt, FileGroup.mapThread]
  · simp only [hp, if_false]

/-! ### A lane's writes -/

/-- What a lane's writes do to its thread, when none goes through a port. -/
def LaneWrite.on (seq : Nat) (w : LaneWrite) (t : Thread) : Thread :=
  let t := w.preds.foldl (fun t x => t.setPred x.1 x.2) t
  let t := match w.rng with
    | some g => { t with rng := g }
    | none => t
  w.regs.foldl (fun t x => Thread.setReg seq t x.1 x.2) t

theorem writeRegs_eq (s : State) (core fg lane : Nat) (ws : List (Nat × Word)) (f : Thread → Thread)
    (h : ∀ x ∈ ws, x.1 < 56) :
    (s.mapThread core fg lane f).writeRegs core fg lane ws =
      s.mapThread core fg lane fun t => ws.foldl (fun t x => Thread.setReg s.seq t x.1 x.2) (f t) := by
  induction ws generalizing f with
  | nil => rfl
  | cons x rest ih =>
    obtain ⟨r, v⟩ := x
    have hr : ¬ (56 ≤ r) := by have := h (r, v) (by simp); omega
    simp only [State.writeRegs, hr, if_false]
    rw [State.mapThread_mapThread]
    exact ih _ (fun y hy => h y (by simp [hy]))

theorem applyWrite_eq (s : State) (core fg lane : Nat) (w : LaneWrite) (h : ∀ x ∈ w.regs, x.1 < 56) :
    s.applyWrite core fg lane w = s.mapThread core fg lane (w.on s.seq) := by
  unfold State.applyWrite
  exact writeRegs_eq s core fg lane w.regs _ h

theorem readRegs_eq (s : State) (core fg lane : Nat) (t : Thread) (rs : List Nat) (h : ∀ n ∈ rs, n < 56) :
    s.readRegs core fg lane t rs = (s, rs.map t.reg) := by
  induction rs with
  | nil => rfl
  | cons n rest ih =>
    have hn : ¬ (56 ≤ n) := by have := h n (by simp); omega
    simp only [State.readRegs, hn, if_false]
    rw [ih (fun m hm => h m (by simp [hm]))]
    rfl

/-- What a lane writes changes only registers, predicates, the generator and what is outstanding. -/
theorem LaneWrite.on_same (seq : Nat) (w : LaneWrite) (t : Thread) :
    w.on seq t = { t with regs := (w.on seq t).regs, preds := (w.on seq t).preds, rng := (w.on seq t).rng,
                          outs := (w.on seq t).outs } := by
  have hp : ∀ (ps : List (Nat × Bool)) (t : Thread),
      ps.foldl (fun t x => t.setPred x.1 x.2) t = { t with preds := (ps.foldl (fun t x => t.setPred x.1 x.2) t).preds } := by
    intro ps
    induction ps with
    | nil => intro t; rfl
    | cons x rest ih =>
      intro t
      simp only [List.foldl_cons]
      rw [ih (t.setPred x.1 x.2)]
      unfold Thread.setPred
      split
      · rfl
      · split <;> rfl
  have hr : ∀ (ws : List (Nat × Word)) (t : Thread),
      ws.foldl (fun t x => Thread.setReg seq t x.1 x.2) t =
        { t with regs := (ws.foldl (fun t x => Thread.setReg seq t x.1 x.2) t).regs,
                 outs := (ws.foldl (fun t x => Thread.setReg seq t x.1 x.2) t).outs } := by
    intro ws
    induction ws with
    | nil => intro t; rfl
    | cons x rest ih =>
      intro t
      simp only [List.foldl_cons]
      rw [ih (Thread.setReg seq t x.1 x.2)]
      simp only [Thread.setReg, Thread.putReg]
      split <;> rfl
  unfold LaneWrite.on
  dsimp only
  rw [hr]
  cases w.rng with
  | none => dsimp only; rw [hp]
  | some g => dsimp only; rw [hp]

/-! ### The lanes of a word -/

/-- What a lane of a word writes, from its own old registers. -/
def laneWrites (g : FileGroup) (reads : List Nat) (f : Nat → Thread → List Word → LaneWrite) (l : Nat) : LaneWrite :=
  f l (g.thread l) (reads.map (g.thread l).reg)

/-- Lanes' writes, one lane after another: each has its writes in its thread, and no other thread has changed. -/
theorem applyWrites_work (core fg : Nat) (w : Nat → LaneWrite) (hw : ∀ l, ∀ x ∈ (w l).regs, x.1 < 56) (lanes : List Nat) :
    ∀ s : State, lanes.Nodup →
    SameButThreads s (lanes.foldl (fun u l => u.applyWrite core fg l (w l)) s) ∧
    ∀ c n l, (lanes.foldl (fun u l => u.applyWrite core fg l (w l)) s).thread? c n l =
      if c = core ∧ n = fg ∧ l ∈ lanes then (s.thread? c n l).map ((w l).on s.seq) else s.thread? c n l := by
  induction lanes with
  | nil =>
    intro s _
    exact ⟨SameButThreads.refl s, fun c n l => by simp⟩
  | cons a rest ih =>
    intro s hn
    rw [List.nodup_cons] at hn
    rw [List.foldl_cons, applyWrite_eq _ _ _ _ _ (hw a)]
    obtain ⟨h1, h2⟩ := ih (s.mapThread core fg a ((w a).on s.seq)) hn.2
    refine ⟨(sameButThreads_mapThread _ _ _ _ _).trans h1, fun c n l => ?_⟩
    rw [h2, State.thread?_mapThread]
    by_cases hc : c = core ∧ n = fg
    · obtain ⟨rfl, rfl⟩ := hc
      by_cases hl : l = a
      · subst hl
        simp [hn.1]
      · simp [hl, State.mapThread]
    · have e1 : ¬ (c = core ∧ n = fg ∧ l ∈ rest) := fun hh => hc ⟨hh.1, hh.2.1⟩
      have e2 : ¬ (c = core ∧ n = fg ∧ l = a) := fun hh => hc ⟨hh.1, hh.2.1⟩
      have e3 : ¬ (c = core ∧ n = fg ∧ l ∈ a :: rest) := fun hh => hc ⟨hh.1, hh.2.1⟩
      rw [if_neg e1, if_neg e2, if_neg e3]

/-- Where no operand is a port, lanes read their old registers and nothing changes. -/
theorem laneReads_eq (r : Run) (g : FileGroup) (reads : List Nat) (hr : ∀ n ∈ reads, n < 56) (lanes : List Nat) :
    ∀ u : State, u.laneReads r g reads lanes = (u, lanes.map fun l => (l, reads.map (g.thread l).reg)) := by
  induction lanes with
  | nil => intro u; rfl
  | cons a rest ih =>
    intro u
    simp only [State.laneReads, readRegs_eq _ _ _ _ _ _ hr, ih, List.map_cons]

/-- What a word leaves outstanding for a lane at a handler level (R136, R137). -/
def newOuts (r : Run) (i : Instr) (level : Nat) : List Out :=
  match i.token with
  | none => []
  | some (k, la) =>
    let dsts := (i.writes.filter fun d => decide (d ≠ 0 ∧ d < 56)) ++ i.shapeWrites.map (· + 64)
    [{ inst := r.inst, token := k, dsts := dsts, window := la, ready := false, pc := r.pc, index := r.index,
       length := r.words.length, level := level }]

/-- A thread with more outstanding. -/
def Thread.withOuts (t : Thread) (l : List Out) : Thread := { t with outs := t.outs ++ l }

/-- Setting tokens changes threads' outstanding instructions and nothing else. -/
theorem addOuts_works (s : State) (r : Run) (lanes : List Nat) (i : Instr) :
    SameButThreads s (s.addOuts r lanes i) ∧
    ∀ c n l, (s.addOuts r lanes i).thread? c n l =
      if c = r.core ∧ n = r.fg ∧ l ∈ lanes then (s.thread? c n l).map fun t =>
        t.withOuts (newOuts r i t.level)
      else s.thread? c n l := by
  unfold State.addOuts
  split
  · rename_i hk
    refine ⟨SameButThreads.refl s, fun c n l => ?_⟩
    have : ∀ k, newOuts r i k = [] := fun k => by simp [newOuts, hk]
    simp [this, Thread.withOuts]
  · rename_i k la hk
    refine ⟨sameButThreads_mapLanes _ _ _ _ _, fun c n l => ?_⟩
    rw [State.thread?_mapLanes]
    simp only [newOuts, hk, Thread.withOuts]

/-- The registers, predicates, generator and pc that a lane has when its word's writes are made. -/
structure MovedOn (i : Instr) (r : Run) (old u : Thread) : Prop where
  pc : u.pc = nextPc i r
  regs : u.regs = old.regs
  preds : u.preds = old.preds
  rng : u.rng = old.rng

/-! ### Words with ports -/

/-- In a state, every lane's generator is as in a file group. -/
def SameRng (g : FileGroup) (core fg : Nat) (u : State) : Prop :=
  ∃ x, u.fg? core fg = some x ∧ ∀ l, (x.thread l).rng = (g.thread l).rng

theorem SameRng.source {g : FileGroup} {r : Run} {u : State} (h : SameRng g r.core r.fg u) (l : Nat) :
    u.sourceThread (r.inWord g) l = g.thread l := by
  obtain ⟨x, hx, hr⟩ := h
  unfold State.sourceThread
  rw [show u.fg? (r.inWord g).core (r.inWord g).fg = some x from hx]
  simp only [Run.source, Run.inWord, Option.getD_some, hr]

theorem SameRng.mapPad {g : FileGroup} {core fg : Nat} {u : State} (h : SameRng g core fg u) (p q : Pad)
    (hp : u.pad? core = some p) (hq : q.core = core) (hf : q.fgs = p.fgs) : SameRng g core fg (u.mapPad core fun _ => q) := by
  obtain ⟨x, hx, hr⟩ := h
  refine ⟨x, ?_, hr⟩
  have hfind : (u.mapPad core fun _ => q).pad? core = some q := by
    have : ∀ ps : List Pad, ps.find? (fun p => decide (p.core = core)) = some p →
        (ps.map fun p => if p.core = core then q else p).find? (fun p => decide (p.core = core)) = some q := by
      intro ps
      induction ps with
      | nil => intro h; cases h
      | cons a rest ih =>
        intro h
        by_cases ha : a.core = core
        · simp [ha, hq]
        · simp only [List.find?_cons, ha, decide_false] at h
          simp only [List.map_cons, ha, if_false, List.find?_cons, decide_false]
          exact ih h
    exact this u.pads hp
  rw [State.fg?, hfind, Option.bind_some, hf]
  rw [State.fg?, hp, Option.bind_some] at hx
  exact hx

theorem SameRng.mapThread {g : FileGroup} {core fg : Nat} {u : State} (h : SameRng g core fg u) (l : Nat)
    (f : Thread → Thread) (hf : ∀ t, (f t).rng = t.rng) : SameRng g core fg (u.mapThread core fg l f) := by
  obtain ⟨x, hx, hr⟩ := h
  refine ⟨x.mapThread l f, by rw [State.mapThread, State.fg?_mapFg, if_pos ⟨rfl, rfl⟩, hx]; rfl, fun k => ?_⟩
  rw [← hr k]
  simp only [FileGroup.thread, FileGroup.mapThread, atD_eq_getElem?, getElem?_modifyAt]
  by_cases hk : k = l
  · subst hk
    cases x.threads[k]? with
    | none => simp
    | some t => simp [hf]
  · simp [hk]

theorem Pad.push_same (p : Pad) (g : FileGroup) (n l : Nat) (v : Word) (now : Nat) :
    (p.push g n l v now).core = p.core ∧ (p.push g n l v now).fgs = p.fgs := by
  unfold Pad.push
  dsimp only
  split <;> exact ⟨rfl, rfl⟩

theorem pad?_core {u : State} {core : Nat} {p : Pad} (h : u.pad? core = some p) : p.core = core := by
  simpa using List.find?_some h

theorem SameRng.readRegs {g : FileGroup} {core fg : Nat} (l : Nat) (t : Thread) (rs : List Nat) :
    ∀ {u : State}, SameRng g core fg u → SameRng g core fg (u.readRegs core fg l t rs).1 := by
  induction rs with
  | nil => intro u h; exact h
  | cons n rest ih =>
    intro u h
    unfold State.readRegs
    split
    · split
      · rename_i p x hp hx
        exact ih (h.mapPad p _ hp (by rw [← pad?_core hp]; rfl) rfl)
      · exact h
    · exact ih h

theorem SameRng.writeRegs {g : FileGroup} {core fg : Nat} (l : Nat) (ws : List (Nat × Word)) :
    ∀ {u : State}, SameRng g core fg u → SameRng g core fg (u.writeRegs core fg l ws) := by
  induction ws with
  | nil => intro u h; exact h
  | cons w rest ih =>
    intro u h
    obtain ⟨n, v⟩ := w
    unfold State.writeRegs
    apply ih
    split
    · split
      · rename_i p x hp hx
        exact h.mapPad p _ hp (by rw [(Pad.push_same p x (n - 56) l v (u.coreClk core)).1]; exact pad?_core hp)
          (Pad.push_same p x (n - 56) l v (u.coreClk core)).2
      · exact h
    · exact h.mapThread l _ (fun t => by simp only [Thread.setReg, Thread.putReg]; split <;> rfl)

/-- The same but for the lanes in a list, which have drawn. -/
def SameRngBut (g : FileGroup) (core fg : Nat) (but : List Nat) (u : State) : Prop :=
  ∃ x, u.fg? core fg = some x ∧ ∀ l, l ∉ but → (x.thread l).rng = (g.thread l).rng

theorem SameRngBut.toGroup {g : FileGroup} {core fg : Nat} {but : List Nat} {u : State} (h : SameRngBut g core fg but u) :
    ∃ x, SameRng x core fg u ∧ ∀ l, l ∉ but → (x.thread l).rng = (g.thread l).rng := by
  obtain ⟨x, hx, hr⟩ := h
  exact ⟨x, ⟨x, hx, fun _ => rfl⟩, hr⟩

theorem SameRngBut.source {g : FileGroup} {r : Run} {but : List Nat} {u : State} (h : SameRngBut g r.core r.fg but u)
    (l : Nat) (hl : l ∉ but) : u.sourceThread (r.inWord g) l = g.thread l := by
  obtain ⟨x, hx, hr⟩ := h
  unfold State.sourceThread
  rw [show u.fg? (r.inWord g).core (r.inWord g).fg = some x from hx]
  simp only [Run.source, Run.inWord, Option.getD_some, hr l hl]

/-- A run of a group of its own has no operands read ahead: a lane's are read from its registers and ports. -/
theorem operands_own (u : State) (r : Run) (g : FileGroup) (l : Nat) (reads : List Nat) (ho : r.ops = []) :
    u.operands (r.inWord g) l reads = u.readRegs r.core r.fg l (u.sourceThread (r.inWord g) l) reads := by
  simp [State.operands, Run.inWord, ho]

/-- Lanes read their own registers as they stood before the word, ports or not. -/
theorem collect_turns (r : Run) (g : FileGroup) (reads : List Nat) (ho : r.ops = []) (lanes : List Nat) :
    ∀ u : State, SameRng g r.core r.fg u →
    u.collect (r.inWord g) reads lanes = u.laneReads r g reads lanes ∧
      SameRng g r.core r.fg (u.laneReads r g reads lanes).1 := by
  induction lanes with
  | nil => intro u h; exact ⟨rfl, h⟩
  | cons a rest ih =>
    intro u h
    obtain ⟨h1, h2⟩ := ih _ (SameRng.readRegs a (g.thread a) reads h)
    simp only [State.collect, State.laneReads, operands_own u r g a reads ho, h.source a, h1]
    exact ⟨trivial, h2⟩

/-- The lanes that read are the lanes of the list, in order. -/
theorem laneReads_lanes (r : Run) (g : FileGroup) (reads : List Nat) (lanes : List Nat) :
    ∀ u : State, (u.laneReads r g reads lanes).2.map (·.1) = lanes := by
  induction lanes with
  | nil => intro u; rfl
  | cons a rest ih => intro u; simp [State.laneReads, ih]

/-- A lane's writes leave every other lane's generator. -/
theorem SameRngBut.applyWrite {g : FileGroup} {core fg : Nat} {but : List Nat} {u : State}
    (h : SameRngBut g core fg but u) (a : Nat) (w : LaneWrite) : SameRngBut g core fg (a :: but) (u.applyWrite core fg a w) := by
  obtain ⟨x, hx, hr⟩ := h
  unfold State.applyWrite
  have hm : SameRngBut g core fg (a :: but) (u.mapThread core fg a fun t =>
      match w.rng with
      | some z => { w.preds.foldl (fun t x => t.setPred x.1 x.2) t with rng := z }
      | none => w.preds.foldl (fun t x => t.setPred x.1 x.2) t) := by
    refine ⟨x.mapThread a _, by rw [State.mapThread, State.fg?_mapFg, if_pos ⟨rfl, rfl⟩, hx]; rfl, fun k hk => ?_⟩
    rw [← hr k (fun hh => hk (by simp [hh]))]
    have hka : k ≠ a := fun hh => hk (by simp [hh])
    simp only [FileGroup.thread, FileGroup.mapThread, atD_eq_getElem?, getElem?_modifyAt, hka, if_false]
  obtain ⟨z, hz, hzr⟩ := hm.toGroup
  obtain ⟨y, hy, hyr⟩ := SameRng.writeRegs a w.regs hz
  exact ⟨y, hy, fun k hk => (hyr k).trans (hzr k hk)⟩

/-- Lanes write, one after another, from their own registers as they stood before the word. -/
theorem writes_turns (r : Run) (g : FileGroup) (f : Nat → Thread → List Word → LaneWrite) (vs : List (Nat × List Word)) :
    ∀ (u : State) (but : List Nat), SameRngBut g r.core r.fg but u → (vs.map (·.1)).Nodup → (∀ y ∈ vs, y.1 ∉ but) →
    vs.foldl (fun (u : State) (y : Nat × List Word) =>
        u.applyWrite r.core r.fg y.1 (f y.1 (u.sourceThread (r.inWord g) y.1) y.2)) u =
      vs.foldl (fun u y => u.applyWrite r.core r.fg y.1 (f y.1 (g.thread y.1) y.2)) u := by
  induction vs with
  | nil => intro u but _ _ _; rfl
  | cons a rest ih =>
    intro u but h hn hb
    rw [List.map_cons, List.nodup_cons] at hn
    rw [List.foldl_cons, List.foldl_cons, h.source a.1 (hb a (by simp))]
    apply ih _ (a.1 :: but) (h.applyWrite a.1 _) hn.2
    intro k hk hh
    rcases List.mem_cons.mp hh with e | hh
    · exact hn.1 (e ▸ List.mem_map_of_mem hk)
    · exact hb k (by simp [hk]) hh

/-- A word that works lane by lane: every lane reads before any lane writes (R8), ports or not. -/
theorem eachLane_turns (r : Run) (g : FileGroup) (reads : List Nat) (f : Nat → Thread → List Word → LaneWrite)
    (ho : r.ops = []) (lanes : List Nat) (u : State) (h : SameRng g r.core r.fg u) (hn : lanes.Nodup) :
    u.eachLane (r.inWord g) lanes reads f =
      (u.laneReads r g reads lanes).2.foldl (fun u y => u.applyWrite r.core r.fg y.1 (f y.1 (g.thread y.1) y.2))
        (u.laneReads r g reads lanes).1 := by
  obtain ⟨h1, x, hx, hr⟩ := collect_turns r g reads ho lanes u h
  unfold State.eachLane
  rw [h1]
  exact writes_turns r g f _ _ [] ⟨x, hx, fun l _ => hr l⟩ (by rw [laneReads_lanes]; exact hn) (by simp)

/-- In the state in which a word's own effect starts, no generator has moved. -/
theorem sameRng_atEffect {s : State} {i : Instr} {r : Run} {p : Pad} {g : FileGroup} (h : Issues s i r p g)
    (lanes : List Nat) : SameRng g r.core r.fg ((s.issued r g i).addOuts (r.inWord g) lanes i) := by
  have hg := (running_fg h.running).2.1
  have step : ∀ (u : State) (ls : List Nat) (f : Nat → Thread → Thread), (∀ k t, (f k t).rng = t.rng) →
      SameRng g r.core r.fg u → SameRng g r.core r.fg (u.mapLanes r.core r.fg ls f) := by
    rintro u ls f hf ⟨x, hx, hrng⟩
    refine ⟨x.mapLanes ls f, by rw [State.fg?_mapLanes, if_pos ⟨rfl, rfl⟩, hx]; rfl, fun l => ?_⟩
    rw [← hrng l]
    simp only [FileGroup.thread, FileGroup.mapLanes, atD_eq_getElem?, getElem?_mapFrom, Nat.zero_add]
    cases x.threads[l]? with
    | none => rfl
    | some t => by_cases hl : l ∈ ls <;> simp [hl, hf]
  have h0 : SameRng g r.core r.fg (s.issued r g i) := by
    unfold State.issued State.advance
    exact step _ _ _ (fun _ _ => rfl) (step _ _ _ (fun _ _ => rfl) (step _ _ _ (fun _ _ => rfl) ⟨g, hg, fun _ => rfl⟩))
  unfold State.addOuts
  split
  · exact h0
  · exact step _ _ _ (fun _ _ => rfl) h0

/-- Executing lanes are distinct. -/
theorem Issues.executing_nodup {s : State} {i : Instr} {r : Run} {p : Pad} {g : FileGroup} (h : Issues s i r p g) :
    (r.executing g i).Nodup := by
  unfold Run.executing
  split
  · exact h.once
  · exact h.once.filter _

/-- A word that works lane by lane: its result, where no operand is a port. `post` must follow from the writes made in a
thread that has moved on. -/
theorem eachLane_result {s : State} {i : Instr} {r : Run} {p : Pad} {g : FileGroup} (h : Issues s i r p g)
    (reads : List Nat) (f : Nat → Thread → List Word → LaneWrite) (post : Nat → Thread → Thread → Prop)
    (hr : ∀ n ∈ reads, n < 56) (hw : ∀ l, ∀ x ∈ (laneWrites g reads f l).regs, x.1 < 56)
    (hpost : ∀ l ∈ r.executing g i, ∀ old, g.threads[l]? = some old → ∀ u, MovedOn i r old u →
      post l old ((f l old (reads.map old.reg)).on s.seq u)) :
    LaneResult s (s.runWord i fun s r lanes => s.eachLane r lanes reads f) i r g post := by
  have hg := (running_fg h.running).2.1
  have hsub : ∀ l ∈ r.executing g i, l ∈ r.lanes := by
    intro l hl
    unfold Run.executing at hl
    split at hl
    · exact hl
    · exact (List.mem_filter.mp hl).1
  rw [runWord_issues h]
  split
  · rename_i he
    have he' : r.executing g i = [] := by simpa using he
    refine ⟨sameButThreads_issued s r g i, sameOtherThreads_issued s r g i, fun l hl old ho => ⟨old.issued r i (i.endsWindows && decide (l ∈ r.executing g i)), ?_, rfl, ?_, ?_⟩⟩
    · rw [State.thread?_issued, if_pos ⟨rfl, rfl, hl⟩, State.thread?_eq s _ _ l g hg, ho]; rfl
    · intro _; exact ⟨rfl, rfl, rfl, rfl⟩
    · intro hx; rw [he'] at hx; cases hx
  · obtain ⟨a1, a2⟩ := addOuts_works (s.issued r g i) (r.inWord g) (r.executing g i) i
    rw [eachLane_turns r g reads f h.own (r.executing g i) _ (sameRng_atEffect h _) h.executing_nodup,
      laneReads_eq r g reads hr, List.foldl_map]
    obtain ⟨e1, e2⟩ := applyWrites_work r.core r.fg (laneWrites g reads f) hw (r.executing g i)
      ((s.issued r g i).addOuts (r.inWord g) (r.executing g i) i) h.executing_nodup
    change LaneResult s (List.foldl (fun u l => u.applyWrite r.core r.fg l (laneWrites g reads f l))
      ((s.issued r g i).addOuts (r.inWord g) (r.executing g i) i) (r.executing g i)) i r g post
    refine ⟨((sameButThreads_issued s r g i).trans a1).trans e1, ?_, ?_⟩
    · intro c n l hn
      have hn' : ¬ (c = r.core ∧ n = r.fg ∧ l ∈ r.executing g i) := fun hh => hn ⟨hh.1, hh.2.1, hsub l hh.2.2⟩
      rw [e2, if_neg hn', a2]
      have hn2 : ¬ (c = (r.inWord g).core ∧ n = (r.inWord g).fg ∧ l ∈ r.executing g i) := hn'
      rw [if_neg hn2, State.thread?_issued, if_neg hn]
    · intro l hl old ho
      have hthr : (s.issued r g i).thread? r.core r.fg l = some (old.issued r i (i.endsWindows && decide (l ∈ r.executing g i))) := by
        rw [State.thread?_issued, if_pos ⟨rfl, rfl, hl⟩, State.thread?_eq s _ _ l g hg, ho]; rfl
      by_cases hx : l ∈ r.executing g i
      · have hold : g.thread l = old := FileGroup.thread_eq g l old ho
        have hseq : ((s.issued r g i).addOuts (r.inWord g) (r.executing g i) i).seq = s.seq := by
          have := congrArg State.seq (((sameButThreads_issued s r g i).trans a1).1)
          exact this
        refine ⟨(laneWrites g reads f l).on s.seq ((old.issued r i (i.endsWindows && decide (l ∈ r.executing g i))).withOuts (newOuts r i old.level)), ?_, ?_, ?_, ?_⟩
        · rw [e2, if_pos ⟨rfl, rfl, hx⟩, hseq, a2, if_pos ⟨rfl, rfl, hx⟩, hthr]; rfl
        · unfold SameButResults
          rw [LaneWrite.on_same s.seq (laneWrites g reads f l)]
          rfl
        · intro hh; exact absurd hx hh
        · intro _
          have := hpost l hx old ho ((old.issued r i (i.endsWindows && decide (l ∈ r.executing g i))).withOuts (newOuts r i old.level)) ⟨rfl, rfl, rfl, rfl⟩
          rw [laneWrites, hold]
          exact this
      · refine ⟨old.issued r i (i.endsWindows && decide (l ∈ r.executing g i)), ?_, rfl, fun _ => ⟨rfl, rfl, rfl, rfl⟩, fun hh => absurd hh hx⟩
        have hn' : ¬ (r.core = r.core ∧ r.fg = r.fg ∧ l ∈ r.executing g i) := fun hh => hx hh.2.2
        rw [e2, if_neg hn', a2]
        have hn2 : ¬ (r.core = (r.inWord g).core ∧ r.fg = (r.inWord g).fg ∧ l ∈ r.executing g i) := hn'
        rw [if_neg hn2, hthr]

/-- A word that works lane by lane, in any form. -/
theorem laneWord_ports {s : State} {i : Instr} (w : Thread → (Nat → Word) → LaneWrite)
    (f : Nat → Thread → List Word → LaneWrite) (hx : exec i s = .next (s.laneWord i f))
    (hf : ∀ l t vs, f l t vs = w t (nth vs)) : PortForms s i i.reads w := by
  intro r p g h
  rw [hx, State.laneWord, runWord_issues h]
  congr 1
  unfold State.atEffect
  split
  · rename_i he
    have : r.executing g i = [] := by simpa using he
    rw [this]
    rfl
  · rw [eachLane_turns r g i.reads f h.own _ _ (sameRng_atEffect h _) h.executing_nodup]
    simp only [hf]

/-! ### Words with one result -/

/-- A thread that is tidy stays so, and reads, after a register write. -/
theorem wroteReg_on (seq d : Nat) (v : Word) (i : Instr) (r : Run) (old u : Thread) (h : MovedOn i r old u)
    (ht : old.tidy) (hd : d < 56) : WroteReg d v (nextPc i r) old ((writeOne d v).on seq u) := by
  have hu : u.regsWf = true := by unfold Thread.regsWf; rw [h.regs]; exact ht
  have e : (writeOne d v).on seq u = Thread.setReg seq u d v := rfl
  have hreg : ∀ n, u.reg n = old.reg n := fun n => by simp only [Thread.reg, h.regs]
  rw [e]
  refine ⟨?_, ?_, ?_, ?_, ?_⟩
  · rw [← h.pc]; simp only [Thread.setReg, Thread.putReg]; split <;> rfl
  · rw [← h.preds]; simp only [Thread.setReg, Thread.putReg]; split <;> rfl
  · rw [← h.rng]; simp only [Thread.setReg, Thread.putReg]; split <;> rfl
  · intro h0
    rw [Thread.reg_setReg seq u d d v hu, if_pos ⟨rfl, h0, hd⟩]
  · intro n hn
    rw [Thread.reg_setReg seq u d n v hu, if_neg (fun hh => hn hh.1), hreg]

/-- A word that works lane by lane and writes one register. -/
theorem laneWord_reg {s : State} {i : Instr} (d : Nat) (v : Thread → (Nat → Word) → Word)
    (f : Nat → Thread → List Word → LaneWrite) (hx : exec i s = .next (s.laneWord i f)) (hd : d ∈ i.writes)
    (hf : ∀ l t vs, f l t vs = writeOne d (v t (nth vs))) : RegWord s i i.reads d v := by
  refine ⟨?_, laneWord_ports _ f hx hf⟩
  intro r p g h np tidy
  refine ⟨_, hx, eachLane_result h i.reads f _ np.1 ?_ ?_⟩
  · intro l x hl
    rw [laneWrites, hf] at hl
    simp only [writeOne, List.mem_singleton] at hl
    rw [hl]
    exact np.2 d hd
  · intro l _ old ho u hu
    rw [hf]
    exact wroteReg_on s.seq d _ i r old u hu (tidy old (List.mem_of_getElem? ho)) (np.2 d hd)

/-- A thread that is tidy stays so, and reads, after the write of a pair. -/
theorem wrotePair_on (seq d : Nat) (v : BitVec 64) (i : Instr) (r : Run) (old u : Thread) (h : MovedOn i r old u)
    (ht : old.tidy) (hd : d < 56) (hh : pairHi d < 56) : WrotePair d v (nextPc i r) old ((writePair d v).on seq u) := by
  have hu : u.regsWf = true := by unfold Thread.regsWf; rw [h.regs]; exact ht
  have e : (writePair d v).on seq u =
      Thread.setReg seq (Thread.setReg seq u d (v.setWidth 32)) (pairHi d) ((v >>> 32).setWidth 32) := rfl
  have hu' : (Thread.setReg seq u d (v.setWidth 32)).regsWf = true := Thread.regsWf_putReg u d _ hu
  have hreg : ∀ n, u.reg n = old.reg n := fun n => by simp only [Thread.reg, h.regs]
  have hne : d ≠ 0 → pairHi d ≠ 0 ∧ d ≠ pairHi d := by unfold pairHi; split <;> omega
  rw [e]
  refine ⟨?_, ?_, ?_, ?_, ?_⟩
  · rw [← h.pc]; simp only [Thread.setReg, Thread.putReg]; split <;> split <;> rfl
  · rw [← h.preds]; simp only [Thread.setReg, Thread.putReg]; split <;> split <;> rfl
  · rw [← h.rng]; simp only [Thread.setReg, Thread.putReg]; split <;> split <;> rfl
  · intro h0
    unfold Thread.pair
    rw [Thread.reg_setReg seq _ _ (pairHi d) _ hu', if_pos ⟨rfl, (hne h0).1, hh⟩, Thread.reg_setReg seq _ _ d _ hu',
      if_neg (fun x => (hne h0).2 x.1), Thread.reg_setReg seq u d d _ hu, if_pos ⟨rfl, h0, hd⟩]
    apply BitVec.eq_of_getLsbD_eq
    intro j hj
    simp only [BitVec.getLsbD_append, BitVec.getLsbD_setWidth, BitVec.getLsbD_ushiftRight]
    by_cases h32 : j < 32
    · simp [h32]
    · have : 32 + (j - 32) = j := by omega
      have hj2 : j - 32 < 32 := by omega
      simp [h32, this, hj2]
  · intro n hn hn2
    rw [Thread.reg_setReg seq _ _ n _ hu', if_neg (fun x => hn2 x.1), Thread.reg_setReg seq u d n _ hu,
      if_neg (fun x => hn x.1), hreg]

/-- A word that works lane by lane and writes one pair. -/
theorem laneWord_pair {s : State} {i : Instr} (d : Nat) (v : Thread → (Nat → Word) → BitVec 64)
    (f : Nat → Thread → List Word → LaneWrite) (hx : exec i s = .next (s.laneWord i f)) (hd : d ∈ i.writes)
    (hh : pairHi d ∈ i.writes) (hf : ∀ l t vs, f l t vs = writePair d (v t (nth vs))) : PairWord s i i.reads d v := by
  refine ⟨?_, laneWord_ports _ f hx hf⟩
  intro r p g h np tidy
  refine ⟨_, hx, eachLane_result h i.reads f _ np.1 ?_ ?_⟩
  · intro l x hl
    rw [laneWrites, hf] at hl
    simp only [writePair, List.mem_cons, List.not_mem_nil, or_false] at hl
    rcases hl with rfl | rfl
    · exact np.2 d hd
    · exact np.2 _ hh
  · intro l _ old ho u hu
    rw [hf]
    exact wrotePair_on s.seq d _ i r old u hu (tidy old (List.mem_of_getElem? ho)) (np.2 d hd) (np.2 _ hh)

/-- A written predicate reads back, p7 excepted; every other predicate reads as before (R134). -/
theorem Thread.pred_setPred (t : Thread) (d n : Nat) (v : Bool) :
    (t.setPred d v).pred n = if n = d ∧ d < 7 then v else t.pred n := by
  unfold Thread.setPred
  split
  · rw [if_neg (by omega)]
  · split
    · rename_i h hv
      by_cases hn : n = d
      · subst hn
        rw [if_pos ⟨rfl, by omega⟩]
        unfold Thread.pred
        rw [if_neg (by omega)]
        exact hv
      · rw [if_neg (fun x => hn x.1)]
    · rename_i h hv
      unfold Thread.pred
      by_cases h7 : n = 7
      · simp only [h7, if_true]
        rw [if_neg (by omega)]
      · simp only [h7, if_false]
        have hp : (BitVec.ofNat 7 (2 ^ d)).getLsbD n = decide (n < 7 ∧ n = d) := by
          simp only [BitVec.getLsbD_ofNat, Nat.testBit_two_pow]
          by_cases hn : n < 7
          · by_cases hd : n = d <;> simp [hn, hd, Ne.symm]
          · simp [hn]
        simp only [BitVec.getLsbD_xor, hp]
        by_cases hn : n = d
        · subst hn
          have : n < 7 := by omega
          simp only [this, and_self, decide_true, if_true]
          cases h1 : t.preds.getLsbD n <;> cases v <;> simp_all
        · simp [hn]

theorem wrotePred_on (seq d : Nat) (v : Bool) (i : Instr) (r : Run) (old u : Thread) (h : MovedOn i r old u) :
    WrotePred d v (nextPc i r) old ((writePred d v).on seq u) := by
  have e : (writePred d v).on seq u = u.setPred d v := rfl
  have hpred : ∀ n, u.pred n = old.pred n := fun n => by simp only [Thread.pred, h.preds]
  rw [e]
  refine ⟨?_, ?_, ?_, ?_, ?_⟩
  · rw [← h.pc]; unfold Thread.setPred; split <;> (try split) <;> rfl
  · rw [← h.regs]; unfold Thread.setPred; split <;> (try split) <;> rfl
  · rw [← h.rng]; unfold Thread.setPred; split <;> (try split) <;> rfl
  · intro h7
    rw [Thread.pred_setPred, if_pos ⟨rfl, h7⟩]
  · intro n hn
    rw [Thread.pred_setPred, if_neg (fun x => hn x.1), hpred]

/-- A word that works lane by lane and writes one predicate. -/
theorem laneWord_pred {s : State} {i : Instr} (d : Nat) (v : Thread → (Nat → Word) → Bool)
    (f : Nat → Thread → List Word → LaneWrite) (hx : exec i s = .next (s.laneWord i f))
    (hf : ∀ l t vs, f l t vs = writePred d (v t (nth vs))) : PredWord s i i.reads d v := by
  refine ⟨?_, laneWord_ports _ f hx hf⟩
  intro r p g h np
  refine ⟨_, hx, eachLane_result h i.reads f _ np.1 ?_ ?_⟩
  · intro l x hl
    rw [laneWrites, hf] at hl
    cases hl
  · intro l _ old ho u hu
    rw [hf]
    exact wrotePred_on s.seq d _ i r old u hu

/-- What a lane that rounds writes, by its draws. -/
theorem drawn_eq (rm : BitVec 3) (t : Thread) (n d : Nat) (f : List Nat → Word) :
    drawn rm t n d f = { regs := [(d, f (drawsOf rm n t.rng).1)], preds := [],
                         rng := if rm.toNat = 4 then some (drawsOf rm n t.rng).2 else none } := by
  unfold drawn drawsOf
  split
  · split <;> rfl
  · rfl

/-- A word that works lane by lane and rounds. -/
theorem laneWord_drawn {s : State} {i : Instr} (d n : Nat) (rm : BitVec 3) (v : (Nat → Word) → List Nat → Word)
    (f : Nat → Thread → List Word → LaneWrite) (hx : exec i s = .next (s.laneWord i f)) (hd : d ∈ i.writes)
    (hf : ∀ l t vs, f l t vs = drawn rm t n d (v (nth vs))) : DrawnWord s i i.reads d n rm v := by
  refine ⟨?_, laneWord_ports _ f hx (fun l t vs => (hf l t vs).trans (drawn_eq _ _ _ _ _))⟩
  intro r p g h np tidy
  refine ⟨_, hx, eachLane_result h i.reads f _ np.1 ?_ ?_⟩
  · intro l x hl
    rw [laneWrites, hf, drawn_eq] at hl
    simp only [List.mem_singleton] at hl
    rw [hl]
    exact np.2 d hd
  · intro l _ old ho u hu
    rw [hf, drawn_eq]
    have hw := wroteReg_on s.seq d (v (old.operands i.reads) (drawsOf rm n old.rng).1) i r old u hu
      (tidy old (List.mem_of_getElem? ho)) (np.2 d hd)
    by_cases hrm : rm.toNat = 4
    · rw [if_pos hrm]
      have hw2 := wroteReg_on s.seq d (v (old.operands i.reads) (drawsOf rm n old.rng).1) i r
        { old with rng := (drawsOf rm n old.rng).2 } { u with rng := (drawsOf rm n old.rng).2 }
        ⟨hu.pc, hu.regs, hu.preds, rfl⟩ (tidy old (List.mem_of_getElem? ho)) (np.2 d hd)
      exact ⟨hw2.1, hw2.2.1, hw2.2.2.1, hw2.2.2.2.1, hw2.2.2.2.2⟩
    · rw [if_neg hrm]
      have hsame : (drawsOf rm n old.rng).2 = old.rng := by unfold drawsOf; rw [if_neg hrm]
      exact ⟨hw.1, hw.2.1, hw.2.2.1.trans hsame.symm, hw.2.2.2.1, hw.2.2.2.2⟩

end Sys2Proof.Machine
end

