-- ==== Sys2Proof/Laws/Memory.lean ====
section
/-! SUPPORT. Laws of memory: every operation keeps the canonical form, a byte that becomes current reads back and leaves
every other byte alone, and what a store leaves of the memory's other parts. -/

namespace Sys2Proof.Machine

/-! ### The canonical form -/

theorem Mem.wf_of_bytes (m n : Mem) (h : n.bytes = m.bytes) : n.wf = m.wf := by
  unfold Mem.wf; rw [h]

theorem Mem.wf_empty : Mem.empty.wf = true := rfl

theorem Mem.wf_setCurrent (m : Mem) (wt : Nat) (c : Host.Cell) (h : m.wf = true) : (m.setCurrent wt c).wf = true :=
  tabWf_tabSet 0 m.bytes c.1 c.2 h

theorem Mem.wf_setCurrents (m : Mem) (wt : Nat) (cs : List Host.Cell) (h : m.wf = true) :
    (cs.foldl (fun m c => m.setCurrent wt c) m).wf = true := by
  induction cs generalizing m with
  | nil => exact h
  | cons c rest ih => exact ih (m.setCurrent wt c) (m.wf_setCurrent wt c h)

theorem Mem.wf_noteMet (m : Mem) (line : Nat) : (m.noteMet line).wf = m.wf := rfl

theorem Mem.wf_commit (m : Mem) (line : Nat) (h : m.wf = true) : (m.commit line).wf = true := by
  unfold Mem.commit
  split
  · exact h
  · rw [Mem.wf_noteMet]; exact Mem.wf_setCurrents _ _ _ h

theorem Mem.wf_commitDue (m : Mem) (line now : Nat) (h : m.wf = true) : (m.commitDue line now).wf = true := by
  unfold Mem.commitDue
  split
  · split
    · exact m.wf_commit line h
    · exact h
  · exact h

theorem Mem.wf_putPending (m : Mem) (line wt : Nat) (cs : List Host.Cell) (h : m.wf = true) :
    (m.putPending line wt cs).wf = true := by
  unfold Mem.putPending; split <;> exact h

theorem Mem.wf_unpoison (m : Mem) (key n : Nat) (h : m.wf = true) : (m.unpoison key n).wf = true := h

theorem Mem.wf_store (m : Mem) (now wt key : Nat) (bs : List Byte) (h : m.wf = true) :
    (m.store now wt key bs).wf = true :=
  Mem.wf_commitDue _ _ _ (Mem.wf_putPending _ _ _ _ h)

theorem Mem.wf_dropFree (m : Mem) (line : Nat) : (m.dropFree line).wf = m.wf := rfl

theorem Mem.wf_ownLine (m : Mem) (now floor key : Nat) (bs : List Byte) (h : m.wf = true) :
    (m.ownLine now floor key bs).wf = true :=
  Mem.wf_commitDue _ _ _ (Mem.wf_putPending _ _ _ _ (m.wf_commitDue _ _ h))

theorem Mem.wf_ownLines (now floor n : Nat) (m : Mem) (key : Nat) (bs : List Byte) (h : m.wf = true) :
    (Mem.ownLines now floor n m key bs).wf = true := by
  induction n generalizing m key bs with
  | zero => exact h
  | succ n ih =>
    unfold Mem.ownLines
    split
    · exact h
    · exact ih _ _ _ (m.wf_ownLine now floor key _ h)

theorem Mem.wf_ownStore (m : Mem) (now floor key : Nat) (bs : List Byte) (h : m.wf = true) :
    (m.ownStore now floor key bs).wf = true := Mem.wf_ownLines now floor _ m key bs h

theorem Mem.wf_freshStorage (m : Mem) (key n : Nat) : (m.freshStorage key n).wf = m.wf := rfl

theorem Mem.wf_grant (m : Mem) (line holder expiry : Nat) (h : m.wf = true) : (m.grant line holder expiry).wf = true := h

theorem Mem.wf_makeRoom (m : Mem) (seq : Nat) (l1 : Bool) (unit : Nat) : (m.makeRoom seq l1 unit).wf = m.wf := by
  unfold Mem.makeRoom
  dsimp only
  split <;> rfl

theorem Mem.wf_addCopy (m : Mem) (seq : Nat) (c : Copy) (h : m.wf = true) : (m.addCopy seq c).wf = true :=
  (Mem.wf_makeRoom _ seq c.l1 c.unit).trans h

theorem Mem.wf_addReplica (m : Mem) (seq : Nat) (c : Replica) (h : m.wf = true) : (m.addReplica seq c).wf = true :=
  (Mem.wf_makeRoom _ seq c.l1 c.unit).trans h

theorem Mem.wf_recallLine (m : Mem) (line : Nat) (h : m.wf = true) : (m.recallLine line).wf = true := h

/-- Recalling a line from the guest dies changes no byte. -/
theorem State.wf_recallGuests (s : State) (line : Nat) : (s.recallGuests line).mem.wf = s.mem.wf := rfl

theorem State.wf_ownStoreFrom (s : State) (floor key : Nat) (bs : List Byte) (h : s.mem.wf = true) :
    (s.ownStoreFrom floor key bs).mem.wf = true := by
  refine Mem.wf_ownStore _ _ _ _ _ ?_
  show (List.foldl _ s (linesFrom key bs.length)).mem.wf = true
  generalize linesFrom key bs.length = ls
  induction ls generalizing s with
  | nil => exact h
  | cons l rest ih => exact ih (s.recallGuests l) h

theorem State.wf_ownStore (s : State) (key : Nat) (bs : List Byte) (h : s.mem.wf = true) :
    (s.ownStore key bs).mem.wf = true := s.wf_ownStoreFrom 0 key bs h

theorem State.wf_devLines (ctx n : Nat) (s : State) (va : Nat) (bs : List Byte) (h : s.mem.wf = true) :
    (State.devLines ctx n s va bs).mem.wf = true := by
  induction n generalizing s va bs with
  | zero => exact h
  | succ n ih =>
    unfold State.devLines
    split
    · exact h
    · apply ih
      split
      · exact s.wf_ownStore _ _ h
      · exact h

theorem State.wf_devWrite (s : State) (ctx va : Nat) (bs : List Byte) (h : s.mem.wf = true) :
    (s.devWrite ctx va bs).mem.wf = true := s.wf_devLines ctx _ va bs h

theorem State.reset_mem_wf : State.reset.mem.wf = true := rfl

/-! ### Reading after writing -/

/-- A byte that becomes current reads back; every other byte reads as before. -/
theorem Mem.byte_setCurrent (m : Mem) (wt : Nat) (c : Host.Cell) (key : Nat) (h : m.wf = true) :
    (m.setCurrent wt c).byte key = if key = c.1 then c.2 else m.byte key :=
  tabGet_tabSet 0 m.bytes c.1 key c.2 h

/-- The pending version of a line does not change a byte that is current. -/
theorem Mem.byte_putPending (m : Mem) (line wt : Nat) (cs : List Host.Cell) (key : Nat) :
    (m.putPending line wt cs).byte key = m.byte key := by
  unfold Mem.putPending; split <;> rfl

/-- A pending version of one line is not one of another. -/
theorem Mem.pending_putPending_ne (m : Mem) (line other wt : Nat) (cs : List Host.Cell) (h : other ≠ line) :
    (m.putPending line wt cs).pending other = m.pending other := by
  unfold Mem.putPending
  split
  · simp only [Mem.pending]
    induction m.pend with
    | nil => rfl
    | cons p rest ih =>
      simp only [List.map_cons, List.find?_cons]
      by_cases hp : p.line = line
      · have : p.line ≠ other := by rw [hp]; exact Ne.symm h
        simp only [hp, if_true] at *
        simp [Ne.symm h, ih]
      · simp only [hp, if_false]
        split <;> simp_all
  · simp only [Mem.pending, List.find?_cons]
    simp [Ne.symm h]

end Sys2Proof.Machine
end

