-- ==== Sys2Proof/Tests/Slice0.lean ====
section
/-! SUPPORT. Tests of the model against the manual: decoding of words written out from its encoding tables, its worked
examples, the checks of WellFormed, and for every obligation states that meet its hypotheses. -/

namespace Sys2Proof.Tests

open Sys2Proof Sys2Proof.Machine

/-! ### States to test on -/

/-- A resident thread in system mode or not, with some registers, whose next chain group is the word of i. -/
def laid (i : Instr) (regs : Tab Word := []) (sys : Bool := false) : State :=
  let s := State.reset.layWord (encode i)
  { s with pads := s.pads.map fun p => { p with fgs := p.fgs.map fun g => { g with threads := g.threads.map fun t =>
      { t with regs := regs, system := sys } } } }

/-- What every word's statement asks of a state, as a computation. -/
def meets (s : State) (i : Instr) : Bool :=
  match s.running with
  | some (r, p, g) =>
    decide (r.snap = none ∧ r.ops = [] ∧ r.index = 0) && s.wordReady r p g i && (s.laneFaults r p g 0 i).isEmpty &&
      decide r.lanes.Nodup && i.reads.all (fun n => decide (n < 56)) && i.writes.all (fun n => decide (n < 56)) &&
      g.threads.all (fun t => tabWf (0 : Word) t.regs) && !(r.executing g i).isEmpty &&
      (r.executing g i).all fun k => (g.threads[k]?).isSome
  | none => false

/-- A word's hypotheses are met: it issues for at least one lane that executes it, without queue ports. -/
def Meets (s : State) (i : Instr) : Prop :=
  ∃ r p g l rest, Issues s i r p g ∧ NoPorts i ∧ (∀ t ∈ g.threads, t.tidy) ∧ r.executing g i = l :: rest ∧
    ∀ k ∈ l :: rest, (g.threads[k]?).isSome

theorem meets_sound {s : State} {i : Instr} (h : meets s i = true) : Meets s i := by
  unfold meets at h
  split at h
  · rename_i r p g hr
    simp only [Bool.and_eq_true, decide_eq_true_eq, List.isEmpty_iff, List.all_eq_true, Bool.not_eq_true'] at h
    obtain ⟨⟨⟨⟨⟨⟨⟨⟨⟨h0, h1, h1'⟩, h2⟩, h3⟩, h4⟩, h5⟩, h6⟩, h7⟩, h8⟩, h9⟩ := h
    cases he : r.executing g i with
    | nil => simp [he] at h8
    | cons l rest =>
      exact ⟨r, p, g, l, rest, ⟨hr, h0, h1, h1', h2, h3, h4⟩, ⟨fun n hn => by simpa using h5 n hn, fun n hn => by simpa using h6 n hn⟩,
        h7, he, fun k hk => h9 k (he ▸ hk)⟩
  · cases h

theorem meets_all (f : Instr → State) (l : List Instr) (h : (l.all fun i => meets (f i) i) = true) :
    ∀ i ∈ l, Meets (f i) i := fun i hi => meets_sound (List.all_eq_true.1 h i hi)

/-! ### Decoding: words written out from the encoding tables (R132, R139, R140), one for each row of the opcode table -/

/-- Each word decodes to the instruction beside it, whose own word it is. -/
def reads (l : List (Nat × Instr)) : Bool := l.all fun x => decide (decodeWord x.1 = .instr x.2 ∧ encode x.2 = x.1)

theorem decode_moves_and_integer_1 : reads [
    (0x80A00000, .nop true 5),
    (0x80A00001, .yield true 5),
    (0x82A68E80, .add true 5 13 7 16),
    (0x82A10A11, .sub true 5 2 5 2),
    (0x82A10AAA, .mul true 5 2 5 21),
    (0x82A51A6B, .mulhs true 5 10 13 13),
    (0x82A29A84, .mulhu true 5 5 13 16),
    (0x82A40455, .mins true 5 8 2 10),
    (0x82A68A86, .maxs true 5 13 5 16),
    (0x82AAD0AF, .adds true 5 21 40 21),
    (0x84AF2140, .and true 5 30 16 40),
    (0x84A3A041, .or true 5 7 16 8),
    (0x84A3AA12, .xor true 5 7 21 2),
    (0x84A11A13, .andn true 5 2 13 2)] = true := by decide

theorem decode_moves_and_integer_2 : reads [
    (0x84A39B44, .orn true 5 7 13 40),
    (0x84A41545, .xnor true 5 8 10 40),
    (0x84A50A56, .minu true 5 10 5 10),
    (0x84A420AF, .maxu true 5 8 16 21),
    (0x86A69A40, .shl true 5 13 13 8),
    (0x86AAA041, .shr true 5 21 16 8),
    (0x86A50A42, .sar true 5 10 5 8),
    (0x86A40E2B, .rol true 5 8 7 5),
    (0x86A3BC14, .ror true 5 7 30 2),
    (0x86A6AA05, .clz true 5 13 21),
    (0x86A82006, .popc true 5 16 16),
    (0x86A13C07, .brev true 5 2 30)] = true := by decide

theorem decode_compares_and_immediates_1 : reads [
    (0x88A08468, .cmpEq true 5 1 2 13),
    (0x88A1D0F1, .cmpNe true 5 3 40 30),
    (0x88A29482, .cmpLt true 5 5 10 16),
    (0x88A21A2B, .cmpLe true 5 4 13 5),
    (0x88A21044, .cmpLtu true 5 4 8 8),
    (0x88A19415, .cmpLeu true 5 3 10 2),
    (0x88A32AAE, .cmpTst true 5 6 21 21),
    (0x8AA821ED, .addi true 5 16 16 493),
    (0x8CA694CC, .andi true 5 13 10 204),
    (0x8EA11BCB, .ori true 5 2 13 459),
    (0x90A39AEC, .xori true 5 7 13 236),
    (0x92A2AA06, .shli true 5 5 21 6),
    (0x94B40E1F, .shri true 5 40 7 31),
    (0x96AF0E0C, .sari true 5 30 7 12)] = true := by decide

theorem decode_compares_and_immediates_2 : reads [
    (0x98A38BB6, .movi true 5 7 2998),
    (0x9AA69939, .movsh true 5 13 6457)] = true := by decide

theorem decode_pairs_and_addresses : reads [
    (0x9CB634F0, .add64 true 5 44 26 30),
    (0x9CAF0DB1, .sub64 true 5 30 6 54),
    (0x9CA64142, .addsx64 true 5 12 32 40),
    (0x9CAD54F3, .addzx64 true 5 26 42 30),
    (0x9CAA582C, .shl64 true 5 20 44 5),
    (0x1CB83CAD, .shr64 false 5 48 30 21),
    (0x1CBB6C16, .sar64 false 5 54 54 2),
    (0x9CAA3917, .mul64 true 5 20 28 34),
    (0x9EAD1D87, .adr true 5 26 7559)] = true := by decide

theorem decode_float_1 : reads [
    (0xA0A1106A, .fadd true 5 2 8 13 2),
    (0xA2AA8E13, .fsub true 5 21 7 2 3),
    (0x24A69453, .fmul false 5 13 10 10 3),
    (0xA6AA9081, .ffma true 5 21 8 16 1),
    (0x28A83CAC, .ffms false 5 16 30 21 4),
    (0x2AA42A39, .fnma false 5 8 21 7 1),
    (0xACA42A54, .haddBf16x2 true 5 8 21 10 4),
    (0x2EA69414, .hmulBf16x2 false 5 13 10 2 4),
    (0xB0AF2A12, .hfmaBf16x2 true 5 30 21 2 2),
    (0xBAAF10F1, .fdot2Bf16 true 5 30 8 30 1),
    (0xB2AABC28, .fmin true 5 21 30 5),
    (0xB2B40541, .fmax true 5 40 2 40),
    (0xB2A68402, .fabs true 5 13 2),
    (0xB2A3BC03, .fneg true 5 7 30)] = true := by decide

theorem decode_float_2 : reads [
    (0xB2A3946C, .fcopysign true 5 7 10 13),
    (0xB2A41405, .fclass true 5 8 10),
    (0xB4A10A68, .fcmpEq true 5 2 5 13),
    (0xB4A21481, .fcmpNe true 5 4 10 16),
    (0xB4A2503A, .fcmpLt true 5 4 40 7),
    (0xB4A21AAB, .fcmpLe true 5 4 13 21),
    (0xB4A13CAC, .fcmpUn true 5 2 30 21),
    (0xB6B40B41, .fscale true 5 40 5 40 1),
    (0x38A28404, .frint false 5 5 2 4)] = true := by decide

theorem decode_conversions_and_exchange_1 : reads [
    (0x3CA3AA02, .cvtBf16F32 false 5 7 21 2),
    (0xBCA6A009, .cvtF32Bf16 true 5 13 16 1),
    (0x3CA15014, .cvtE4m3F32 false 5 2 40 4),
    (0xBCA2BC1A, .cvtF32E4m3 true 5 5 30 2),
    (0x3CA41021, .cvtI32F32 false 5 8 8 1),
    (0x3CA69A2A, .cvtN32F32 false 5 13 13 2),
    (0xBCA69032, .cvtF32I32 true 5 13 8 2),
    (0xBCA10A39, .cvtF32N32 true 5 2 5 1),
    (0xBCB42A41, .cvtI16I32 true 5 40 21 1),
    (0xBCAF1A4B, .cvtI8I32 true 5 30 13 3),
    (0xBCA42A51, .cvtN16N32 true 5 8 21 1),
    (0xBCAA9A5A, .cvtN8N32 true 5 21 13 2),
    (0xBEA41410, .shfl true 5 8 10 2),
    (0xBEA51011, .shflUp true 5 10 8 2)] = true := by decide

theorem decode_conversions_and_exchange_2 : reads [
    (0xBEA52012, .shflDown true 5 10 16 2),
    (0xBEA12A3B, .shflXor true 5 2 21 7),
    (0xBEA28404, .ballot true 5 5 2)] = true := by decide

theorem decode_transcendental_and_divide : reads [
    (0xC0A38400, .rcp true 5 7 2),
    (0xC0AF0E01, .rsqrt true 5 30 7),
    (0xC0A80A02, .sqrt true 5 16 5),
    (0xC0AF3C03, .exp2 true 5 30 30),
    (0xC0A55004, .log2 true 5 10 40),
    (0xC0AAA005, .sinpi true 5 21 16),
    (0xC0A81006, .cospi true 5 16 8),
    (0xC0A29A07, .tanh true 5 5 13),
    (0xC2A2AA10, .div true 5 5 21 2),
    (0xC2A10AA9, .divu true 5 2 5 21),
    (0xC2A85082, .rem true 5 16 40 16),
    (0xC2A28AF3, .remu true 5 5 5 30),
    (0xC2A3BD44, .fdiv true 5 7 30 40),
    (0xC2A28005, .rand true 5 5)] = true := by decide

theorem decode_loads_and_stores : reads [
    (0xC8A520E2, .ld true 5 10 16 1 6 2),
    (0xCAA6B0BB, .lds true 5 13 24 1 3 11),
    (0xCCA2E4E6, .st true 5 5 50 1 6 6),
    (0xCEA41559, .ldRo true 5 8 10 2 5 9),
    (0x50A3E162, .ldAcq false 5 7 48 5 2 1),
    (0xD0A441FD, .stRel true 5 8 32 7 3 6)] = true := by decide

theorem decode_atomics : reads [
    (0xD2A11818, .atomAdd true 5 2 12 1 4),
    (0x52A54036, .atomMins false 5 10 32 1 3),
    (0xD2AF105C, .atomMaxs true 5 30 8 1 6),
    (0xD2AF607C, .atomMinu true 5 30 48 1 6),
    (0x52A8309E, .atomMaxu false 5 16 24 1 7),
    (0x52A45CB4, .atomAnd false 5 8 46 1 2),
    (0x52AF68D8, .atomOr false 5 30 52 1 4),
    (0xD2A12CFC, .atomXor true 5 2 22 1 6),
    (0xD2A85914, .atomXchg true 5 16 44 1 2),
    (0xD2A43936, .atomCas true 5 8 28 1 3),
    (0xD2AF514E, .atomFadd true 5 30 40 7),
    (0xD2AA8564, .atomFmin true 5 21 2 2),
    (0x52AF198A, .atomFmax false 5 30 12 5)] = true := by decide

theorem decode_fences_and_seals : reads [
    (0x56A0083B, .pf false 5 4 3 11),
    (0xD4A00032, .fence true 5 6 2),
    (0xD4A115A9, .seal true 5 2 22 5 1),
    (0x54A2A7B5, .unseal false 5 5 30 6 5),
    (0xD4AF332F, .watch true 5 30 12 5 7)] = true := by decide

theorem decode_copy_engine : reads [
    (0xDCE03823, .shld true 7 28 2 3),
    (0xDCC010FB, .shst true 6 8 7 11),
    (0xDC341111, .shmod true 1 40 8 1 1),
    (0xDE28086A, .tcp true 1 16 4 6 10),
    (0xDE2554C2, .tcpRed true 1 10 42 4 2),
    (0xDE62E948, .tcpPost true 3 5 52 4 8),
    (0xE00AA05C, .ctrAdd true 21 16 5 12),
    (0xE00F50D3, .ctrLd true 30 40 5 3),
    (0xE001117E, .ringArm true 2 8 7 14)] = true := by decide

theorem decode_matrix_and_guest : reads [
    (0xE2FB801D, .mma true 7 1 1 7 1 13),
    (0xE35A8AAA, .mmaGather true 10 1 1 5 5 2 10),
    (0xE4008055, .accClr true 1 5 5),
    (0x6460E4BD, .accLd false 3 1 50 3 13),
    (0xE5E0C962, .accSt true 15 1 36 6 2),
    (0xE6282A7C, .gsend true 1 16 21 7 12),
    (0xE8269242, .qfence true 1 13 9 4 2)] = true := by decide

theorem decode_control : reads [
    (0x6CA334E8, .br 5 210152),
    (0x6EB633D7, .call 5 1455063),
    (0x70A06000, .jmp 5 48),
    (0x70A00401, .jmpl 5 2),
    (0x70A00002, .reconv 5),
    (0xF0B43403, .kget true 5 40 26),
    (0xF0AE8404, .kset true 5 29 2)] = true := by decide

theorem decode_predicates : reads [
    (0xF2A10E08, .pand true 5 2 7 1),
    (0xF2A28A21, .por true 5 5 5 4),
    (0xF2A08E2A, .pxor true 5 1 7 5),
    (0xF2A30233, .pandn true 5 6 1 6),
    (0xF2A28E04, .pnez true 5 5 7),
    (0xF2B40005, .pget true 5 40),
    (0xF2A01006, .pset true 5 8)] = true := by decide

theorem decode_control_memory : reads [
    (0x74AF00A4, .cmLd false 5 30 2 1 2),
    (0xF4A811F7, .cmSt true 5 16 7 1 1 3 1),
    (0xF4B427BD, .cmAdd true 5 40 30 1 1 6 1),
    (0x74A830BB, .cmClaim false 5 16 2 1 5 1),
    (0xF4B442AA, .cmWait true 5 40 10 1 5),
    (0xF4B1502C, .cmLsn true 5 34 6),
    (0xF4A866B7, .cmLaunch true 5 16 26 1 3 1),
    (0xF4B576BD, .cmPte true 5 42 26 1 6 1),
    (0xF6A0320C, .fenceSeq true 5 50 6),
    (0x76A04606, .fenceSeqAll false 5 6 3)] = true := by decide

theorem decode_tasks_and_waits : reads [
    (0x7AA0302C, .wait 5 44),
    (0x7AA041C0, .sleepUntil 5 7),
    (0x7AA003C0, .barArrive 5 1 14),
    (0x7AA01480, .barWait 5 2 4),
    (0x7AA424C0, .barArriveExp 5 8 2 6),
    (0x78A10200, .exit 5 2 1),
    (0x78E01000, .safept),
    (0xF8A12800, .vinfo true 5 2 2)] = true := by decide

theorem decode_system : reads [
    (0x7CA000C9, .trap 5 201),
    (0x7CA0033C, .sysc 5 316),
    (0x7CA00548, .brk 5 328),
    (0x7CA00600, .rti 5),
    (0xFCAA882B, .rdsr true 5 21 43),
    (0xFCA80AC9, .wrsr true 5 16 201),
    (0xFCB40C00, .rdclk true 5 40),
    (0xFCA70F6D, .dcwb true 5 14 365),
    (0xFCBB1161, .icinv true 5 54 353),
    (0x7CA01200, .fbar 5),
    (0xFCA21407, .qbind true 5 4 7),
    (0xFCA01607, .qunbind true 5 7),
    (0xFCAA984A, .gbind true 5 21 1 10),
    (0xFCA01A5E, .gunbind true 5 1 30)] = true := by decide

/-- Reserved majors, a bit that a form leaves 0, and a conversion code without a row: no instruction (R131, R139, R143). -/
theorem decode_refuses : ([0x58000000, 0x7EE00000, 0x00E00008, 0x3CE00060, 0x78E10000, 0x08E00007].all fun w =>
    match decodeWord w with
    | .instr _ => false
    | .reject _ => true) = true := by decide

/-! ### WellFormed refuses: one ill-formed term for each check of words (R151, R176, R200, R231), and one for each check
of a machine step's arguments -/

theorem illFormed_words : (([
    .add false 15 1 2 3, .add64 false 7 3 2 4, .add64 false 7 2 3 4, .add64 false 7 2 4 5, .addsx64 false 7 3 2 1,
    .adr false 7 5 0, .fadd false 7 1 2 3 5, .cvtI16I32 false 7 1 2 5, .ld false 7 1 3 0 0 0, .ld false 7 3 2 3 0 0,
    .ld false 7 56 2 0 0 0, .lds false 7 2 4 3 0 0, .lds false 7 3 4 2 0 0, .st false 7 3 2 3 0 0, .ldRo false 7 56 2 0 0 0,
    .ldAcq false 7 3 2 0 3 0, .pf false 7 3 0 0, .atomAdd false 7 3 2 1 0, .atomAdd false 7 56 2 0 0,
    .atomCas false 7 0 2 0 0, .atomCas false 7 55 2 0 0, .atomCas false 7 54 2 1 0, .atomFadd false 7 1 3 0,
    .seal false 7 1 2 4 0, .unseal false 7 1 3 5 0, .watch false 7 56 2 0 0] : List Instr).all fun i => !i.wellFormed) = true := by
  decide

theorem illFormed_words_2 : (([
    .barArrive 7 5 0, .barWait 7 0 8, .barArriveExp 15 1 0 0, .cmLd false 7 3 1 1 0, .cmLd false 7 56 1 0 0,
    .cmSt false 7 1 2 0 0 0 1, .cmSt false 7 3 2 1 0 0 0, .cmAdd false 7 56 2 0 0 0 0, .cmClaim false 7 3 2 0 0 0,
    .cmWait false 7 56 1 0 0, .cmLsn false 7 3 0, .cmLaunch false 7 54 2 0 0 0, .cmLaunch false 7 2 3 0 0 0,
    .cmPte false 7 3 2 0 0 0, .fenceSeq false 7 3 0, .shld false 0 3 0 0, .tcp false 0 56 2 0 0, .ctrLd false 56 1 0 0,
    .accLd false 0 0 3 0 0, .gsend false 0 8 0 0 0, .jmp 7 3, .kget false 7 1 32, .kset false 7 32 1, .exit 7 0 5,
    .exit 7 2 0, .exit 7 3 1, .exit 7 28 3, .vinfo false 7 56 0, .rdsr false 7 56 0, .rdclk false 7 3, .dcwb false 7 3 0,
    .qbind false 7 3 0, .gbind false 7 56 0 0] : List Instr).all fun i => !i.wellFormed) = true := by
  decide

theorem illFormed_rows : (([
    .sqTail 64 0, .dispatch 1152, .steal 24 0, .slotRelease 1152, .issueSelect 0 4, .eftResume 0 0 16, .reconvRelease 0 4,
    .sleepWake 0 0 256, .barrierArrival 0 0 256, .barrierSpillArrival 0 4 0, .tokenClear 1152 0 0, .lineFetch 0 4097 0,
    .taskFinish 65536 0, .preemptionRequest 65536, .copyIssueStop 65536, .contextSave 65536, .forcedSave 65536,
    .entryTake 1152 0, .entryRetire 1152, .triggerSlotFree 0 512, .matrixStep 1152, .matrixQueueStall 1152,
    .tokenArrival 0 0 0 0 64 0 0, .bypass 64, .join 64, .loopstart (2 ^ 64), .setowners ⟨64, []⟩ 0 [],
    .setowners ⟨0, []⟩ 33 [],
    .setroute 0 [1, 2, 3, 4, 5] [] 0, .portdrain 32, .portup 32, .setppt 4096 0 0, .keyload 4096 0, .resync 4096] : List Instr).all
      fun i => !i.wellFormed) = true := by
  decide

theorem illFormed_rows_2 : (([
    .fabricPacket ⟨64, 0, 0⟩ 0 0 0 0 0 0 [], .fabricPacket ⟨0, 64, 0⟩ 0 0 0 0 0 0 [], .fabricPacket ⟨0, 0, 8⟩ 0 0 0 0 0 0 [], .portDown 32, .routeStall 64, .ownerreject 0 32, .winOpen 63, .winRevoke 63,
    .windowClose 256, .hbqTail 8 0, .fresume 65536 0, .vpgrow 65536 0, .ltinval 65536 0, .capabilityRecord 2 0 0 0 0 0,
    .packetPull 0 64 0 false, .bindack 2 0, .qstate 0 64 false false 0 0, .invack 2 0, .guestFault 2 0 0 0 0, .guestRead 2 0 0,
    .ownershipRequest 2 0 0, .writeBack 2 0 0 0 [] false, .recallAnswer 2 0 ⟨0, false⟩ [], .guestAtomic 2 0 0 0 false 0 0,
    .translationRequest 2 0 0 false, .guestDutyTimeout 2 0, .linkRetrain 2 false, .tdiLeaveRun 63, .readyBitRise 88,
    .discard 65536, .tdispRequest 63 0 0 [], .managementRecord 256 0 0] : List Instr).all fun i => !i.wellFormed) = true := by
  decide

/-! ### One word, one step: the manual's worked examples -/

/-- A register of the resident thread after the word has run. -/
def regAfter (i : Instr) (regs : Tab Word) (d : Nat) : Option Word :=
  match step (laid i regs) with
  | .next t => (t.thread? 0 0 0).map (·.reg d)
  | _ => none

/-- The resident thread after the word has run. -/
def threadAfter (i : Instr) (regs : Tab Word := []) (sys : Bool := false) : Option Thread :=
  match step (laid i regs sys) with
  | .next t => t.thread? 0 0 0
  | _ => none

/-- Example 7.1. -/
theorem test_mulhs : regAfter (.mulhs false 7 3 1 2) [(1, 0x80000000), (2, 0x80000000)] 3 = some 0x40000000 := by decide
theorem test_mulhu : regAfter (.mulhu false 7 3 1 2) [(1, 0xFFFFFFFF), (2, 0xFFFFFFFF)] 3 = some 0xFFFFFFFE := by decide
theorem test_adds : regAfter (.adds false 7 3 1 2) [(1, 0x7FFFFFF0), (2, 0x20)] 3 = some 0x7FFFFFFF := by decide
theorem test_shr : regAfter (.shr false 7 3 1 2) [(1, 0x80000000), (2, 0x28)] 3 = some 0 := by decide
theorem test_sar : regAfter (.sar false 7 3 1 2) [(1, 0x80000000), (2, 0x28)] 3 = some 0xFFFFFFFF := by decide
theorem test_ror : regAfter (.ror false 7 3 1 2) [(1, 1), (2, 0x21)] 3 = some 0x80000000 := by decide
theorem test_clz : regAfter (.clz false 7 3 1) [] 3 = some 0x20 := by decide
set_option maxRecDepth 4000 in
theorem test_brev : regAfter (.brev false 7 3 1) [(1, 1)] 3 = some 0x80000000 := by decide

/-- Example 7.2: the fused form keeps 2^-24, and `fmul` rounds it away. -/
theorem test_ffma : regAfter (.ffma false 7 3 1 2 0) [(1, 0x3F800800), (2, 0x3F800800), (3, 0xBF801000)] 3 = some 0x33800000 := by
  decide
theorem test_fmul : regAfter (.fmul false 7 4 1 2 0) [(1, 0x3F800800), (2, 0x3F800800)] 4 = some 0x3F801000 := by decide
theorem test_fadd : regAfter (.fadd false 7 4 1 2 0) [(1, 0x3F801000), (2, 0xBF801000)] 4 = some 0 := by decide

/-- Example 7.3, and R165: code 8 does not sign-extend. -/
theorem test_cvt_rz : regAfter (.cvtBf16F32 false 7 7 8 1) [(8, 0x3F81FFFF)] 7 = some 0x3F81 := by decide
theorem test_cvt_rne : regAfter (.cvtBf16F32 false 7 7 8 0) [(8, 0x3F81FFFF)] 7 = some 0x3F82 := by decide
theorem test_cvt_i16 : regAfter (.cvtI16I32 false 7 7 8 0) [(8, 0xFFFFFFFF)] 7 = some 0xFFFF := by decide

/-- R164: `frint.rne` of -0.3 gives -0. -/
theorem test_frint : regAfter (.frint false 7 3 1 0) [(1, 0xBE99999A)] 3 = some 0x80000000 := by decide

/-- R168: the division corners. -/
theorem test_div_overflow : regAfter (.div false 7 3 1 2) [(1, 0x80000000), (2, 0xFFFFFFFF)] 3 = some 0x80000000 := by decide
theorem test_rem_zero : regAfter (.rem false 7 3 1 2) [(1, 0x1234)] 3 = some 0x1234 := by decide

/-- R158: the destination pair is also both sources. -/
theorem test_add64 : (threadAfter (.add64 false 7 2 2 2) [(2, 0x80000001), (3, 1)]).map (·.pair 2) = some 0x0000000300000002 := by
  decide

/-- R134: g0 discards, and a false guard leaves the register. -/
theorem test_g0 : regAfter (.addi false 7 0 1 5) [(1, 7)] 0 = some 0 := by decide
theorem test_guard_false : regAfter (.addi false 8 3 1 5) [(1, 7)] 3 = some 12 ∧
    regAfter (.addi false 0 3 1 5) [(1, 7)] 3 = some 0 := by decide

/-- R301: a system call from task code enters the system handler in system mode, one level up. -/
theorem test_sysc : (threadAfter (.sysc 7 9)).map (fun t => (t.pc, t.system, t.level)) = some (0, true, 1) := by decide

/-- R171: `call` leaves the next packet's address, and goes on two packets back. -/
theorem test_call : (threadAfter (.call 7 (-2))).map (fun t => (t.pc, t.pair 54)) = some (0xBFE8, 0xC00C) := by decide

/-- A shape record (R201): base, kind, format, operator, extents 0 and 1, step 1, and, for a collective, a grid of one member. -/
def shapeOf (base kind fmt rop e0 e1 step addr : Nat) : Shape :=
  let grid := if kind = 1 then 1 else 0
  BitVec.ofNat 512 (leValue (leBytes 16 base ++ leBytes 8 (kind * 2 ^ 30 + fmt * 2 ^ 24 + rop * 2 ^ 8) ++ leBytes 2 e0 ++ leBytes 2 e1 ++
    leBytes 2 0 ++ [grid, grid, grid] ++ leBytes 7 0 ++ leBytes 6 step ++ leBytes 10 0 ++ leBytes 8 addr))

/-- A resident thread of user code at the word i with all that words of the engines, the loop and guest queues ask for: handles
1-4 hold a copy's, an operand's, a collective's and an accumulator tile's record, the loop is up and its owner has a
partition, both sockets' links are up and queue 5 of socket E is bound to it. g1 holds 1. -/
def rich (i : Instr) : State :=
  let s := laid i [(1, 1)]
  { s with
    pads := s.pads.map fun p => { p with spad := 4, shapes := [0, shapeOf 0x1000 0 1 0 64 1 0 0, shapeOf spadWindow 2 1 0 64 128 64 0,
      shapeOf 0x1000 1 4 0 1 1 0 8, shapeOf 0x10000 2 4 0 128 128 512 8] ++ List.replicate 11 0 }
    tap := { s.tap with running := true, cmem := tabSetMany 0 [] 0 (leBytes 8 (2 ^ 39 + 2 ^ 46 + 2 ^ 52)) }
    service := { s.service with ready := 2 ^ 80 + 2 ^ 81 + 2 ^ 82 + 2 ^ 83 }
    sockets := s.sockets.map fun k => { k with queues := [(5, { GQueue.zero with bound := some (1, 1) })] } }

/-! ### Witnesses: states that meet the hypotheses of the statements about words -/

theorem witness_IntegerWords : ∀ i ∈ ([
    .add false 7 13 7 16, .sub false 7 2 5 2, .mul false 7 2 5 21, .mulhs false 7 10 13 13, .mulhu false 7 5 13 16,
    .mins false 7 8 2 10, .maxs false 7 13 5 16, .adds false 7 21 40 21, .and false 7 30 16 40, .or false 7 7 16 8,
    .xor false 7 7 21 2, .andn false 7 2 13 2, .orn false 7 7 13 40, .xnor false 7 8 10 40, .minu false 7 10 5 10,
    .maxu false 7 8 16 21] : List Instr), Meets (rich i) i :=
  meets_all rich _ (by decide)

theorem witness_ShiftsAndImmediates : ∀ i ∈ ([
    .shl false 7 13 13 8, .shr false 7 21 16 8, .sar false 7 10 5 8, .rol false 7 8 7 5, .ror false 7 7 30 2,
    .clz false 7 13 21, .popc false 7 16 16, .brev false 7 2 30, .addi false 7 16 16 493, .andi false 7 13 10 204,
    .ori false 7 2 13 459, .xori false 7 7 13 236, .shli false 7 5 21 6, .shri false 7 40 7 31, .sari false 7 30 7 12,
    .movi false 7 7 2998, .movsh false 7 13 6457] : List Instr), Meets (rich i) i :=
  meets_all rich _ (by decide)

theorem witness_PairArithmetic : ∀ i ∈ ([
    .add64 false 7 44 26 30, .sub64 false 7 30 6 54, .addsx64 false 7 12 32 40, .addzx64 false 7 26 42 30,
    .shl64 false 7 20 44 5, .shr64 false 7 48 30 21, .sar64 false 7 54 54 2, .mul64 false 7 20 28 34] : List Instr), Meets (rich i) i :=
  meets_all rich _ (by decide)

theorem witness_Comparisons : ∀ i ∈ ([
    .cmpEq false 7 1 2 13, .cmpNe false 7 3 40 30, .cmpLt false 7 5 10 16, .cmpLe false 7 4 13 5,
    .cmpLtu false 7 4 8 8, .cmpLeu false 7 3 10 2, .cmpTst false 7 6 21 21] : List Instr), Meets (rich i) i :=
  meets_all rich _ (by decide)

theorem witness_PredicateAndSmallWords : ∀ i ∈ ([
    .nop false 7, .yield false 7, .div false 7 5 21 2, .divu false 7 2 5 21, .rem false 7 16 40 16,
    .remu false 7 5 5 30, .fdiv false 7 7 30 40, .rand false 7 5, .pand false 7 2 7 1, .por false 7 5 5 4,
    .pxor false 7 1 7 5, .pandn false 7 6 1 6, .pnez false 7 5 7, .pget false 7 40, .pset false 7 8] : List Instr), Meets (rich i) i :=
  meets_all rich _ (by decide)

theorem witness_RoundedFloat : ∀ i ∈ ([
    .fadd false 7 2 8 13 2, .fsub false 7 21 7 2 3, .fmul false 7 13 10 10 3, .ffma false 7 21 8 16 1,
    .ffms false 7 16 30 21 4, .fnma false 7 8 21 7 1, .haddBf16x2 false 7 8 21 10 4, .hmulBf16x2 false 7 13 10 2 4,
    .hfmaBf16x2 false 7 30 21 2 2, .fdot2Bf16 false 7 30 8 30 1, .fscale false 7 40 5 40 1] : List Instr), Meets (rich i) i :=
  meets_all rich _ (by decide)

theorem witness_ExactAndChosenFloat : ∀ i ∈ ([
    .fmin false 7 21 30 5, .fmax false 7 40 2 40, .fabs false 7 13 2, .fneg false 7 7 30, .fcopysign false 7 7 10 13,
    .fclass false 7 8 10, .fcmpEq false 7 2 5 13, .fcmpNe false 7 4 10 16, .fcmpLt false 7 4 40 7,
    .fcmpLe false 7 4 13 21, .fcmpUn false 7 2 30 21, .rcp false 7 7 2, .rsqrt false 7 30 7, .sqrt false 7 16 5,
    .exp2 false 7 30 30, .log2 false 7 10 40, .sinpi false 7 21 16, .cospi false 7 16 8, .tanh false 7 5 13] : List Instr), Meets (rich i) i :=
  meets_all rich _ (by decide)

/-- Operands that the fixed results of R167 are about: a negative one, whole numbers and halves of either sign, NaNs. -/
theorem witness_ExactAndChosenFloat_operands :
    (∀ w ∈ [0x80000001, 0xFF7FFFFF], ∃ n d, f32 w = .num true n d ∧ n ≠ 0) ∧
    (∀ w ∈ [0, 0x80000000, 0x3F800000, 0xC0400000], ∃ neg n d, f32 w = .num neg n d ∧ n % d = 0) ∧
    (∀ w ∈ [0x3F000000, 0xBFC00000], ∃ neg n d, f32 w = .num neg n d ∧ 2 * n % (2 * d) = d) ∧
    isNan32 0x7F800001 = true ∧ isNan32 0xFFFFFFFF = true := by
  refine ⟨?_, ?_, ?_, by decide⟩ <;> intro w hw <;> simp only [List.mem_cons, List.not_mem_nil, or_false] at hw
  · rcases hw with rfl | rfl <;> exact ⟨_, _, rfl, by decide +kernel⟩
  · rcases hw with rfl | rfl | rfl | rfl <;> exact ⟨_, _, _, rfl, by decide +kernel⟩
  · rcases hw with rfl | rfl <;> exact ⟨_, _, _, rfl, by decide +kernel⟩

/-- Operands of both signs that meet the hypotheses on a number, one that is neither whole nor a half among them. -/
theorem witness_ChosenFloatValues :
    (∀ w ∈ [1, 0x7F7FFFFF], ∃ n d, f32 w = .num false n d ∧ n ≠ 0) ∧
    ∀ w ∈ [0x3E800000, 0xBE800000], ∃ neg n d, f32 w = .num neg n d ∧ n % d ≠ 0 ∧ 2 * n % (2 * d) ≠ d := by
  constructor <;> intro w hw <;> simp only [List.mem_cons, List.not_mem_nil, or_false] at hw
  · rcases hw with rfl | rfl <;> exact ⟨_, _, rfl, by decide +kernel⟩
  · rcases hw with rfl | rfl <;> exact ⟨_, _, _, rfl, by decide +kernel, by decide +kernel⟩

theorem witness_Conversions : ∀ i ∈ ([
    .frint false 7 5 2 4, .cvtBf16F32 false 7 7 21 2, .cvtF32Bf16 false 7 13 16 1, .cvtE4m3F32 false 7 2 40 4,
    .cvtF32E4m3 false 7 5 30 2, .cvtI32F32 false 7 8 8 1, .cvtN32F32 false 7 13 13 2, .cvtF32I32 false 7 13 8 2,
    .cvtF32N32 false 7 2 5 1, .cvtI16I32 false 7 40 21 1, .cvtI8I32 false 7 30 13 3, .cvtN16N32 false 7 8 21 1,
    .cvtN8N32 false 7 21 13 2] : List Instr), Meets (rich i) i :=
  meets_all rich _ (by decide)

theorem witness_PlaceAndFileWords : ∀ i ∈ ([
    .adr false 7 26 7559, .kget false 7 40 26, .kset false 7 29 2, .vinfo false 7 2 2, .rdclk false 7 40] : List Instr), Meets (rich i) i :=
  meets_all rich _ (by decide)

theorem witness_Transfers : ∀ i ∈ ([
    .br 7 210152, .call 7 1455063, .jmp 7 48, .jmpl 7 2] : List Instr), Meets (rich i) i :=
  meets_all rich _ (by decide)

theorem witness_ExchangeWords : ∀ i ∈ ([
    .shfl false 7 8 10 2, .shflUp false 7 10 8 2, .shflDown false 7 10 16 2, .shflXor false 7 2 21 7,
    .ballot false 7 5 2] : List Instr), Meets (rich i) i :=
  meets_all rich _ (by decide)

theorem witness_AccessWords : ∀ i ∈ ([
    .ld false 7 10 16 1 6 2, .lds false 7 13 24 1 3 11, .st false 7 5 50 1 6 6, .ldRo false 7 8 10 2 5 9,
    .ldAcq false 7 7 48 5 2 1, .stRel false 7 8 32 7 3 6, .pf false 7 4 3 11, .watch false 7 30 12 5 7] : List Instr), Meets (rich i) i :=
  meets_all rich _ (by decide)

theorem witness_AtomicWords : ∀ i ∈ ([
    .atomAdd false 7 2 12 1 4, .atomMins false 7 10 32 1 3, .atomMaxs false 7 30 8 1 6, .atomMinu false 7 30 48 1 6,
    .atomMaxu false 7 16 24 1 7, .atomAnd false 7 8 46 1 2, .atomOr false 7 30 52 1 4, .atomXor false 7 2 22 1 6,
    .atomXchg false 7 16 44 1 2, .atomCas false 7 8 28 1 3, .atomFadd false 7 30 40 7, .atomFmin false 7 21 2 2,
    .atomFmax false 7 30 12 5] : List Instr), Meets (rich i) i :=
  meets_all rich _ (by decide)

theorem witness_FencesAndControlReads : ∀ i ∈ ([
    .fence false 7 6 2, .cmLd false 7 30 2 1 2, .cmWait false 7 40 10 1 5, .cmLsn false 7 34 6, .fenceSeq false 7 50 6,
    .fenceSeqAll false 7 6 3] : List Instr), Meets (rich i) i :=
  meets_all rich _ (by decide)

theorem witness_SealAndBroadcastWords : ∀ i ∈ ([
    .seal false 7 1 22 5 1, .unseal false 7 1 30 6 5, .cmSt false 7 16 7 1 1 3 1, .cmAdd false 7 40 30 1 1 6 1,
    .cmClaim false 7 16 2 1 5 1, .cmLaunch false 7 16 26 1 3 1] : List Instr), Meets (rich i) i :=
  meets_all rich _ (by decide)

set_option maxRecDepth 20000 in
theorem witness_EngineWords : ∀ i ∈ ([
    .shld false 1 28 2 3, .shst false 1 8 7 11, .shmod false 1 1 6 1 1, .ctrAdd false 21 16 5 12,
    .ctrLd false 30 40 5 3, .gsend false 1 16 5 7 12, .qfence false 1 5 9 4 2] : List Instr), Meets (rich i) i :=
  meets_all rich _ (by decide)

set_option maxRecDepth 20000 in
theorem witness_RingAndMatrixWords : ∀ i ∈ ([
    .tcp false 1 16 8 6 10, .tcpRed false 3 10 8 4 2, .tcpPost false 3 5 8 4 8, .ringArm false 2 8 7 14,
    .mma false 2 1 1 2 1 13, .mmaGather false 2 1 1 2 5 2 10, .accClr false 1 5 5, .accLd false 4 1 50 3 13,
    .accSt false 4 1 36 6 2] : List Instr), Meets (rich i) i :=
  meets_all rich _ (by decide)

/-- A word issues in a state with something more holding of the run, its pad group and file group, as a computation. -/
def issuing (s : State) (i : Instr) (f : Run → Pad → FileGroup → Bool) : Bool :=
  match s.running with
  | some (r, p, g) =>
    decide (r.snap = none ∧ r.ops = [] ∧ r.index = 0) && s.wordReady r p g i && (s.laneFaults r p g 0 i).isEmpty &&
      decide r.lanes.Nodup && f r p g
  | none => false

/-- The word issues, and something more holds. -/
def Issuing (s : State) (i : Instr) (f : Run → Pad → FileGroup → Bool) : Prop :=
  ∃ r p g, Issues s i r p g ∧ f r p g = true

theorem issuing_sound {s : State} {i : Instr} {f : Run → Pad → FileGroup → Bool} (h : issuing s i f = true) : Issuing s i f := by
  unfold issuing at h
  split at h
  · rename_i r p g hr
    simp only [Bool.and_eq_true, decide_eq_true_eq, List.isEmpty_iff] at h
    obtain ⟨⟨⟨⟨⟨h0, h1, h1'⟩, h2⟩, h3⟩, h4⟩, h5⟩ := h
    exact ⟨r, p, g, ⟨hr, h0, h1, h1', h2, h3, h4⟩, h5⟩
  · cases h

/-- The run stands at a word that decodes, with something more. -/
def standing (s : State) (i : Instr) (w : Word) (f : Run → Pad → FileGroup → Bool) : Bool :=
  match s.running with
  | some (r, p, g) =>
    decide (r.snap = none ∧ r.ops = [] ∧ r.index = 0) && s.wordReady r p g i && decide r.lanes.Nodup && decide (r.start = r.pc) &&
      decide (r.words = [w]) && f r p g
  | none => false

/-- The run stands at the word, and something more holds. -/
def Standing (s : State) (i : Instr) (w : Word) (f : Run → Pad → FileGroup → Bool) : Prop :=
  ∃ r p g, AtWord s i r p g w ∧ f r p g = true

theorem standing_sound {s : State} {i : Instr} {w : Word} {f : Run → Pad → FileGroup → Bool} (h : standing s i w f = true) :
    Standing s i w f := by
  unfold standing at h
  split at h
  · rename_i r p g hr
    simp only [Bool.and_eq_true, decide_eq_true_eq] at h
    obtain ⟨⟨⟨⟨⟨⟨h0, h1, h1'⟩, h2⟩, h3⟩, h4⟩, h5⟩, h6⟩ := h
    exact ⟨r, p, g, ⟨hr, h0, h1, h1', h2, h3, h4, h5⟩, h6⟩
  · cases h

/-- The state with every thread, and every file group, changed. -/
def State.dress (s : State) (f : Thread → Thread) (h : FileGroup → FileGroup := id) : State :=
  { s with pads := s.pads.map fun p => { p with fgs := p.fgs.map fun g => h { g with threads := g.threads.map f } } }

/-- The same in system mode, at handler level n, with bank 1's threads counted. -/
def raised (n : Nat) (i : Instr) : State :=
  State.dress (rich i) (fun t => { t with system := true, level := n }) fun g =>
    { g with level := n, bank1 := { TrapBank.zero with nht := 1, epc := 0xC00C }, bank2 := { TrapBank.zero with nht := 2 } }

/-- No operand is a port, the run's lanes stand in their file group, and it executes the word with one. -/
def oneLane (i : Instr) (r : Run) (_ : Pad) (g : FileGroup) : Bool :=
  i.reads.all (fun n => decide (n < 56)) && i.writes.all (fun n => decide (n < 56)) && decide (r.executing g i = [0]) &&
    decide (r.lanes = [0]) && decide (g.threads.length = 1) && g.threads.all fun t => tabWf (0 : Word) t.regs

/-- The resident file group's port 0 is bound to itself, with one entry of 0x2A in its ring. -/
def ported (i : Instr) : State :=
  let s := State.dress (rich i) id fun g => { g with kregs := [(24, 0x40200100)] }
  { s with pads := s.pads.map fun p => { p with scratch := [(0x102, 1), (0x104, 0x2A)] } }

/-- A word with ports among its operands and as its destination issues (`PortForms`). -/
theorem witness_PortForms : Issuing (ported (.add false 7 3 56 1)) (.add false 7 3 56 1) (fun _ _ _ => true) ∧
    Issuing (ported (.add false 7 56 56 1)) (.add false 7 56 56 1) (fun _ _ _ => true) ∧
    Issuing (ported (.cmpEq false 7 1 56 0)) (.cmpEq false 7 1 56 0) (fun _ _ _ => true) :=
  ⟨issuing_sound (by decide), issuing_sound (by decide), issuing_sound (by decide)⟩

/-- R245: the pop gives the entry pushed first. -/
theorem test_port_pop : (match exec (.add false 7 3 56 1) (ported (.add false 7 3 56 1)) with
    | .next t => (t.thread? 0 0 0).map (·.reg 3)
    | _ => none) = some 0x2B := by decide

theorem witness_PortRings : ∃ (p : Pad) (g h : FileGroup) (n lane : Nat), let q := h.binding (g.binding n).peerPort
    tabWf (0 : Byte) p.scratch = true ∧ p.fgs[(g.binding n).peerFg]? = some h ∧ lane < p.nt ∧ q.log ≤ 15 ∧
    p.portHeld q lane < 2 ^ q.log ∧ p.portHeld q lane = 0 := by
  refine ⟨{ fetchPad with fgs := [{ fetchGroup0 with kregs := [(24, 0x40200100)] }] }, { fetchGroup0 with kregs := [(24, 0x40200100)] },
    { fetchGroup0 with kregs := [(24, 0x40200100)] }, 0, 0, ?_⟩
  decide

/-- `cm.pte` in system mode; `cm.lsn` with nothing sent, with a record that has returned, and with one that has not. -/
theorem witness_SealAndBroadcastWords_pte : Meets (raised 1 (.cmPte false 7 2 4 0 3 0)) (.cmPte false 7 2 4 0 3 0) :=
  meets_sound (by decide)

theorem witness_FencesAndControlReads_lsn : ∀ x ∈ [(none, none), (some 4, some 7), (some 4, none)],
    Meets (State.dress (rich (.cmLsn false 7 2 3)) fun t => { t with lastSent := x.1, lastLsn := x.2 }) (.cmLsn false 7 2 3) := by
  intro x hx
  simp only [List.mem_cons, List.not_mem_nil, or_false] at hx
  obtain rfl | rfl | rfl := hx <;> exact meets_sound (by decide)

/-- `wait` with tokens clear and no late entry; `sleep.until` with its time reached, and at the last tick of those that are not;
`reconv` with nothing behind, and with another thread behind. -/
theorem witness_WaitSleepAndReconv :
    Issuing (rich (.wait 7 255)) (.wait 7 255) (fun r p g => (r.executing g (.wait 7 255)).all fun l =>
      decide (p.lateFor g l 255 = none)) ∧
    Issuing (rich (.sleepUntil 7 0)) (.sleepUntil 7 0) (oneLane (.sleepUntil 7 0)) ∧
    Issuing (rich (.sleepUntil 7 1)) (.sleepUntil 7 1) (oneLane (.sleepUntil 7 1)) ∧
    Issuing (rich (.reconv 7)) (.reconv 7) (fun r _ g => g.splits.isEmpty && decide (r.pc.toNat + 4 < 2 ^ 57) &&
      r.lanes.all (fun l => decide ((g.thread l).level = g.level)) && decide (g.threads.length = 1 ∧ r.lanes = [0])) ∧
    Issuing (State.dress (rich (.reconv 7)) id fun g => { g with threads := g.threads ++ [{ fetchThread with pc := 0xBFFC }] })
      (.reconv 7) (fun r _ g => g.splits.isEmpty && decide (r.pc.toNat + 4 < 2 ^ 57) &&
      r.lanes.all (fun l => decide ((g.thread l).level = g.level)) && decide (1 ∉ r.lanes) &&
      decide ((g.threads[1]?).isSome) && holdsBack (g.thread 1) g.level r.pc.toNat) := by
  refine ⟨?_, ?_, ?_, ?_, ?_⟩ <;> exact issuing_sound (by decide)

/-- An instruction of the thread that is outstanding, and does not hold the words of these tests. -/
def pendingOut : Out := { inst := 9, token := 1, dsts := [3], window := 0, ready := false, pc := 0, index := 0, length := 1, level := 0 }

/-- The three arrival words; `exit` with an access outstanding, and with none, as the last of the pad group; `safept` without a
pre-emption, and with one for a quiet thread and for one that is not. -/
theorem witness_BarrierExitAndSafePoint :
    Issuing (rich (.barArrive 7 0 7)) (.barArrive 7 0 7) (fun _ _ _ => true) ∧
    Issuing (rich (.barWait 7 1 15)) (.barWait 7 1 15) (fun _ _ _ => true) ∧
    Issuing (rich (.barArriveExp 7 1 0 0)) (.barArriveExp 7 1 0 0) (fun _ _ _ => true) ∧
    Issuing (State.dress (rich (.exit 7 4 2)) fun t => { t with outs := [pendingOut] }) (.exit 7 4 2) (fun r _ g =>
      (r.executing g (.exit 7 4 2)).all fun l => decide ((g.threads[l]?).isSome) && !(g.thread l).quiet?) ∧
    Issuing (rich (.exit 7 4 2)) (.exit 7 4 2) (fun r _ g => g.pendTraps.isEmpty && oneLane (.exit 7 4 2) r fetchPad g &&
      (g.thread 0).quiet? && decide ((g.thread 0).barrier = .no) && decide (r.fg = 0 ∧ g.level = 0)) ∧
    Issuing (rich .safept) .safept (fun _ p _ => decide (((rich .safept).preempt? p.ctx) = none)) ∧
    (∀ outs ∈ [[], [pendingOut]], Issuing (State.dress { rich .safept with preempts := [Preempt.mk 1 0 1 false none 0 0 [] []] }
      fun t => { t with outs := outs }) .safept (fun _ p g => decide (p.ctx = 1) &&
        decide ((g.thread 0).quiet? = decide (outs = [])))) := by
  refine ⟨issuing_sound (by decide), issuing_sound (by decide), issuing_sound (by decide), issuing_sound (by decide),
    issuing_sound (by decide), issuing_sound (by decide), ?_⟩
  intro x hx
  simp only [List.mem_cons, List.not_mem_nil, or_false] at hx
  obtain rfl | rfl := hx <;> exact issuing_sound (by decide)

theorem witness_CacheWords :
    Issuing (rich (.dcwb false 7 2 511)) (.dcwb false 7 2 511) (fun r _ g => oneLane (.dcwb false 7 2 511) r fetchPad g &&
      (g.thread 0).own.isEmpty && (rich (.dcwb false 7 2 511)).mem.ops.isEmpty) ∧
    Issuing (rich (.icinv false 7 2 0)) (.icinv false 7 2 0) (fun _ _ _ => true) ∧
    Issuing (rich (.fbar 7)) (.fbar 7) (oneLane (.fbar 7)) :=
  ⟨issuing_sound (by decide), issuing_sound (by decide), issuing_sound (by decide)⟩

/-- The context record of these tests. -/
def ctx1 : Ctx :=
  { id := 1, owner := 1, balance := 5, eref := 0, erefill := 3, ecap := 6, ageLimit := 64, ptimeout := 100, counters := 0x5000,
    vpBase := 0, vpSize := 0, allocs := [], table := 0 }

/-- Each register number that `rdsr` and `wrsr` name, at the ends of its group: in task code, in a handler, in system mode and
at level 2. -/
theorem witness_SpecialRegisterWords :
    (∀ n ∈ [0, 11], Issuing (rich (.rdsr false 7 2 (BitVec.ofNat 9 n))) (.rdsr false 7 2 (BitVec.ofNat 9 n)) (fun _ _ _ => true)) ∧
    (∀ n ∈ [16, 29, 32, 35], Issuing (raised 1 (.rdsr false 7 2 (BitVec.ofNat 9 n))) (.rdsr false 7 2 (BitVec.ofNat 9 n))
      (fun _ _ _ => true)) ∧
    (∀ n ∈ [30, 31], Issuing (raised 2 (.rdsr false 7 2 (BitVec.ofNat 9 n))) (.rdsr false 7 2 (BitVec.ofNat 9 n))
      (fun _ _ _ => true)) ∧
    (∀ n ∈ [7, 8], Issuing (rich (.wrsr false 7 2 (BitVec.ofNat 9 n))) (.wrsr false 7 2 (BitVec.ofNat 9 n))
      (oneLane (.wrsr false 7 2 (BitVec.ofNat 9 n)))) ∧
    (∀ n ∈ [16, 18, 23, 24, 29, 32, 35], Issuing { raised 1 (.wrsr false 7 2 (BitVec.ofNat 9 n)) with ctxs := [ctx1] }
      (.wrsr false 7 2 (BitVec.ofNat 9 n)) (fun r p g => oneLane (.wrsr false 7 2 (BitVec.ofNat 9 n)) r p g &&
        decide (p.ctx = 1) && decide (n < 24 ∨ 30 ≤ n ∨ n - 24 < g.tscr.length))) ∧
    (∀ n ∈ [30, 31], Issuing { raised 2 (.wrsr false 7 2 (BitVec.ofNat 9 n)) with ctxs := [ctx1] }
      (.wrsr false 7 2 (BitVec.ofNat 9 n)) (oneLane (.wrsr false 7 2 (BitVec.ofNat 9 n)))) := by
  refine ⟨?_, ?_, ?_, ?_, ?_, ?_⟩ <;> intro n hn <;> simp only [List.mem_cons, List.not_mem_nil, or_false] at hn <;>
    rcases hn with rfl | rfl | rfl | rfl | rfl | rfl | rfl <;> exact issuing_sound (by decide)
/-- The state with the run's word fetched. -/
def State.fetched (s : State) (i : Instr) : State :=
  { s with cur := s.cur.map fun r => { r with words := [BitVec.ofNat 32 (encode i)] } }

/-- The word is executed by one lane of task code, without a debug agent. -/
def oneTask (s : State) (i : Instr) (r : Run) (p : Pad) (g : FileGroup) : Bool :=
  oneLane i r p g && decide (g.level = 0) && !s.service.debugAgent && !(g.thread 0).system

/-- `trap`, `sysc`, `brk`; the four system words in user mode; a load and a store at the last address that is not a multiple of
their size. -/
theorem witness_TakingTraps :
    (∀ i ∈ ([.trap 7 511, .sysc 7 0, .brk 7 1, .qbind false 7 2 63, .qunbind false 7 0, .gbind false 7 2 1 5,
        .gunbind false 7 0 5] : List Instr),
      Standing (State.fetched (rich i) i) i (BitVec.ofNat 32 (encode i)) (oneTask (rich i) i)) ∧
    ∀ i ∈ ([.ld false 7 6 4 3 1 0, .st false 7 6 4 1 1 0] : List Instr),
      Standing (State.fetched (laid i [(4, 0x1007)]) i) i (BitVec.ofNat 32 (encode i)) (fun r p g => oneTask (laid i) i r p g &&
        decide (((g.thread 0).pair 4).toNat % 8 ≠ 0 ∧ ((g.thread 0).pair 4).toNat % 2 ≠ 0)) := by
  refine ⟨fun i hi => ?_, fun i hi => ?_⟩ <;> simp only [List.mem_cons, List.not_mem_nil, or_false] at hi
  · obtain rfl | rfl | rfl | rfl | rfl | rfl | rfl := hi <;> exact standing_sound (by decide)
  · obtain rfl | rfl := hi <;> exact standing_sound (by decide)

/-- `rti` at level 1 as the last thread of the handler, and at level 2 with another still in it. -/
theorem witness_TrapReturn :
    (Issuing (raised 1 (.rti 7)) (.rti 7) fun r _ g => g.pendTraps.isEmpty && decide (g.bank1.nht ≤ (r.executing g (.rti 7)).length) &&
      decide (r.executing g (.rti 7) ≠ [])) ∧
    Issuing (raised 2 (.rti 7)) (.rti 7) fun r _ g => g.pendTraps.isEmpty && decide ((r.executing g (.rti 7)).length < g.bank2.nht) &&
      decide (r.executing g (.rti 7) ≠ [] ∧ g.level = 2) := ⟨issuing_sound (by decide), issuing_sound (by decide)⟩

/-- System mode with a binding word in g4:g5. -/
def binder (i : Instr) : State := State.dress (rich i) fun t => { t with system := true, regs := [(4, 1), (5, 1)] }

theorem witness_BindingWords :
    Issuing (binder (.qbind false 7 4 63)) (.qbind false 7 4 63) (oneLane (.qbind false 7 4 63)) ∧
    Issuing (binder (.qunbind false 7 0)) (.qunbind false 7 0) (oneLane (.qunbind false 7 0)) ∧
    (∀ k ∈ [0, 1], Issuing (binder (.gbind false 7 4 k 63)) (.gbind false 7 4 k 63) (fun r p g =>
      oneLane (.gbind false 7 4 k 63) r p g && tabWf GQueue.zero (atD Socket.zero (binder (.gbind false 7 4 k 63)).sockets k.toNat).queues &&
      decide (k.toNat < (binder (.gbind false 7 4 k 63)).sockets.length))) ∧
    Issuing (binder (.gunbind false 7 0 4)) (.gunbind false 7 0 4) (fun r p g => oneLane (.gunbind false 7 0 4) r p g &&
      decide (((binder (.gunbind false 7 0 4)).guestQueue 0 4).bound = none)) ∧
    Issuing (binder (.gunbind false 7 1 5)) (.gunbind false 7 1 5) (fun r p g => oneLane (.gunbind false 7 1 5) r p g &&
      decide (((binder (.gunbind false 7 1 5)).guestQueue 1 5).bound ≠ none)) := by
  refine ⟨issuing_sound (by decide), issuing_sound (by decide), ?_, issuing_sound (by decide), issuing_sound (by decide)⟩
  intro k hk
  simp only [List.mem_cons, List.not_mem_nil, or_false] at hk
  obtain rfl | rfl := hk <;> exact issuing_sound (by decide)

/-- A `qfence` that joins nothing and one that joins, and a broadcast that enters the queue at once. -/
theorem witness_EngineWords_join :
    (∀ m ∈ [(0 : BitVec 4), 15], Issuing (rich (.qfence false 1 5 m 0 0)) (.qfence false 1 5 m 0 0) (fun r p g =>
      oneLane (.qfence false 1 5 m 0 0) r p g &&
        tabWf GQueue.zero (atD Socket.zero (rich (.qfence false 1 5 m 0 0)).sockets 1).queues)) ∧
    Issuing (rich (.cmAdd false 7 2 4 0 0 0 0)) (.cmAdd false 7 2 4 0 0 0 0) (fun r p g => oneLane (.cmAdd false 7 2 4 0 0 0 0) r p g &&
      (rich (.cmAdd false 7 2 4 0 0 0 0)).mem.ops.isEmpty &&
        decide ((rich (.cmAdd false 7 2 4 0 0 0 0)).tap.queue.length + 1 ≤ 1024)) := by
  refine ⟨?_, issuing_sound (by decide)⟩
  intro m hm
  simp only [List.mem_cons, List.not_mem_nil, or_false] at hm
  obtain rfl | rfl := hm <;> exact issuing_sound (by decide)

set_option maxRecDepth 20000 in
/-- The ring has room and the leader has nothing outstanding, so that an entry is published at once. -/
theorem witness_RingAndMatrixWords_publish : ∀ i ∈ ([.tcp false 1 2 8 3 0, .tcpRed false 3 2 8 3 0, .tcpPost false 3 2 8 3 0,
    .ringArm false 1 8 3 0] : List Instr), Issuing (rich i) i (fun r p g => oneLane i r p g && (rich i).mem.ops.isEmpty &&
      (g.thread (r.lead g i)).outs.isEmpty && decide (countDiff p.notify p.done < 64)) := by
  intro i hi
  simp only [List.mem_cons, List.not_mem_nil, or_false] at hi
  obtain rfl | rfl | rfl | rfl := hi <;> exact issuing_sound (by decide)

/-- A step that runs the word it fetches: an addition, and a `safept` at its packet's start. -/
theorem witness_StepRunsDecodedInstruction : ∀ i ∈ ([.add false 7 3 1 2, .safept] : List Instr),
    ∃ (r : Run) (p : Pad) (g : FileGroup) (page : Page), let s := laid i
      s.cur = some r ∧ s.pad? r.core = some p ∧ s.fg? r.core r.fg = some g ∧ r.start.toNat < spadWindow ∧
      s.walk p.ctx r.start.toNat = some page ∧ s.tlb? p.core p.ctx r.start.toNat = none ∧
      s.pageLoc page r.start.toNat = .mem 0xC000 ∧ s.icWord p.core p.ctx r.start.toNat = none ∧
      g.aheadWord r.start.toNat = none ∧ s.mem.copy? false (sliceOf p.core) (lineOf 0xC000) = none ∧
      decodeBytes (s.mem.latestBytes 0xC000 4) = some (.instr i, []) ∧
      (BitVec.ofNat 32 (leValue (s.mem.latestBytes 0xC000 4))).getLsbD 31 = false ∧ handleFault p i = false ∧
      r.start.toNat % 12 = 0 := by
  intro i hi
  simp only [List.mem_cons, List.not_mem_nil, or_false] at hi
  obtain rfl | rfl := hi <;> exact ⟨_, _, _, _, rfl, rfl, rfl, by decide, rfl, by decide⟩

/-- Every word of the tests is well-formed, and the last one of the opcode map's first major decodes. -/
theorem witness_DecodeOfEncode : (Instr.add true 5 12 6 14).isWord = true ∧ (Instr.add true 5 12 6 14).wellFormed = true ∧
    decodeWord (encode (.add true 5 12 6 14)) = .instr (.add true 5 12 6 14) := by decide

/-- A state from which a step leads to a next state, in canonical form and with its clocks in range, at the ends of the range. -/
theorem witness_StepKeeps : (laid (.add false 7 3 1 2)).mem.wf = true ∧ (laid (.add false 7 3 1 2)).Tidy ∧
    (State.ClocksInRange { laid (.add false 7 3 1 2) with dies := { DieState.zero with clock := 10 } :: List.replicate 24 DieState.zero }) ∧
    ∃ t, step (laid (.add false 7 3 1 2)) = .next t := by
  refine ⟨by decide, ⟨by decide, ?_, by decide, by decide, by decide, by decide, by decide, by decide, ?_⟩, ?_, _, rfl⟩
  · intro p hp
    simp only [laid, State.layWord, State.poke, State.mapMem, List.map_cons, List.map_nil, List.mem_singleton] at hp
    subst hp
    refine ⟨by decide, ?_⟩
    intro g hg
    simp only [fetchPad, List.map_cons, List.map_nil, List.mem_singleton] at hg
    subst hg
    refine ⟨by decide, ?_⟩
    intro t ht
    simp only [fetchGroup0, List.map_cons, List.map_nil, List.mem_singleton] at ht
    subst ht
    rfl
  · intro w hw
    exact absurd hw (by simp [laid, State.layWord, State.poke, State.mapMem, State.reset, Mem.empty])
  · exact ⟨by decide, by decide⟩

/-! ### The functions of R92 and R280 -/

/-- FIPS 202: the first bytes of SHAKE256 of no bytes. -/
theorem test_shake256 : leValue (shake256 [] 8).reverse = 0x46B9DD2B0BA88D13 := by decide +kernel

/-- NIST's sample 4 of KMAC256: the key 40H to 5FH, the data 00H to 03H, 512 bits of output. -/
theorem test_kmac256 : leValue (kmac256 ((upFrom 0x40 32).map (BitVec.ofNat 8)) [0, 1, 2, 3] (asciiBytes "My Tagged Application")
    512 8).reverse = 0x20C570C31346F703 := by decide +kernel

/-! ### Witnesses: states that meet the hypotheses of the statements about the machine's own steps

Memory of these states is the host's, whose home keeps die 0's clock; the maps of module memory to dies are open (log entry 9). -/

/-- A resident thread, no group chosen, the host link up, clk at 1000. -/
def site : State :=
  let s := laid (.nop false 7)
  { s with cur := none, clk := 1000, service := { s.service with linkUp := true } }

/-- A byte of host memory. -/
def key0 : Nat := 2 ^ 54 + 0x1000
/-- Its line. -/
def line0 : Nat := 2 ^ 46 + 0x10

/-- One access in flight, of the resident thread. -/
def opOf (kind : OpKind) (loc : Loc) : Op :=
  { id := 5, inst := 9, core := 0, fg := 0, lanes := [0], ctx := 1, va := 0x1000, loc := loc, kind := kind, afterAll := false,
    hold := none, packet := none, atsSince := none, fresh := false, issued := 900, met := none }

/-- The thread that waits for it. -/
def waiter : Thread := { fetchThread with outs := [pendingOut] }

/-- The state with the access in flight. -/
def withOp (o : Op) : State := State.dress { site with mem := { site.mem with ops := [o] } } fun t => { t with outs := [pendingOut] }

theorem plain0 {s : State} {owner : Nat} (h1 : s.hostFault owner key0 = none) (h2 : s.poisonedAt key0 = false)
    (h3 : s.mem.guestHeld (lineOf key0) = false) (h4 : s.mem.pending (lineOf key0) = none) : s.Plain owner key0 :=
  ⟨h1, h2, h3, h4⟩

theorem calm_of {s : State} (h1 : s.mem.ops = []) (h2 : s.faultQs = []) (h3 : s.mem.wf = true) : s.Calm := ⟨h1, h2, h3⟩

/-- Two ready runs, neither of which has reached the limit; and two of which one has. -/
theorem witness_IssueAndEftRows_select : ∀ age ∈ [0, 65536],
    let s := State.dress site id fun g => { g with threads := [fetchThread, { fetchThread with pc := 0xC00C, age := age }] }
    s.cur = none ∧ ∃ p g, s.pad? 0 = some p ∧ s.fg? 0 0 = some g ∧ p.stopped = false ∧ g.halted = false ∧ g.exited = false ∧
      (g.runs.filter (s.runReady p 0 g)).length = 2 ∧
      (age = 65536 → (g.runs.filter (s.runReady p 0 g)).any fun y => decide (s.ageLimit p.ctx ≤ g.runAge y.2)) ∧
      (age = 0 → ((g.runs.filter (s.runReady p 0 g)).all fun y => decide (g.runAge y.2 < s.ageLimit p.ctx)) ∧
        (g.runs.filter (s.runReady p 0 g)).all fun y => decide (g.runYielded y.2 = 0)) := by
  intro a ha
  simp only [List.mem_cons, List.not_mem_nil, or_false] at ha
  obtain rfl | rfl := ha <;> exact ⟨rfl, _, _, rfl, rfl, by decide⟩

/-- A run chosen at an address of an absent page; and an eft whose retry has been asked for. -/
theorem witness_IssueAndEftRows_eft :
    (let s := State.dress { site with cur := some (mkRun 0 0 0x8000000000 [0] 1 []) } fun t => { t with pc := 0x8000000000 }
      ∃ r p g, s.cur = some r ∧ s.pad? r.core = some p ∧ s.fg? r.core r.fg = some g ∧
        s.fetchGroup p g r.start.toNat = .error (.absent 0x8000000000) ∧ g.level = 0 ∧ r.lanes ≠ [] ∧ g.freeEft = some 0) ∧
    let e : Eft := { num := 15, lanes := [0], pc := 0xC000, va := 0, cause := 0x0200, write := false, held := false, retry := true }
    let s := State.dress site (fun t => { t with wait := .eft, waitSub := 15 }) fun g => { g with efts := [e] }
    ∃ p g, s.pad? 0 = some p ∧ s.fg? 0 0 = some g ∧ (g.efts.find? fun x => decide (x.num = 15)) = some e ∧ e.retry = true ∧
      (∀ l ∈ e.lanes, (g.thread l).level = g.level) ∧ (g.thread 0).wait = .eft ∧ (g.thread 0).waitSub = 15 :=
  ⟨⟨_, _, _, rfl, rfl, rfl, rfl, by decide⟩, _, _, rfl, rfl, by decide⟩

/-- A sleeper at its tick, and one tick before; a thread at a `reconv`, with and without another behind. -/
theorem witness_WakeAndBarrierRows_wake :
    (∀ T ∈ [(1000 : BitVec 32), 1001], ((State.dress site fun t => { t with wait := .sleep, waitArg := T }).thread? 0 0 0).map
      (fun t => (t.wait, decide ((BitVec.ofNat 32 (site.coreClk 0) - t.waitArg).toNat < 2 ^ 31))) =
        some (.sleep, decide (T = (1000 : BitVec 32)))) ∧
    (∀ b ∈ [false, true], ((site.mapPad 0 fun p => { p with stopped := b }).pad? 0).map (·.stopped) = some b) ∧
    ∀ pc ∈ [(0xC000 : BitVec 57), 0xC00C], let s := State.dress site id fun g => { g with threads :=
        [{ fetchThread with wait := .reconv, pc := 0xC00C }, { fetchThread with pc := pc }] }
      ∃ g old, s.fg? 0 0 = some g ∧ g.threads[0]? = some old ∧ old.wait = .reconv ∧ old.level = g.level ∧ g.splits = [] ∧
        (g.threads.any fun u => holdsBack u old.level old.pc.toNat) = decide (pc = 0xC000) := by
  refine ⟨?_, ?_, ?_⟩ <;> intro a ha <;> simp only [List.mem_cons, List.not_mem_nil, or_false] at ha
  · obtain rfl | rfl := ha <;> decide
  · obtain rfl | rfl := ha <;> rfl
  · obtain rfl | rfl := ha <;> exact ⟨_, _, rfl, rfl, by decide⟩

/-- A thread that arrives at a barrier of its file group: as the last, and with another to come. -/
theorem witness_WakeAndBarrierRows_barrier : ∀ n ∈ [0, 1],
    let s := State.dress site (fun t => { t with barrier := .arriving 0 7 true none, wait := .barrier }) fun g =>
      { g with bars := List.replicate 8 (BarWord.fresh (n + 1)) }
    ∃ p, s.pad? 0 = some p ∧ (s.at_ (0, 0, 0)).barrier = .arriving 0 7 true none ∧ (decide (2 ≤ 0) && s.barSpilled p 0) = false ∧
      s.arrivalDone (s.memberPlaces p 0 0 (0, 0, 0)) 0 7 = true ∧ s.memberPlaces p 0 0 (0, 0, 0) = [(0, 0, 0)] ∧
            (s.barWord p 0 0 7).exp = n + 1 := by
  intro a ha
  simp only [List.mem_cons, List.not_mem_nil, or_false] at ha
  obtain rfl | rfl := ha <;> exact ⟨_, rfl, by decide⟩

/-- A spilled barrier of a slice unit, which the thread reaches last. -/
theorem witness_WakeAndBarrierRows_spilled :
    let s0 := State.dress site fun t => { t with barrier := .arriving 2 3 false none, wait := .barrier }
    let s : State := { s0 with
      pads := s0.pads.map fun p => { p with grain := 1 }
      units := [UnitBars.mk 2 0 0 0 0 (List.replicate 16 (BarWord.fresh 1)) true] }
    ∃ p, s.pad? 0 = some p ∧ (s.at_ (0, 0, 0)).barrier = .arriving 2 3 false none ∧ (decide (2 ≤ 2) && s.barSpilled p 2) = true ∧
      s.arrivalDone (s.memberPlaces p 0 2 (0, 0, 0)) 2 3 = true ∧ s.memberPlaces p 0 2 (0, 0, 0) = [(0, 0, 0)] ∧
      (s.barWord p 0 2 3).exp = 1 := ⟨_, rfl, by decide⟩

/-- An instruction complete for its lane, and a fence at system scope with nothing before it. -/
theorem witness_TokenRow :
    (let s := State.dress site fun t => { t with outs := [{ pendingOut with ready := true }] }
      ∃ g, s.fg? 0 0 = some g ∧ s.mem.ops = [] ∧
        (g.threads.all fun u => u.outs.all (fun x => decide (x.inst = 9) && x.ready) && decide (u.wait = .ready)) = true) ∧
    let o := opOf (.fence 7) (.blank 0 1)
    let s := withOp o
    ∃ g old, s.mem.ops = [o] ∧ o.kind = .fence 7 ∧ o.lanes = [0] ∧ s.fg? o.core o.fg = some g ∧
      (g.threads.all fun u => decide (u.wait = .ready)) = true ∧ s.thread? o.core o.fg 0 = some old ∧ old.tokHeld = [] ∧
      old.outs = [pendingOut] ∧ pendingOut.inst = o.inst ∧ old.wait = .ready ∧ s.allVisible old = true :=
  ⟨⟨_, rfl, rfl, by decide⟩, _, _, rfl, rfl, rfl, rfl, by decide, rfl, by decide⟩

/-- A store of two bytes to a line with no lease, with leases that end 128 and 129 ticks on, and one held whose lease is over. -/
theorem witness_StoreRows : ∀ x ∈ [(0, none), (1128, none), (1129, none), (999, some 999)],
    let o : Op := { opOf (.store [1, 2] none) (.mem key0) with hold := x.2 }
    let s0 := withOp o
    let s : State := { s0 with mem := { s0.mem with leases := if x.1 = 0 then [] else [Lease.mk line0 3 x.1] } }
    ∃ old, s.mem.ops = [o] ∧ o.lanes = [0] ∧ o.afterAll = false ∧ s.thread? o.core o.fg 0 = some old ∧ oneLine key0 2 ∧
      s.Plain (s.ownerOf o.ctx) key0 ∧ s.noneHeld ∧ s.heldByMatrix o = false ∧ s.mem.wf = true ∧ s.mem.expiry (lineOf key0) = x.1 ∧
      s.dieClk (homeOf (lineOf key0)) = 1000 := by
  intro x hx
  simp only [List.mem_cons, List.not_mem_nil, or_false] at hx
  obtain rfl | rfl | rfl | rfl := hx <;>
    exact ⟨_, rfl, rfl, rfl, rfl, ⟨by decide, by decide⟩, ⟨by decide, by decide, by decide, by decide⟩,
      rfl, by decide, by decide, by decide, by decide⟩

/-- A pending version at its write time, and one tick before it. -/
theorem witness_StoreRows_version : ∀ wt ∈ [1000, 1001],
    let s : State := { site with mem := { site.mem with pend := [Pend.mk line0 wt [(key0, 5)]] } }
    ∃ p, s.mem.pending line0 = some p ∧ (p.bytes.map (·.1)).Nodup ∧ s.mem.wf = true ∧ s.noneHeld ∧ s.mem.windows = [] ∧
      s.mem.ops = [] ∧ p.wt = wt ∧ s.dieClk (homeOf line0) = 1000 := by
  intro x hx
  simp only [List.mem_cons, List.not_mem_nil, or_false] at hx
  obtain rfl | rfl := hx <;>
    exact ⟨_, rfl, by decide, by decide, rfl, rfl, rfl, rfl, by decide⟩

/-- Loads of each size, from the home agent and from a copy in the L1. -/
theorem witness_LoadRow : ∀ size ∈ [1, 2, 4],
    let o := opOf (.load size 3 false none) (.mem key0)
    let s0 := withOp o
    let s : State := { s0 with mem := { s0.mem with copies := [Copy.mk true 0 line0 500 (some 1500)] } }
    ∃ old c, s.mem.ops = [o] ∧ o.kind = .load size 3 false none ∧ o.loc = .mem key0 ∧ o.lanes = [0] ∧
      s.thread? o.core o.fg 0 = some old ∧ old.awaits o.inst 3 ∧ tabWf (0 : Word) old.regs = true ∧
      s.Plain (s.ownerOf o.ctx) key0 ∧ lineOf (key0 + size - 1) = lineOf key0 ∧ s.sealedAt o.ctx o.va = false ∧
      s.heldByMatrix o = false ∧ (∀ k, tabGet 0 s.mem.wts k = 0) ∧ s.mem.copy? true o.core (lineOf key0) = some c ∧ c.serves old.floor 1000 = true := by
  intro x hx
  simp only [List.mem_cons, List.not_mem_nil, or_false] at hx
  obtain rfl | rfl | rfl := hx <;>
    exact ⟨_, _, rfl, rfl, rfl, rfl, rfl, ⟨pendingOut, by decide, rfl, by decide⟩, by decide,
      ⟨by decide, by decide, by decide, by decide⟩, by decide, by decide, by decide, fun _ => rfl, rfl, by decide⟩

/-- An atomic for each operator, and a watch that has just run for 1,000,000 ticks. -/
theorem witness_AtomicAndWatchRows :
    (∀ aop ∈ [0, 1, 2, 3, 4, 5, 6, 7, 8, 9],
      let o := opOf (.atomic aop false [7] [2 ^ 32 - 1] 3) (.mem key0)
      let s := withOp o
      ∃ old, s.mem.ops = [o] ∧ o.hold = none ∧ s.thread? o.core o.fg 0 = some old ∧ old.awaits o.inst 3 ∧
        tabWf (0 : Word) old.regs = true ∧ key0 % 4 = 0 ∧ s.Plain (s.ownerOf o.ctx) key0 ∧
        s.mem.leaseOver (lineOf key0) (s.dieClk (homeOf (lineOf key0))) ∧ s.noneHeld ∧ s.heldByMatrix o = false ∧ s.mem.wf = true ∧ aop < 10) ∧
    let o := opOf (.watch 7 3 6 (some 1000)) (.mem key0)
    let s : State := { withOp o with clk := 1001000 }
    ∃ old, s.mem.ops = [o] ∧ o.met = none ∧ s.thread? o.core o.fg 0 = some old ∧ old.awaits o.inst 3 ∧
      tabWf (0 : Word) old.regs = true ∧ 1000 + 1000000 ≤ s.dieClk (homeOf (lineOf key0)) := by
  refine ⟨?_, _, rfl, rfl, rfl, ⟨pendingOut, by decide, rfl, by decide⟩, by decide, by decide⟩
  intro x hx
  simp only [List.mem_cons, List.not_mem_nil, or_false] at hx
  rcases hx with rfl | rfl | rfl | rfl | rfl | rfl | rfl | rfl | rfl | rfl <;> exact ⟨_, rfl, rfl, rfl, ⟨pendingOut, by decide, rfl, by decide⟩, by decide, by decide,
    ⟨by decide, by decide, by decide, by decide⟩, .inl rfl, rfl, by decide, by decide, by decide⟩

section Rows

set_option maxRecDepth 50000

/-- The context's second gigabyte is host memory, and core 0 holds its translation. -/
def hosted : State :=
  let s := site.poke (fetchLevel1 + 8) 8 (fetchEntry false 0 + 1)
  { s with mem := { s.mem with tlbs := [Tlb.mk 0 1 0x40000000 0x40000000 (BitVec.ofNat 64 (fetchEntry false 0 + 1))] } }

/-- A `dcwb` of a lane with a store to its range whose write time is to come. -/
theorem witness_CacheWords_waits : let i : Instr := .dcwb false 7 2 511
    let s := State.dress ((rich i).poke (fetchLevel1 + 8) 8 (fetchEntry false 0 + 1)) fun t =>
      { t with regs := [(2, 0x40001000)], own := [(key0, 5000)] }
    Issuing s i (fun r p g => oneLane i r p g &&
      let lo := ((g.thread 0).pair 2).toNat / 256 * 256
      (g.thread 0).own.any fun x => decide (lineOf x.1 ∈ s.rangeLines p.ctx lo (lo + 256 * 512) ∧
        s.dieClk (homeOf (lineOf x.1)) < x.2)) :=
  issuing_sound (by decide +kernel)

/-- A state with its pad groups changed. -/
def repad (s : State) (f : Pad → Pad) : State := { s with pads := s.pads.map f }

/-- A copy entry of the resident pad group, published as the first. -/
def entry0 : Entry :=
  { id := 6, core := 0, pad := 0, ctx := 1, launch := 0, count := 0, op := 1, cnt := false, follow := false, dst := spadWindow,
    arg := 0, thresh := 0, tctr := 0, cctr := 0, shape := shapeOf 0x40001000 0 1 0 64 1 0 0, followA := 0, followB := 0, floor := 0,
    promise := 1900, revisions := 0, rows := 0, started := true, finished := false, marks := [], followId := 0, counted := false,
    fail := 0, stalled := none, stallVa := 0, retryAt := 0, retryGap := 0, firstTry := 0, parkedOn := 0, fired := false,
    armedDie := none, slot := 0, maxWt := 0, inst := 9, fg := 0, lanes := [0], dreg := 3 }

/-- An engine's address in a page that the core's TLB holds as the tables have it: either way it finds the same byte, and
nothing changes (R331). -/
def resMem (s : State) (e : Entry) (va : Nat) (write : Bool) (k : Nat) : Bool :=
  match s.entryPad e with
  | none => false
  | some p => match s.tlb? p.core p.ctx va, s.walkIn (s.coreTable p.core p.ctx) p.ctx va with
    | some t, some q => decide (va < spadWindow) && (tileAt p.views 0 va).isNone &&
      decide (Page.check ⟨t.entry.toNat, t.size, 0, false⟩ write = .page ⟨t.entry.toNat, t.size, 0, false⟩) &&
      decide (s.pageLoc ⟨t.entry.toNat, t.size, 0, false⟩ va = .mem k) && decide (q.check write = .page q) &&
      decide (s.pageLoc q va = .mem k) && decide (s.tlbFill p.core p.ctx va q = s) && (!isHost k || s.service.linkUp) &&
      !(entHost q.entry && (s.service.atsSilent || !s.service.linkUp))
    | _, _ => false

theorem engineRes_mem {s : State} {e : Entry} {va : Nat} {write : Bool} {k : Nat} (h : resMem s e va write k = true) :
    s.engineRes e va write = (s, .at_ (.mem k)) := by
  unfold resMem at h
  split at h
  · cases h
  · rename_i p hp
    split at h
    · rename_i t q ht hq
      simp only [Bool.and_eq_true, decide_eq_true_eq, Option.isNone_iff_eq_none, Bool.or_eq_true, Bool.not_eq_true'] at h
      obtain ⟨⟨⟨⟨⟨⟨⟨⟨h1, h2⟩, h3⟩, h4⟩, h5⟩, h6⟩, h7⟩, h8⟩, h9⟩ := h
      have hw : ¬ 2 ^ 57 ≤ va := by unfold spadWindow at h1; omega
      have hs : ¬ spadWindow ≤ va := by omega
      have key : s.resolve p va write = (s, .at_ (.mem k)) := by
        unfold State.resolve
        simp only [hs, if_false, h2]
        unfold State.translate
        simp only [ht, hq, h5, h9]
        split <;> simp_all [State.transRes]
      unfold State.engineRes
      simp only [hw, if_false, hp, key]
      cases h8 with
      | inl h8 => simp [h8]
      | inr h8 => simp [h8]
    · cases h

/-- A sum of 32-bit unsigned elements on its way to host memory. -/
def merge0 : Merge :=
  { id := 7, ctx := 1, launch := 0, source := 0, target := none, tile := 0, page := 1, sector := 0,
    decl := { base := 0x40000000, pages := 2, fmt := 1, op := 0 }, bytes := List.replicate 64 1, poison := false, stalled := none,
    stallVa := 0, parkedOn := 0 }

/-- A record at 0x40002000 whose tile 0 has its held map at 0x40003000, with one page stored at 0x40004000 and its sector 0 dirty
or not. -/
def held (dirty : Nat) : State :=
  let s := hosted
  let s := s.poke (hostKey 0x2048) 8 0x40003000
  let s := s.poke (hostKey 0x3000) 8 0x40004000
  let s := s.poke (hostKey 0x3008) 8 dirty
  { s with mem := { s.mem with merges := [{ merge0 with target := some 0x40002000, page := 0 }] } }

theorem direct_of {s : State} {key n : Nat} (h1 : 0 < n) (h2 : lineOf (key + n - 1) = lineOf key) (h3 : s.mem.pending (lineOf key) = none)
    (h4 : s.mem.expiry (lineOf key) = 0) : s.Direct key n := ⟨⟨h1, h2⟩, h3, .inl h4⟩

theorem witness_MergeRows_root : let s : State := { hosted with mem := { hosted.mem with merges := [merge0] } }
    ∃ p, (s.mem.merges.find? fun x => decide (x.id = merge0.id)) = some merge0 ∧ merge0.target = none ∧ merge0.stalled = none ∧
      s.mergeSent merge0.id = false ∧ s.sectorBehind merge0 = false ∧ s.walk 1 merge0.va = some p ∧ p.check true = .page p ∧ s.pageLoc p merge0.va = .mem key0 ∧
      s.hostFault (s.ownerOf 1) key0 = none ∧ key0 % 64 = 0 ∧ merge0.bytes.length = 64 ∧ merge0.poison = false ∧
      s.poisonedAt key0 = false ∧ s.mem.guestDirty (lineOf key0) = false ∧ s.Direct key0 64 ∧ s.Calm :=
  ⟨_, rfl, rfl, rfl, by decide, by decide, rfl, by decide, by decide, by decide, by decide, by decide, rfl, by decide, by decide,
    direct_of (by decide) (by decide) rfl rfl, calm_of rfl rfl (by decide)⟩

/-- A sector behind another of its merge. -/
theorem witness_MergeRows_behind : let m : Merge := { merge0 with id := merge0.id + 1, sector := 1 }
    let s : State := { hosted with mem := { hosted.mem with merges := [merge0, m] } }
    (s.mem.merges.find? fun x => decide (x.id = m.id)) = some m ∧ s.sectorBehind m = true := by decide

theorem witness_MergeRows_held : ∀ dirty ∈ [0, 1],
    let s := held dirty
    let m : Merge := { merge0 with target := some 0x40002000, page := 0 }
    ∃ u a k old, let map := s.viewMap 1 0x40002000 0 8
      (s.mem.merges.find? fun x => decide (x.id = m.id)) = some m ∧ s.sectorBehind m = false ∧ map = 0x40003000 ∧
      s.viewSector 1 0x40002000 0 8 map 0 0 m.decl = some (u, a) ∧ u.devKey 1 (a + 64 * 0) true = some k ∧
      u.devRead 1 (a + 64 * 0) 64 = some old ∧ k % 64 = 0 ∧ u.poisonedAt k = false ∧
      u.mem.guestDirty (lineOf k) = false ∧ u.Direct k 64 ∧ u.Calm ∧
      (s.mapEntry 1 map 0).2.testBit 0 = decide (dirty = 1) := by
  intro x hx
  simp only [List.mem_cons, List.not_mem_nil, or_false] at hx
  obtain rfl | rfl := hx <;>
    exact ⟨_, 0x40004000, hostKey 0x4000, _, rfl, by decide, by decide, rfl, by decide, rfl, by decide, by decide, by decide,
      direct_of (by decide) (by decide) rfl rfl, calm_of rfl rfl (by decide), by decide⟩

/-- A task with no tile that finishes: with its target to choose and a contribution still on its way, with its target chosen,
and with one of its children still to send. -/
theorem witness_MergeRows_finish : ∀ x ∈ [(none, none, true), (some none, none, false), (some none, some (some 0x40002000), true)],
    let s0 := hosted.poke (hostKey 0x2008) 1 3
    let s : State := { s0 with mem := { s0.mem with
      merges := if x.1.isNone then [{ merge0 with target := some 0x40002000 }] else []
      records := [VRec.mk 1 0x40002000 0 x.1 [] none] ++ (if x.2.1.isSome then [VRec.mk 1 0x40005000 0 x.2.1 [] none] else []) } }
    s.vrec? 1 0x40002000 = some (VRec.mk 1 0x40002000 0 x.1 [] none) ∧ s.recByte 1 0x40002000 8 = 3 ∧ s.mergesTo 1 0x40002000 = x.2.2 := by
  intro x hx
  simp only [List.mem_cons, List.not_mem_nil, or_false] at hx
  obtain rfl | rfl | rfl := hx <;> decide

/-- A context without a pre-emption, and with one at each step. -/
theorem witness_PreemptRows :
    (site.preempt? 1 = none ∧ site.mem.ops = []) ∧
    (let s := State.dress { site with preempts := [Preempt.mk 1 900 1 false none 0 0 [] []] } fun t => { t with parked := some 0 };
      s.threadsSafe 1 = true ∧ (s.preempt? 1).map (·.step) = some 1) ∧
    (∀ since ∈ [900, 901], let s : State := { site with
        preempts := [Preempt.mk 1 since 1 false none 0 0 [] []], ctxs := [ctx1] }
      s.threadsSafe 1 = false ∧ s.unreached 1 = [] ∧ (s.ctx? 1) = some ctx1 ∧
        decide (since + ctx1.ptimeout ≤ s.clk) = decide (since = 900)) := by
  refine ⟨by decide, by decide, ?_⟩
  intro x hx
  simp only [List.mem_cons, List.not_mem_nil, or_false] at hx
  obtain rfl | rfl := hx <;> decide

/-- A launch of these tests: context 1, tickets 5 to 9 on die 0. -/
def launch1 : Launch :=
  { id := 8, queue := 0, ctx := 1, image := 0x40002000, cwAddr := 0, cwInc := 1, nt := 1, nf := 1, np := 24, ns := 0, grain := 0,
    dom := false, dieMask := 2 ^ 24 - 1, lb := 0x40002100, cls := 0, counters := (5, 9) :: List.replicate 23 (0, 0), aux := none,
    recOwner := 0, started := 0, failed := false }

/-- A save whose one image is written. -/
theorem witness_PreemptRows_save : let s : State := { site with
      preempts := [Preempt.mk 1 900 4 false none 0 0 [8] [8]], launches := [launch1] }
    (s.preempt? 1).map (fun x => (x.step, x.stalled)) = some (4, none) ∧ s.Calm ∧ (s.pads.map (·.core)).Nodup ∧
      ∀ l ∈ s.launches, l.ctx = 1 → l.id ∈ [8] ∧ s.savePending l.id = false :=
  ⟨by decide, calm_of rfl rfl (by decide), by decide, by decide⟩

/-- A refill that is due and one that is not; a meter interval; the governor above the cap, below 95% of it, and between. -/
theorem witness_EnergyRows :
    (0 < ({ site with clk := 1000000 } : State).clk / 1000000 ∧ ({ site with clk := 999999 } : State).clk / 1000000 ≤ site.refills) ∧
    (site.energyMark < site.clk / 1000 ∧ ({ site with clk := 999 } : State).clk / 1000 ≤ site.energyMark ∧
      site.energyMark ≤ site.governed) ∧
    ∀ cap ∈ [999, 1000, 1053], let s : State := { site with
        energyMark := 1, service := { site.service with modCap := cap }
        dies := { DieState.zero with recent := [10000] } :: List.replicate 24 { DieState.zero with clock := 10 } }
      s.governed < s.energyMark ∧ s.dies.length = 25 ∧ (s.dies.all fun d => decide (d.clock ≤ 20)) = true ∧
        (let sum := (s.dies.map fun d => d.recent.foldl (· + ·) 0).foldl (· + ·) 0;
          (decide (10 * cap < sum), decide (sum * 100 < 950 * cap)) = (decide (cap = 999), decide (cap = 1053))) := by
  refine ⟨by decide, by decide, ?_⟩
  intro x hx
  simp only [List.mem_cons, List.not_mem_nil, or_false] at hx
  obtain rfl | rfl | rfl := hx <;> decide

/-- Slot 0 of the ring holds a copy, or a fence, that NOTIFY has passed and HEAD has not. -/
theorem witness_EntryTakeAndRetire_take : ∀ op ∈ [1, 4],
    let s := repad hosted fun p => { p with spad := 4, shapes := [0, entry0.shape] ++ List.replicate 14 0,
                                            scratch := [(14272, BitVec.ofNat 8 op), (14273, 1), (16320, 1)] }
    ∃ p, s.pad? 0 = some p ∧ s.mem.ops = [] ∧ s.mayTake p = true ∧ 0 < p.spad ∧ tabWf (0 : Byte) p.scratch = true ∧
      (tabGet 0 p.scratch (p.slotOff p.head)).toNat / 16 ≠ 3 ∧
      (tabGet 0 p.scratch (p.slotOff p.head + 2)).toNat.testBit 1 = false ∧ (s.readEntry p p.head).op = op ∧
      s.acceptFault p { s.readEntry p p.head with marks := s.entryMarks p (s.readEntry p p.head) } false = none := by
  intro x hx
  simp only [List.mem_cons, List.not_mem_nil, or_false] at hx
  obtain rfl | rfl := hx <;> exact ⟨_, rfl, by decide⟩

/-- The first entry of a ring, failed, and finished with its increment made. -/
theorem witness_EntryTakeAndRetire_retire : ∀ x ∈ [(8, false), (0, true)],
    let e : Entry := { entry0 with fail := x.1, finished := x.2, cnt := true, counted := x.2 }
    let s := State.dress (repad hosted fun p => { p with ring := [e] }) fun t => { t with outs := [pendingOut] }
    ∃ p old, s.pad? e.core = some p ∧ p.ring = [e] ∧ s.entry? e.id = some e ∧ s.entryLate e = false ∧ s.Calm ∧ 0 < p.spad ∧
      tabWf (0 : Byte) p.scratch = true ∧ s.thread? e.core e.fg 0 = some old := by
  intro x hx
  simp only [List.mem_cons, List.not_mem_nil, or_false] at hx
  obtain rfl | rfl := hx <;>
    exact ⟨_, _, rfl, rfl, rfl, by decide, calm_of rfl rfl (by decide), by decide, by decide, rfl⟩

/-- A state whose resident pad group has one entry. -/
def ringed (e : Entry) : State := repad hosted fun p => { p with ring := [e] }

theorem goes_of {s : State} {e : Entry} (h1 : s.entry? e.id = some e) (h2 : e.finished = false) (h3 : e.fail = 0)
    (h4 : e.stalled = none) (h5 : s.entryTurn e = true) (h6 : s.entryLate e = false) : s.Goes e := ⟨h1, ⟨h2, h3, h4⟩, h5, h6⟩

/-- A copy that meets an absent page, and one that moves 16 bytes of host memory into the scratchpad. -/
theorem witness_EntryMoveRows_copy :
    (let e : Entry := { entry0 with shape := shapeOf 0x80001000 0 1 0 64 1 0 0 }
      let s := ringed e
      s.Goes e ∧ e.op = 1 ∧ e.started = true ∧ e.rows < tileBytes e.shape ∧
        tilePiece e.shape e.dst e.rows 16 = (0x80001000, spadWindow, 16) ∧ s.Calm ∧
        s.engineRes e 0x80001000 false = (s, .bad 0x0200)) ∧
    let e := entry0
    let s := ringed e
    ∃ q, s.Goes e ∧ tilePiece e.shape e.dst e.rows 16 = (0x40001000, spadWindow, 16) ∧ s.Calm ∧
      s.engineRes e 0x40001000 false = (s, .at_ (.mem key0)) ∧ s.engineRes e spadWindow true = (s, .at_ (.spad 0 0)) ∧
      s.pad? 0 = some q ∧ tabWf (0 : Byte) q.scratch = true ∧ s.hostFault (s.ownerOf e.ctx) key0 = none ∧
      s.poisonedAt key0 = false ∧ s.mem.pending (lineOf key0) = none ∧ e.rows + 16 < tileBytes e.shape ∧
      max e.floor (e.readAt.getD (s.dieClk (homeOf (lineOf key0)))) ≤ s.dieClk (homeOf (lineOf key0)) :=
  ⟨⟨goes_of rfl rfl rfl rfl (by decide) (by decide), rfl, rfl, by decide, by decide, calm_of rfl rfl (by decide), by rfl⟩,
    _, goes_of rfl rfl rfl rfl (by decide) (by decide), by decide, calm_of rfl rfl (by decide), engineRes_mem (by decide), by rfl, rfl,
    by decide, by decide, by decide, rfl, by decide, by decide⟩

/-- An entry whose promise has passed, and one tick before. -/
theorem witness_EntryMoveRows_promise : ∀ promise ∈ [1000, 1001], let e : Entry := { entry0 with promise := promise }
    ∃ p, (ringed e).entry? e.id = some e ∧ e.armedDie = none ∧ (ringed e).pad? e.core = some p ∧ 0 < p.spad ∧
      tabWf (0 : Byte) p.scratch = true ∧ (ringed e).coreClk e.core = 1000 := by
  intro x hx
  simp only [List.mem_cons, List.not_mem_nil, or_false] at hx
  obtain rfl | rfl := hx <;> exact ⟨_, rfl, rfl, rfl, by decide, by decide, by decide⟩

theorem witness_CounterAndTriggerRows :
    (let e : Entry := { entry0 with cnt := true, finished := true, cctr := 3, maxWt := 1000 }
      let s : State := { ringed e with ctxs := [{ ctx1 with counters := 0x40005000 }] }
      ∃ k, s.entry? e.id = some e ∧ s.followDone e = true ∧ e.maxWt ≤ s.clk ∧ s.entryQuiet e = true ∧
        e.firstByte = some e.dst ∧ (s.engineRes e e.dst false).2 = .at_ (.spad 0 0) ∧ (s.ctx? e.ctx).isSome ∧
        s.counterGone e.ctx e.cctr = false ∧ s.counterReady e.ctx e.cctr = true ∧ s.counterKey e.ctx e.cctr = some k ∧
        s.Direct k 8 ∧ s.Calm) ∧
    (let e : Entry := { entry0 with armedDie := some 0, slot := 511, fired := true, tested := true, finished := true }
      let s : State := { site with triggers := [e] }
      (s.triggers.find? fun x => decide (x.armedDie = some 0 ∧ x.slot = 511)) = some e ∧ s.entry? e.id = some e ∧ s.mem.ops = []) ∧
    ∀ t ∈ [1000, 1001], let h : Hold := { id := 4, slice := 0, owner := 1, fmt := 0, keys := [key0], endsAt := t, joined := [6] }
      let s : State := { ringed { entry0 with started := false } with mem := { hosted.mem with holds := [h] } }
      (s.mem.holds.find? fun x => decide (x.id = h.id)) = some h ∧ (s.entry? 6).isSome ∧ s.clk = 1000 := by
  refine ⟨⟨hostKey 0x5018, rfl, by decide, by decide, by decide, by decide, by decide, by decide, by decide, by decide, by decide,
    direct_of (by decide) (by decide) rfl rfl, calm_of rfl rfl (by decide)⟩, by decide, ?_⟩
  intro x hx
  simp only [List.mem_cons, List.not_mem_nil, or_false] at hx
  obtain rfl | rfl := hx <;> decide

/-- A posting of a window of one 32-bit sum, and its record. -/
def post0 : Entry := { entry0 with op := 3, shape := shapeOf 0x40001000 1 4 0 1 1 0 0x40001008, dst := 0x40001000 }

/-- A contribution of one 64-bit element from the scratchpad. -/
def red0 : Entry := { entry0 with op := 2, shape := shapeOf spadWindow 1 7 0 2 1 0 0, dst := 0x40001000 }

/-- The window that it finds, with a first partial and without one. -/
def window0 (count : Nat) : Window :=
  { id := 3, owner := 1, ctx := 1, key := key0, va := 0x40001000, shape := shapeOf 0x40001000 1 7 0 2 1 0 8, elems := 2, expect := 3,
    partials := if count = 0 then [] else [(0, 5)], counts := if count = 0 then [] else [(0, count)], recs := [0], flags := 0, elemFlags := [] }

theorem witness_CollectiveRows_post : let s := ringed post0
    ∃ place, s.Goes post0 ∧ post0.op = 3 ∧ s.takeAnswer post0.id = none ∧ s.entryQuiet post0 = true ∧
      s.recOf post0 = .ok (some place) ∧ s.engineRes post0 post0.dst true = (s, .at_ (.mem key0)) ∧ s.mem.windows = [] ∧
      s.windowInPage post0.ctx post0.shape post0.dst = true ∧
      (Window.mk 0 1 1 key0 post0.dst post0.shape (windowElems post0.shape) (shExpect post0.shape) [] [] [place] 0 []).storage ≤
        partialRoom := by
  refine ⟨key0 + 8, goes_of rfl rfl rfl rfl (by decide) (by decide), rfl, rfl, by decide, ?_, engineRes_mem (by decide), rfl,
    by decide, by decide⟩
  unfold State.recOf
  rw [if_neg (by decide), engineRes_mem (k := key0 + 8) (by decide)]
  rfl

theorem witness_CollectiveRows_combine : ∀ x ∈ [(true, 0), (true, 1), (false, 0)],
    let s0 := ringed red0
    let s : State := { s0 with mem := { s0.mem with windows := if x.1 then [window0 x.2] else [] } }
    ∃ bs, s.Goes red0 ∧ red0.retryAt = 0 ∧ s.takeAnswer red0.id = none ∧ s.entryQuiet red0 = true ∧ s.recOf red0 = .ok none ∧
      s.redRead red0 = (s, .bytes bs) ∧ bs.length = 8 ∧
      s.engineRes red0 (redElem red0 red0.rows).2 true = (s, .at_ (.mem key0)) ∧ s.stackGone key0 = false ∧
      ((window0 x.2).owner = s.ownerOf red0.ctx ∧ (window0 x.2).covers key0 = true ∧ shFmt (window0 x.2).shape = 7 ∧
        shFmt red0.shape = 7 ∧ shRop red0.shape = 0 ∧ shRop (window0 x.2).shape = 0 ∧ tabWf 0 (window0 x.2).partials = true ∧
        tabWf 0 (window0 x.2).counts = true ∧ tabGet 0 (window0 x.2).counts 0 + 1 < (window0 x.2).expect ∧ red0.atFirst = true ∧ (key0 - (window0 x.2).key) % 8 = 0) := by
  intro x hx
  simp only [List.mem_cons, List.not_mem_nil, or_false] at hx
  obtain rfl | rfl | rfl := hx <;>
    exact ⟨_, goes_of rfl rfl rfl rfl (by decide) (by decide), rfl, rfl, by decide, by rfl, by rfl, by decide, engineRes_mem (by decide), by decide, by decide⟩

/-- A contribution at its retry, and one tick before it. -/
theorem witness_CollectiveRows_retry : ∀ t ∈ [1000, 1001],
    let e : Entry := { red0 with retryAt := t, retryGap := 65536, firstTry := 10 }
    let s := ringed e
    let u := s.mapRing e.id fun x => { x with retryAt := 0 }
    let f : Entry := { e with retryAt := 0 }
    ∃ bs, s.entry? e.id = some e ∧ s.mem.windows = [] ∧ s.coreClk e.core = 1000 ∧ s.coreClk e.core < e.firstTry + 1000000 ∧ u.Goes f ∧
      u.takeAnswer e.id = none ∧ u.entryQuiet f = true ∧ u.recOf f = .ok none ∧
      u.redRead f = (u, .bytes bs) ∧ u.engineRes f (redElem f 0).2 true = (u, .at_ (.mem key0)) ∧ u.stackGone key0 = false := by
  intro x hx
  simp only [List.mem_cons, List.not_mem_nil, or_false] at hx
  obtain rfl | rfl := hx <;>
    exact ⟨_, rfl, rfl, by decide, by decide, goes_of rfl rfl rfl rfl (by decide) (by decide), rfl, by decide, by rfl, by rfl,
      engineRes_mem (by decide), by decide⟩

/-- A command at the head of the queue: kind and what is done of it. -/
def cmd0 (kind steps : Nat) (applied : Bool) : MatCmd :=
  { id := 6, kind := kind, bank := 1, zs := false, a := shapeOf spadWindow 2 (if kind = 4 then 4 else 1) 0 128 128 512 0,
    b := shapeOf spadWindow 2 1 0 128 128 512 0, aSh := 1, bSh := 1, goff := 0, addr := 0x80001000, steps := steps, rows := 0, flags := 0,
    sat := 0, stalled := none, stallVa := 0, parkedOn := 0, applied := applied, inst := 9, fg := 0, lanes := [0], entry := 0, ctx := 1,
    maxWt := 0, buf := [] }

/-- A clear, the first and the last K step of both forms, a clear that is done, and a fill from an absent page. -/
theorem witness_MatrixRows : ∀ x ∈ [(3, 0, false), (1, 0, false), (1, 1, false), (2, 1, false), (3, 0, true), (4, 0, false)],
    let c := cmd0 x.1 x.2.1 x.2.2
    let s := repad hosted fun p => { p with spad := 4, mq := [c] }
    ∃ p old, s.pad? 0 = some p ∧ p.mq = [c] ∧ c.stalled = none ∧ tabWf (0 : BitVec 80) s.acc = true ∧ c.bank < 2 ∧
      s.matrixHeld 0 c = false ∧ (x.1 = 1 ∨ x.1 = 2 → c.steps < c.stepCount) ∧ s.thread? 0 c.fg 0 = some old ∧
      (x.1 = 4 → 0 < accBytes c.a ∧ accMisaligned c.a c.addr 0 = false ∧
        let at_ := accAddr c.a c.addr 0
        s.engineRead (c.asEntry p 0) at_.1 (min at_.2 (64 - at_.1 % 64)) 0 = (s, .bad 0x0200)) := by
  intro x hx
  simp only [List.mem_cons, List.not_mem_nil, or_false] at hx
  obtain rfl | rfl | rfl | rfl | rfl | rfl := hx
  all_goals first
    | exact ⟨_, _, rfl, rfl, rfl, by decide, by decide, by decide, by decide, rfl, fun h => absurd h (by decide)⟩
    | exact ⟨_, _, rfl, rfl, rfl, by decide, by decide, by decide, by decide, rfl, fun _ => ⟨by decide, by decide, by rfl⟩⟩

end Rows

section Loop

set_option maxRecDepth 50000

/-- A running tap at LSN 6, with owner 1's partition at byte 65536 of the replica. -/
def looped (pending : List Stamped) : State :=
  { site with
    fabric := { site.fabric with ppt := [(1, 0x100000, 0x100000)] }
    queues := [{ SubQueue.zero with bound := some (1, 0, 1) }, SubQueue.zero]
    tap := { Tap_.zero with
      present := 5, running := true, lsn := 7, applied := 6, pending := pending, keys := [(1, 9)],
      cmem := tabSetMany 0 [] 8 (leBytes 8 (2 ^ 52 + 2 ^ 46 + 2 ^ 39)) } }

/-- A record with LSN 7: TYPE, OWNER and SIZE in the header. -/
def rec7 (type owner size : Nat) (p0 p1 : BitVec 64) : Stamped := ⟨7, headerWord type owner 2 false size 1 3, p0, p1, 0, true⟩

theorem atHead_of {s : State} {r : Stamped} (h1 : s.tap.next? = some r) (h2 : s.tap.pending = [r]) (h3 : s.passesOver r = false)
    (h4 : s.tap.own r.lsn = none) (h5 : s.mem.ops = []) (h6 : s.tap.redo = [] := by rfl) : s.AtHead r := ⟨h1, h2, h3, h4, h5, h6⟩

/-- STORE, ADD and CLAIM of both sizes, the last place of the partition among them. -/
theorem witness_ReplicaRecords_cells : ∀ x ∈ [(1, 0, 0, 4), (1, 1, 65528, 8), (2, 0, 65532, 4), (2, 1, 8, 8), (3, 1, 0, 8)],
    let r := rec7 x.1 1 x.2.1 (BitVec.ofNat 64 x.2.2.1) 5
    let s := looped [r]
    s.AtHead r ∧ hdrType r.hdr = x.1 ∧ hdrSize r.hdr ≤ 1 ∧ tabWf (0 : Byte) s.tap.cmem = true ∧
      s.cmPlace (hdrOwner r.hdr) (r.p0.toNat % 2 ^ 22) x.2.2.2 = some (65536 + x.2.2.1) := by
  intro x hx
  simp only [List.mem_cons, List.not_mem_nil, or_false] at hx
  rcases hx with rfl | rfl | rfl | rfl | rfl <;>
    exact ⟨atHead_of (by decide) rfl (by decide) (by decide) rfl, by decide, by decide, by decide, by decide⟩

/-- LAUNCH for this module and for others; PART, SYSST at the ends of its range, and KEYROLL. -/
theorem witness_ReplicaRecords_others :
    (∀ mask ∈ [1, 2], let r := rec7 4 1 0 0x4000 mask
      let s := looped [r]
      s.AtHead r ∧ tabWf (0 : Byte) s.tap.cmem = true ∧ hdrType r.hdr = 4 ∧
        r.p1.toNat.testBit s.tap.position = decide (mask = 1) ∧ s.boundQueue (hdrCtx r.hdr) = some 0 ∧
        (s.desc (hdrCtx r.hdr)).isSome) ∧
    ∀ x ∈ [(0x20, 63), (0x21, 511), (0x21, 512), (0x22, 1)], let r := rec7 x.1 0 0 (BitVec.ofNat 64 x.2) 5
      let s := looped [r]
      s.AtHead r ∧ tabWf (0 : Byte) s.tap.cmem = true ∧ hdrType r.hdr = x.1 ∧ hdrOwner r.hdr = 0 ∧
        tabWf (0 : Nat) s.tap.keys = true := by
  constructor <;> intro x hx <;> simp only [List.mem_cons, List.not_mem_nil, or_false] at hx
  · rcases hx with rfl | rfl <;>
      exact ⟨atHead_of (by decide) rfl (by decide) (by decide) rfl, by decide, by decide, by decide, by decide, by decide⟩
  · rcases hx with rfl | rfl | rfl | rfl <;>
      exact ⟨atHead_of (by decide) rfl (by decide) (by decide) rfl, by decide, by decide, by decide, by decide⟩

/-- A PTE record before its store, and behind it with an INVAL outstanding and with none. -/
theorem witness_ReplicaRecords_pte :
    (let r := rec7 5 1 0 2 5
      let s := looped [r]
      ∃ a, s.AtHead r ∧ hdrType r.hdr = 5 ∧ s.tap.pteStarted r.lsn = none ∧
        s.podSlot (hdrOwner r.hdr) (r.p0.toNat % 2 ^ 57 / 2 ^ 16 * 2 ^ 16) (r.p0.toNat % 4) = some a ∧ s.mem.wf = true ∧ s.Direct a 8 ∧
        s.mem.guestDirty (lineOf a) = false) ∧
    ∀ live ∈ [true, false], let r := rec7 5 1 0 2 5
      let s : State := { looped [r] with
        tap := { (looped [r]).tap with ptePending := some (7, [(0, 4)]) }
        sockets := [{ Socket.zero with invals := if live then [(4, 1, 0, 65536, 1000)] else [] }, Socket.zero] }
      s.AtHead r ∧ hdrType r.hdr = 5 ∧ s.tap.pteStarted r.lsn = some [(0, 4)] ∧ s.invalsGone [(0, 4)] = !live := by
  constructor
  · exact ⟨0x100000, atHead_of (by decide) rfl (by decide) (by decide) rfl, by decide, rfl, by decide, by decide,
      direct_of (by decide) (by decide) rfl rfl, by decide⟩
  · intro x hx
    simp only [List.mem_cons, List.not_mem_nil, or_false] at hx
    rcases hx with rfl | rfl <;>
      exact ⟨atHead_of (by decide) rfl (by decide) (by decide) rfl, by decide, rfl, by decide⟩

/-- A record of each end of the cm range arrives, whatever its tag; a thread's own record returns. -/
theorem witness_TokenPassRows_records :
    (∀ type ∈ [1, 5], let s := looped []
      s.tap.onLoop = true ∧ s.tap.redo = [] ∧ s.tap.catchUp = none ∧ s.tap.snapshot = none ∧ s.tap.pending = [] ∧
        1 ≤ hdrType (rec7 type 1 0 0 0).hdr ∧ hdrType (rec7 type 1 0 0 0).hdr ≤ 5) ∧
    let r : Rec := ⟨headerWord 1 1 0 false 0 1 0, 0, 0, 0, 4, 0⟩
    let s : State := { looped [] with tap := { (looped []).tap with sent := [(7, r)] } }
    s.tap.onLoop = true ∧ s.tap.own 7 = some r ∧ 7 ∉ s.tap.returned ∧ r.origin = 0 ∧ s.mem.ops = [] ∧
      (s.thread? 0 0 0).isSome := by
  constructor
  · intro x hx
    simp only [List.mem_cons, List.not_mem_nil, or_false] at hx
    rcases hx with rfl | rfl <;> decide
  · decide

/-- A token with a wrong check value and with a right one, with nothing to send and with records waiting. -/
theorem witness_TokenPassRows_token : ∀ x ∈ [(false, 0), (true, 0), (true, 17)],
    let s : State := { looped [] with tap := { (looped []).tap with
      queue := List.replicate x.2 ⟨headerWord 1 1 0 false 0 1 0, 0, 0, 0, 4, 0⟩ } }
    let k := Token.mk (8#64).toNat (3#64).toNat (6#64).toNat 5 2 (if x.1 then 0xFAD1 else 0)
    s.tap.onLoop = true ∧ s.tap.redo = [] ∧ s.tap.catchUp = none ∧ decide (k.sealed_.chk = k.chk) = x.1 ∧
      s.tap.snapshot = none ∧ (8#64).toNat = s.tap.lsn + 1 ∧
      s.tap.missing = [] ∧ s.tap.pending = [] ∧ decide (s.tap.queue = []) = decide (x.2 = 0) := by
  intro x hx
  simp only [List.mem_cons, List.not_mem_nil, or_false] at hx
  rcases hx with rfl | rfl | rfl <;> decide

/-- A tap that waits for its copy, and a token with a right check value. -/
theorem witness_TokenPassRows_relay :
    let s : State := { looped [] with tap := { (looped []).tap with snapshot := some (8, none) } }
    let k := Token.mk (8#64).toNat (3#64).toNat (6#64).toNat 5 2 0xFAD1
    s.tap.onLoop = true ∧ s.tap.redo = [] ∧ s.tap.catchUp = none ∧ k.sealed_.chk = k.chk ∧ s.tap.snapshot = some (8, none) ∧
      (8#64).toNat = s.tap.lsn + 1 := by decide

/-- The origin, 19,999 and 20,000 ticks after its token left; a probe in flight. -/
def origin0 (since : Option Nat) (probing : Bool) : State :=
  { looped [] with clk := 20000, tap := { (looped []).tap with
      isOrigin := true, timer := since, probing := probing, sentToken := some (Token.mk 8 3 6 5 0 0) } }

/-- The clauses of the loop's repair. -/
theorem witness_RepairAndJoinRows_repair :
    (∀ since ∈ [0, 1], (origin0 (some since) false).tap.timer = some since ∧ (origin0 (some since) false).tap.onLoop = true ∧
      (origin0 (some since) false).tap.isOrigin = true) ∧
    ((origin0 none true).tap.onLoop = true ∧ (origin0 none true).tap.isOrigin = true ∧ (origin0 none true).tap.probing = true ∧
      (origin0 none true).tap.sentToken = some (Token.mk 8 3 6 5 0 0)) ∧
    (∀ type ∈ [1, 5], let s : State := { looped [] with tap := { (looped []).tap with missing := [(7, 900)] } }
      s.tap.missing = [(7, 900)] ∧ s.tap.pending = [] ∧ s.tap.redo = [] ∧ 1 ≤ hdrType (rec7 type 1 0 0 0).hdr ∧ hdrType (rec7 type 1 0 0 0).hdr ≤ 5) ∧
    (∀ clk ∈ [100899, 100900], let r := rec7 1 1 0 0 5
      let s : State := { looped [{ r with valid := false }] with
        clk := clk, tap := { (looped [{ r with valid := false }]).tap with missing := [(7, 900)] } }
      (s.tap.missing.find? fun x => decide (x.1 = 7)) = some (7, 900) ∧ s.tap.pending = [{ r with valid := false }] ∧
        hdrOwner r.hdr ∈ s.partOwners ∧ s.mem.ops = [] ∧ s.tap.onLoop = true ∧ s.tap.redo = [] ∧ s.tap.snapshot = none ∧ s.tap.applied + 1 = 7 ∧
        s.tap.own 7 = none ∧ decide (900 + 100000 ≤ s.clk) = decide (clk = 100900)) ∧
    ∀ clk ∈ [1000900, 1000901], let s : State := { looped [] with
        clk := clk, tap := { (looped []).tap with lagSince := some 900 } }
      s.tap.lagSince = some 900 ∧ s.tap.lagSaid = false ∧ decide (900 + 1000000 < s.clk) = decide (clk = 1000901) := by
  refine ⟨?_, by decide, ?_, ?_, ?_⟩ <;> intro x hx <;> simp only [List.mem_cons, List.not_mem_nil, or_false] at hx <;>
    rcases hx with rfl | rfl <;> decide

/-- A tap that is not the origin: a probe passes, a record is asked of it, and a copy from the LSN after the one it has applied
or from the next. -/
theorem witness_RepairAndJoinRows_upstream : let s := looped []
    s.tap.onLoop = true ∧ s.tap.isOrigin = false ∧ s.tap.ptePending = none ∧ s.tap.redo = [] ∧ s.tap.snapshot = none ∧
      (∀ first ∈ [s.tap.applied + 1, s.tap.applied + 2], decide (first ≤ s.tap.applied + 1) = decide (first = s.tap.applied + 1)) ∧
      ∃ base len, s.partition 1 = some (base, len) :=
  ⟨by decide, by decide, by decide, by decide, by decide, by decide, _, _, rfl⟩

/-- A tap that joins: a copy is asked for, one stands two records short of its first held record, and one reaches it. -/
theorem witness_RepairAndJoinRows_join :
    (looped []).tap.position = 0 ∧ ∀ x ∈ [(0, 9), (12, 10), (12, 11)],
      let s : State := { looped [] with tap := { (looped []).tap with snapshot := some (x.1, none) } }
      s.tap.snapshot = some (x.1, none) ∧ s.tap.pending = [] ∧ s.tap.redo = [] ∧
        (decide (x.1 ≠ 0 ∧ x.1 ≤ x.2 + 1), decide (x.1 = 0 ∨ x.2 + 1 < x.1)) = (decide (x.2 = 11), decide (x.2 ≠ 11)) := by
  refine ⟨rfl, ?_⟩
  intro x hx
  simp only [List.mem_cons, List.not_mem_nil, or_false] at hx
  rcases hx with rfl | rfl | rfl <;> decide

/-- A loop that runs and one that does not, for LOOPSTART; LOOPGO at its lowest tap and not; RESYNC for an owner that is fenced
and one that is not; management records at the ends of their types. -/
theorem witness_ManagementCommands_loop :
    (∀ lsn ∈ [7, 0], State.loopRuns { looped [] with tap := { (looped []).tap with lsn := lsn } } = decide (lsn = 7)) ∧
    (∀ x ∈ [(5, true), (4, true), (6, false)], let s : State := { looped [] with tap := { (looped []).tap with
        present := x.1, position := if x.1 = 4 then 2 else 0 } }
      (s.tap.onLoop && !s.readyBit 82 && decide (lowestTap s.tap.present = s.tap.position)) = x.2) ∧
    (∀ owner ∈ [1, 2], let s : State := { looped [] with tap := { (looped []).tap with fenced := [1] } }
      decide (owner ∈ s.tap.fenced) = decide (owner = 1) ∧ s.tap.snapshot = none) ∧
    ∀ rtype ∈ [0x20, 0x2F], 0x20 ≤ rtype ∧ rtype < 0x30 := by
  refine ⟨?_, ?_, ?_, by decide⟩ <;> intro x hx <;> simp only [List.mem_cons, List.not_mem_nil, or_false] at hx
  · rcases hx with rfl | rfl <;> decide
  · rcases hx with rfl | rfl | rfl <;> decide
  · rcases hx with rfl | rfl <;> decide

/-- Routes at the ends of what is right: ports, weights, hops, and whether they are taken. -/
theorem witness_ManagementCommands_routes : ∀ x ∈ [([0, 31, 2, 3], [1, 15, 1, 1], 8, true), ([], [], 0, true),
      ([0], [1], 9, false), ([32], [1], 1, false), ([0], [0], 1, false), ([0], [16], 1, false),
      ([0, 1, 2, 3, 4], [1, 1, 1, 1, 1], 1, false), ([0, 1], [1], 1, false)],
    let ports : List Nat := x.1
    let weights : List Nat := x.2.1
    (decide (x.2.2.1 ≤ 8 ∧ ports.length ≤ 4 ∧ weights.length = ports.length) &&
        (weights.all fun w => decide (1 ≤ w ∧ w ≤ 15)) && (ports.all fun p => decide (p < 32))) = x.2.2.2 := by
  intro x hx
  simp only [List.mem_cons, List.not_mem_nil, or_false] at hx
  rcases hx with rfl | rfl | rfl | rfl | rfl | rfl | rfl | rfl <;> decide

end Loop
section Fabric

set_option maxRecDepth 50000

/-- Port 3 up or down, serving owner 1; the next packet of module 5 is the 16th. -/
def fabric0 (up : Bool) : State :=
  let s := hosted.setReady 51 up
  { s with fabric := { s.fabric with
      portOwners := [[], [], [], [1]], expectSeq := [(5, 15)],
      packets := [{ id := 2, dest := 5, seqNo := 0, owner := 1, kind := 3, ref := 5, addr := 0, data := [], sentAt := 900, acked := false,
                    stalledSince := some 1000, saidStall := false }] } }

/-- The clauses of a packet's arrival: a port that is down; its turn, a duplicate, another owner's. -/
theorem witness_PacketRows_arrival : ∀ x ∈ [(false, 15, 1), (true, 15, 1), (true, 14, 1), (true, 15, 2)],
    let s := fabric0 x.1
    s.readyBit 51 = x.1 ∧ 5 ≠ s.tap.position ∧ 0 ∉ [3, 11, 12, 14, 15, 16] ∧ x.2.1 < 2 ^ 32 ∧ s.fabric.early = [] ∧
      tabWf (0 : Nat) s.fabric.expectSeq = true ∧ decide (x.2.2 ∈ atD [] s.fabric.portOwners 3) = decide (x.2.2 = 1) ∧
      (x.2.1 = 14 → 2 ^ 31 ≤ countDiff 14 (tabGet 0 s.fabric.expectSeq 5)) ∧
      (x.2.1 = 15 → tabGet 0 s.fabric.expectSeq 5 = 15) := by
  intro x hx
  simp only [List.mem_cons, List.not_mem_nil, or_false] at hx
  rcases hx with rfl | rfl | rfl | rfl <;> decide

/-- A packet for module 9 at the greatest hop count that goes on, its route up and down. -/
theorem witness_PacketRows_transit : ∀ routes ∈ [[(9, ([(3, 1)], 1))], []],
    let s : State := { fabric0 true with fabric := { (fabric0 true).fabric with routes := routes } }
    5 ≠ s.tap.position ∧ 9 ≠ s.tap.position ∧ s.readyBit 51 = true ∧ 1 ∈ atD [] s.fabric.portOwners 3 ∧ s.fabric.transit = [] ∧
      s.routeUp 9 = !routes.isEmpty := by
  intro x hx
  simp only [List.mem_cons, List.not_mem_nil, or_false] at hx
  rcases hx with rfl | rfl <;> decide

/-- A packet that waits for a port, one tick before the time and at it; and a packet that is an answer. -/
theorem witness_PacketRows_stall : ∀ clk ∈ [1000999, 1001000], let s : State := { fabric0 false with clk := clk }
    ∃ k, k ∈ s.fabric.packets ∧ k.dest = 5 ∧ k.saidStall = false ∧ k.stalledSince = some 1000 ∧
      (s.fabric.packets.find? fun x => decide (x.id = 2)) = some k ∧ k.kind = 3 ∧
      decide (1000 + 1000000 ≤ s.clk) = decide (clk = 1001000) := by
  intro x hx
  simp only [List.mem_cons, List.not_mem_nil, or_false] at hx
  rcases hx with rfl | rfl <;> exact ⟨_, .head _, by decide⟩

/-- A load from module 5's memory, its packet on the way. -/
theorem witness_PacketRows_load : let o := opOf (.load 4 3 false none) (.remote 5 0x40)
    let k : Packet := { id := 2, dest := 5, seqNo := 0, owner := 1, kind := 0, ref := 5, addr := 0x40, data := [], sentAt := 900, acked := false,
                        stalledSince := none, saidStall := false }
    let s : State := { withOp o with fabric := { (withOp o).fabric with packets := [k] } }
    ∃ old, s.mem.ops = [o] ∧ o.kind = .load 4 3 false none ∧ o.lanes = [0] ∧ o.loc = .remote 5 0x40 ∧
      (s.fabric.packets.find? fun x => decide (x.ref = o.id)) = some k ∧ k.kind = 0 ∧
      (s.fabric.packets.find? fun x => decide (x.id = k.id)) = some k ∧ s.forced o.ctx = false ∧
      s.thread? o.core o.fg 0 = some old ∧ old.awaits o.inst 3 ∧ tabWf (0 : Word) old.regs = true :=
  ⟨_, rfl, rfl, rfl, rfl, by decide, rfl, by decide, by decide, rfl, ⟨pendingOut, by decide, rfl, by decide⟩, by decide⟩

/-- Owner 1's window for module 5, in a state of its own. -/
def windowed (state base : Nat) (inbound : List Inbound) : State :=
  let s := fabric0 true
  { s with
    fabric := { s.fabric with
      windows := if state = 0 then [] else [(4, ⟨1, base, 4, [1], 3, state⟩)], inbound := inbound }
    service := { s.service with tdis := [{ Tdi.zero with owner := 1, tdiState := 2, wsel := 4, wbase := base, wlen := 4 },
      { Tdi.zero with owner := 2, tdiState := 2, wsel := 4 }, { Tdi.zero with owner := 1, tdiState := 2, wsel := 4, busy := some 4 }] } }

/-- A read of 64 bytes from module 5. -/
def request0 (addr : Nat) : Inbound := { id := 9, src := 5, owner := 1, kind := 0, ref := 7, addr := addr, data := [64], checked := none }

theorem atD_replicate (m : Nat) : ∀ n, atD DieState.zero (List.replicate m DieState.zero) n = DieState.zero := by
  induction m with
  | zero => intro n; rfl
  | succ m ih => intro n; cases n with
    | zero => rfl
    | succ n => exact ih n

/-- No stack is gone where every die stands as at reset. -/
theorem stackGone_of {s : State} (h : s.dies = List.replicate 25 DieState.zero) (key : Nat)
    (hk : (isHost key || decide (key < hbmBytes)) = true := by decide) : s.stackGone key = false := by
  unfold State.stackGone
  rw [h, atD_replicate]
  simp only [Bool.or_eq_true, decide_eq_true_eq] at hk
  rcases hk with hk | hk
  · simp [hk]
  · have : ¬ hbmBytes ≤ key := by omega
    simp [DieState.zero, this]

/-- A line is then given unless a sector of it that is read is poisoned. -/
theorem lineFails_of {s : State} {line : Nat} {ex b : Bool} (h : s.dies = List.replicate 25 DieState.zero)
    (hb : (!ex && (upFrom (4 * line) 4).any fun x => decide (x ∈ s.mem.poison)) = b)
    (hk : (isHost (256 * line) || decide (256 * line < hbmBytes)) = true := by decide) : s.lineFails line ex = b := by
  rw [State.lineFails, stackGone_of h _ hk, Bool.false_or, hb]

/-- No sector is poisoned where none is marked and every die stands as at reset. -/
theorem sound_of {s : State} {key : Nat} (h1 : s.mem.poisoned key = false) (h2 : s.dies = List.replicate 25 DieState.zero)
    (hk : (isHost key || decide (key < hbmBytes)) = true := by decide) : s.poisonedAt key = false := by
  rw [State.poisonedAt, h1, stackGone_of h2 _ hk, Bool.false_or]

/-- A read that no window admits, and reads at both ends of one that does. -/
theorem witness_WindowRows_request : ∀ x ∈ [(0x30000, none), (0x10000, some 4), (0x4FFC0, some 4), (0x50000, none)],
    let q := request0 x.1
    let s := windowed 1 0x10000 [q]
    (s.fabric.inbound.find? fun y => decide (y.id = q.id)) = some q ∧ q.kind = 0 ∧ q.checked = none ∧
      (x.1 ≠ 0x30000 → s.admitting q = x.2) ∧ (x.1 = 0x30000 → (windowed 2 0x10000 [q]).admitting q = none) ∧
      s.poisonedAt q.addr = false ∧ s.mem.pending (lineOf q.addr) = none ∧ (∀ o ∈ [1, 2],
        State.maySend { s with fabric := { s.fabric with owners := [1] } } o = decide (o = 1)) := by
  intro x hx
  simp only [List.mem_cons, List.not_mem_nil, or_false] at hx
  rcases hx with rfl | rfl | rfl | rfl <;> exact ⟨by decide, by decide, by decide, by decide, by decide, sound_of (by decide) rfl, rfl, by decide⟩

/-- A counter increment whose counter no window covers. -/
theorem witness_WindowRows_counter :
    let q : Inbound := { request0 3 with kind := 5, data := [1, 1] }
    let s0 := windowed 0 0 [q]
    let s : State := { s0 with ctxs := [{ ctx1 with counters := 0x40005000 }], fabric := { s0.fabric with owners := [1] } }
    (s.fabric.inbound.find? fun y => decide (y.id = q.id)) = some q ∧ q.kind = 5 ∧ q.checked = none ∧
      s.countTarget q = some (hostKey 0x5018) ∧ s.maySend q.owner = true ∧ s.admitting { q with addr := hostKey 0x5018 } = none := by
  decide

/-- Windows free, open and being revoked; the owner's TDI and another's; a region that does not fit. -/
theorem witness_WindowRows_tdi : ∀ x ∈ [(0, 0, 0x10000), (0, 0, hbmBytes), (0, 1, 0), (1, 0, 0), (1, 1, 0), (2, 0, 0), (2, 1, 0)],
    let s := windowed x.1 x.2.2 []
    ∃ y, s.service.tdis[x.2.1]? = some y ∧ y.tdiState = 2 ∧ y.busy = none ∧ (s.exportWindow y.wsel).state = x.1 ∧
      decide (x.1 ≠ 0 ∧ (s.exportWindow y.wsel).owner = y.owner) = decide (x.1 ≠ 0 ∧ x.2.1 = 0) ∧
      (x = (0, 0, 0x10000) → 0 < y.wlen ∧ y.wbase + 65536 * y.wlen ≤ hbmBytes) ∧ (x = (0, 1, 0) → y.wlen = 0) ∧
      (x = (0, 0, hbmBytes) → hbmBytes < y.wbase + 65536 * y.wlen) := by
  intro x hx
  simp only [List.mem_cons, List.not_mem_nil, or_false] at hx
  rcases hx with rfl | rfl | rfl | rfl | rfl | rfl | rfl <;> exact ⟨_, rfl, by decide⟩

/-- A window being revoked, with a request checked against it and with none. -/
theorem witness_WindowRows_close : ∀ live ∈ [true, false],
    let s := windowed 2 0 (if live then [{ request0 0 with checked := some 4 }] else [])
    ∃ y, (s.exportWindow 4).state = 2 ∧ tabWf ExportWindow.zero s.fabric.windows = true ∧ s.service.tdis[2]? = some y ∧
      y.busy = some 4 ∧ (s.fabric.inbound.all fun q => decide (q.checked ≠ some 4)) = !live := by
  intro x hx
  simp only [List.mem_cons, List.not_mem_nil, or_false] at hx
  rcases hx with rfl | rfl <;> exact ⟨_, by decide, by decide, rfl, rfl, by decide⟩

/-- LTINVAL with none running and behind one, whose invalidation a guest die has yet to acknowledge or has. -/
theorem witness_ParkedWorkAndRegisters_ltinval : site.service.ltInval = none ∧ ∀ live ∈ [true, false],
    let s : State := { site with
      service := { site.service with ltInval := some (1, 4, [(0, 7)]) }
      sockets := [{ Socket.zero with invals := if live then [(7, 1, 0, 2 ^ 64, 1000)] else [] }, Socket.zero] }
    s.service.ltInval = some (1, 4, [(0, 7)]) ∧ s.service.ltQueue = [] ∧
      (s.invalsGone [(0, 7)] && s.transGone (fun c => decide (c = 1)) (invalRange 4).1 (invalRange 4).2) = !live := by
  refine ⟨rfl, ?_⟩
  intro x hx
  simp only [List.mem_cons, List.not_mem_nil, or_false] at hx
  rcases hx with rfl | rfl <;> decide

/-- TDIs in each state that the register clauses name. -/
theorem witness_ParkedWorkAndRegisters_tdi : ∀ st ∈ [0, 1, 2, 3],
    let s : State := { site with service := { site.service with tdis := [{ Tdi.zero with tdiState := st }] } }
    ∃ x, 0 ≠ 63 ∧ s.service.tdis[0]? = some x ∧ x.tdiState = st := by
  intro x hx
  simp only [List.mem_cons, List.not_mem_nil, or_false] at hx
  rcases hx with rfl | rfl | rfl | rfl <;> exact ⟨_, by decide, rfl, rfl⟩

/-- A host broadcast queue with one record behind the last read, of each type and size that R274 accepts. -/
theorem witness_ParkedWorkAndRegisters_hbq : ∀ x ∈ [(1, 0), (1, 1), (2, 1), (4, 0), (5, 0)],
    let s0 := (hosted.setReady 87 true).poke (hostKey 0x6000) 8 (headerWord x.1 0 0 false x.2 1 0).toNat
    let k : Hbq := { Hbq.zero with base := 0x6000, owner := some 1 }
    let s : State := { s0 with service := { s0.service with hbqs := [k], tdis := [{ Tdi.zero with owner := 1, tdiState := 2 }] } }
    let h := BitVec.ofNat 64 (leValue (s.mem.latestBytes (hostKey (k.base + 32 * (k.next % 64)) + 8 * 0) 8))
    s.service.hbqs[0]? = some k ∧ s.service.linkUp = true ∧ k.owner = some 1 ∧ s.ownerCut 1 = false ∧ s.intake = true ∧
      s.hostPerformed = true ∧ s.queueRoom 1 = true ∧ k.next < 2 ^ 32 ∧ 1 % 2 ^ 32 = (k.next + 1) % 2 ^ 32 ∧
      s.hostRecordOk 1 h = true := by
  intro x hx
  simp only [List.mem_cons, List.not_mem_nil, or_false] at hx
  rcases hx with rfl | rfl | rfl | rfl | rfl <;> decide

end Fabric
section Guests

set_option maxRecDepth 50000

/-- A guest die on socket 0 in service, with one queue bound or not to context 1, and the second page of module memory given to it. -/
def guests (k : GQueue) (more : Socket → Socket := id) : State :=
  let s := site.setReady 80 true
  { s with clk := 20000, sockets := [more { Socket.zero with queues := [(3, k)], trans := [⟨1, 0x10000, 0x10000, 0x10000, true, false⟩] }, Socket.zero] }

/-- A queue bound to context 1. -/
def bound1 : GQueue := { GQueue.zero with bound := some (1, 1) }

/-- Packets in a guest queue. -/
def packets0 (from_ n : Nat) : List GItem := (upFrom from_ n).map fun i => .packet i 0 0

theorem witness_GuestBindingAndDuties_binding :
    (let s := guests GQueue.zero;
      0 < s.sockets.length ∧ (s.socket 0).cap = none ∧ (s.socket 0).isolated = false ∧ (s.socket 0).drained = false) ∧
    (let s := State.dress (guests { GQueue.zero with binding := some (1, 0, 900) }) (fun t => { t with wait := .binding 0 3 });
      s.guestLive 0 = true ∧ (s.guestQueue 0 3).binding = some (1, 0, 900) ∧
        (s.thread? 0 0 0).map (·.wait) = some (.binding 0 3)) ∧
    (∀ stalled ∈ [true, false], let k : GQueue := { bound1 with fifo := packets0 7 2, pulled := packets0 3 4, awaiting := some 900, stalled := stalled };
      (guests k).guestLive 0 = true ∧ ((guests k).guestQueue 0 3).bound = some (1, 1) ∧
        ((guests k).guestQueue 0 3).awaiting = some 900) ∧
    (let s := guests { bound1 with unbinding := some (0, 900) };
      s.guestLive 0 = true ∧ (s.guestQueue 0 3).bound = some (1, 1) ∧ (s.guestQueue 0 3).unbinding = some (0, 900) ∧
        (s.guestQueue 0 3).owed = 0 ∧ (s.guestQueue 0 3).fifo = [] ∧ (s.guestQueue 0 3).pulled = [] ∧ s.otherBound 0 3 1 = false) ∧
    let s := guests bound1 (fun x => { x with invals := [(6, 1, 0x10000, 0x10000, 900)] });
    s.guestLive 0 = true ∧
      ((s.socket 0).invals.find? fun x => decide (x.1 = 6)) = some (6, 1, 0x10000, 0x10000, 900) := by
  refine ⟨by decide, by decide, ?_, by decide, by decide⟩
  intro x hx
  simp only [List.mem_cons, List.not_mem_nil, or_false] at hx
  rcases hx with rfl | rfl <;> decide

/-- A boundary that stands behind packets the guest die has yet to pull; a link that retrains at each rate. -/
theorem witness_GuestBindingAndDuties_owed :
    (let s := guests { bound1 with unbinding := some (0, 900), owed := 2 };
      s.guestLive 0 = true ∧ (s.guestQueue 0 3).bound = some (1, 1) ∧ (s.guestQueue 0 3).unbinding = some (0, 900) ∧
        (s.guestQueue 0 3).owed ≠ 0 ∧ (s.guestQueue 0 3).stopped = false) ∧
    ∀ rate ∈ [16, 24, 32], let s := guests bound1 fun x => { x with retraining := some (rate, 900) };
      0 < s.sockets.length ∧ (s.socket 0).isolated = false ∧ (s.socket 0).down = false ∧
        (s.socket 0).retraining = some (rate, 900) := by
  refine ⟨by decide, ?_⟩
  intro x hx
  simp only [List.mem_cons, List.not_mem_nil, or_false] at hx
  rcases hx with rfl | rfl | rfl <;> decide

/-- Three packets and four with the guest die, and one waiting. -/
theorem witness_GuestBindingAndDuties_pull : ∀ n ∈ [3, 4],
    let k : GQueue := { bound1 with fifo := packets0 9 1, pulled := packets0 3 n }
    let s := guests k;
    0 < s.sockets.length ∧ s.guestLive 0 = true ∧ (s.guestQueue 0 3).bound = some (1, 1) ∧ (s.guestQueue 0 3).stopped = false ∧
      (s.guestQueue 0 3).fifo = [.packet 9 0 0] ∧ packetCount ((s.guestQueue 0 3).pulled.drop 0) = n := by
  intro x hx
  simp only [List.mem_cons, List.not_mem_nil, or_false] at hx
  rcases hx with rfl | rfl <;> decide

/-- A translation fault, another fault and one of another context; duties overdue and a tick before that; each rate of a link. -/
theorem witness_GuestBindingAndDuties_duties :
    (∀ x ∈ [(1, 0x0C00), (1, 0x0C01), (2, 0x0C00)],
      let w0 := BitVec.ofNat 64 (x.2 + x.1 * 2 ^ 32 + 2 ^ 48)
      let info := BitVec.ofNat 64 (3 * 2 ^ 26)
      info.toNat / 2 ^ 26 % 64 = 3 ∧ (guests bound1).guestLive 0 = true ∧
        decide (((guests bound1).guestQueue 0 3).bound = some (w0.toNat / 2 ^ 32 % 2 ^ 16, w0.toNat / 2 ^ 48 % 4096)) =
          decide (x.1 = 1) ∧ w0.toNat % 2 ^ 16 = x.2) ∧
    (∀ since ∈ [9500, 9501], let s := guests bound1 (fun x => { x with invals := [(6, 1, 0x10000, 0x10000, since)] });
      (6, 1, 0x10000, 0x10000, since) ∈ (s.socket 0).invals ∧
        ((s.socket 0).invals.all fun i => decide (i.2.2.2.2 + 10500 ≤ s.clk)) = decide (since = 9500)) ∧
    (let m : Mem := { (guests bound1).mem with recalls := [(0, line0, 17500)] };
      (0, line0, 17500) ∈ m.recalls ∧ 17500 + 2500 ≤ (guests bound1).clk) ∧
    ∀ rate ∈ [16, 24, 32], let s := guests bound1 fun x => { x with retraining := some (rate, 19000) }
      0 < s.sockets.length ∧ (s.socket 0).isolated = false ∧ (s.socket 0).down = false ∧
        (s.socket 0).retraining = some (rate, 19000) := by
  refine ⟨?_, ?_, by decide, ?_⟩ <;> intro x hx <;> simp only [List.mem_cons, List.not_mem_nil, or_false] at hx
  · rcases hx with rfl | rfl | rfl <;> decide
  · rcases hx with rfl | rfl <;> decide
  · rcases hx with rfl | rfl | rfl <;> decide

/-- Requests at the first and the last byte of the page given and beside it; reads and ownership requests with the directory
empty, and with socket 1's copy in the way. -/
theorem witness_CoherentPort_reads :
    (∀ x ∈ [(0xFFFF, false), (0x10000, true), (0x1FFFF, true), (0x20000, false)],
      (guests bound1).guestLive 0 = true ∧ (guests bound1).coAllowed 0 1 x.1 true = x.2 ∧ guestLoc x.1 = .mem x.1) ∧
    ∀ x ∈ [(false, none), (true, none), (false, some true), (true, some false), (true, some true)],
      let s0 := guests bound1
      let s : State := { s0 with mem := { s0.mem with gdir := match x.2 with
        | none => []
        | some e => [(1, 0x100, e)] } }
      s.guestLive 0 = true ∧ s.coAllowed 0 1 0x10000 true = true ∧ guestLoc 0x10000 = .mem 0x10000 ∧ isHost 0x10000 = false ∧
        s.mem.pending (lineOf 0x10000) = none ∧ s.mem.recalls = [] ∧ s.lineFails (lineOf 0x10000) x.1 = false ∧
        (x.2 = none → s.mem.gdir = [] ∧ s.mem.gdirFull (lineOf 0x10000) = false) ∧
        (x.2 ≠ none → ∃ d ∈ s.mem.gdir, d.1 ≠ 0 ∧ d.2.1 = lineOf 0x10000 ∧ (x.1 = true ∨ d.2.2 = true)) := by
  constructor <;> intro x hx <;> simp only [List.mem_cons, List.not_mem_nil, or_false] at hx
  · rcases hx with rfl | rfl | rfl | rfl <;> decide
  · rcases hx with rfl | rfl | rfl | rfl | rfl
    all_goals first
      | exact ⟨rfl, by decide, rfl, by decide, rfl, rfl, lineFails_of rfl (by decide), fun _ => ⟨rfl, by rfl⟩, fun h => absurd rfl h⟩
      | exact ⟨rfl, by decide, rfl, by decide, rfl, rfl, lineFails_of rfl (by decide), nofun, fun _ => ⟨_, .head _, by decide⟩⟩

/-- A poisoned sector at either end of a line that is read, and of the line after it; an atomic to one; and a write-back and an
atomic to host memory with the link down. -/
theorem witness_CoherentPort_failed : let s0 := guests bound1
    (∀ x ∈ [(0x3FF, false), (0x400, true), (0x403, true), (0x404, false)],
      let s : State := { s0 with mem := { s0.mem with poison := [x.1] } }
      s.guestLive 0 = true ∧ s.coAllowed 0 1 0x10000 true = true ∧ s.lineFails (lineOf 0x10000) false = x.2) ∧
    (let s : State := { s0 with mem := { s0.mem with poison := [0x400] } }
     s.hostFault (s.ownerOf 1) 0x10000 = none ∧ s.poisonedAt 0x10000 = true) ∧
    let t0 := guests bound1 fun x => { x with trans := [⟨1, 0x10000, hostKey 0x10000, 0x10000, true, false⟩] }
    let t : State := { t0 with service := { t0.service with linkUp := false } }
    t.guestLive 0 = true ∧ t.coAllowed 0 1 (hostKey 0x10000) true = true ∧ guestLoc (hostKey 0x10000) = .mem (hostKey 0x10000) ∧
      isHost (hostKey 0x10000) = true ∧ t.hostFault (t.ownerOf 1) (hostKey 0x10000) = some 0x0800 := by
  refine ⟨?_, ⟨by decide, by rw [State.poisonedAt, stackGone_of rfl _, Bool.or_false]; decide⟩, by decide⟩
  intro x hx
  simp only [List.mem_cons, List.not_mem_nil, or_false] at hx
  rcases hx with rfl | rfl | rfl | rfl <;> exact ⟨rfl, by decide, lineFails_of rfl (by decide)⟩

/-- A page given read-only is read and not written; one that is sealed behind the guest die's back. -/
theorem witness_CoherentPort_sealed :
    (let s := guests bound1 fun x => { x with trans := [⟨1, 0x10000, 0x10000, 0x10000, false, true⟩] };
      s.coAllowed 0 1 0x10000 false = true ∧ s.coAllowed 0 1 0x10000 true = false) ∧
    (guests bound1).sealedSince 0 1 0x10000 = false ∧
    (let s0 := guests bound1
     let s := s0.poke (fetchLevel1 + 8) 8 (fetchEntry false 0 + 2 ^ 60)
     let t : State := { s with sockets := [{ Socket.zero with queues := [(3, bound1)], trans := [⟨1, 0x40000000, 0x10000, 0x10000, true, false⟩] },
                                           Socket.zero] }
     t.guestLive 0 = true ∧ t.coAllowed 0 1 0x10000 true = true ∧ t.sealedSince 0 1 0x10000 = true) := by decide

/-- A write-back of the line held exclusively, an atomic to it, and the answer to a recall of it. -/
theorem witness_CoherentPort_stores : let s0 := guests bound1
    let s : State := { s0 with mem := { s0.mem with gdir := [(0, 0x100, true)], recalls := [(0, 0x100, 19000)] } }
    s.guestLive 0 = true ∧ s.coAllowed 0 1 0x10000 true = true ∧ isHost 0x10000 = false ∧ (0, lineOf 0x10000, true) ∈ s.mem.gdir ∧
      s.Calm ∧ s.mem.staleLines = [] ∧ s.Direct (256 * lineOf 0x10000) 64 ∧ s.poisonedAt 0x10000 = false ∧
      s.stackGone 0x10000 = false ∧ s.hostFault (s.ownerOf 1) 0x10000 = none ∧ s.Direct 0x10000 4 ∧ (0, 0x100, 19000) ∈ s.mem.recalls :=
  ⟨rfl, by decide, by decide, by decide, calm_of rfl rfl (by decide), rfl, direct_of (by decide) (by decide) rfl rfl,
    sound_of (by decide) rfl, stackGone_of rfl _, by decide, direct_of (by decide) (by decide) rfl rfl, by decide⟩

/-- A translation request for a context that no queue serves, of an absent page, and of a page that lies there. -/
theorem witness_CoherentPort_translation : let s := guests bound1;
    (s.socket 0).serves (fun c => decide (c = 2)) = false ∧ (s.socket 0).serves (fun c => decide (c = 1)) = true ∧
      s.walk 1 0x80000000 = none ∧
      ∃ p, s.walk 1 0x10000 = some p ∧ entW p.entry = true ∧
        guestPlace (s.pageLoc p (0x10000 / p.size * p.size)) = some 0 ∧ isHost 0 = false :=
  ⟨by decide, by decide, by decide, _, rfl, by decide, by decide, by decide⟩

theorem witness_HostMemoryAndTdis_host :
    (site.service.linkUp = true ∧ site.Calm ∧ site.mem.pending (lineOf (hostKey (3 * 256))) = none ∧
      (List.replicate 256 7).length = 256 ∧ site.service.atsPending = []) ∧
    (∀ size ∈ [1, 64, 256], site.Direct ((2 ^ 54 + 0x1000) % 2 ^ 54) size ∧
      site.mem.guestHeld (lineOf ((2 ^ 54 + 0x1000) % 2 ^ 54)) = false) ∧
    ∀ clk ∈ [1000899, 1000900], let o : Op := { opOf .ats (.blank 0 1) with atsSince := some 900 }
      let s : State := { withOp o with clk := clk }
      s.op? o.id = some o ∧ o.kind = .ats ∧ o.atsSince = some 900 ∧ decide (900 + 1000000 ≤ s.clk) = decide (clk = 1000900) := by
  refine ⟨⟨rfl, calm_of rfl rfl (by decide), rfl, by decide, rfl⟩, ?_, ?_⟩ <;> intro x hx <;>
    simp only [List.mem_cons, List.not_mem_nil, or_false] at hx
  · rcases hx with rfl | rfl | rfl <;> exact ⟨direct_of (by decide) (by decide) rfl rfl, by decide⟩
  · rcases hx with rfl | rfl <;> decide

/-- An address in reach of a running TDI, whichever owner its HDM range is; and one whose stack is lost. -/
theorem witness_HostMemoryAndTdis_reach (key : Nat) : State.hdmReach { site with service := { site.service with
      tdis := [{ Tdi.zero with owner := Config.hdmOwner key, tdiState := 2 }] } } key = true ∧
    (isHost key = false → State.stackGone { site with dies := List.replicate 25 { DieState.zero with lost := true } } key = true) ∧
    (key < hbmBytes → site.stackGone key = false) := by
  have lost : ∀ m n, n < m → atD DieState.zero (List.replicate m { DieState.zero with lost := true }) n =
      { DieState.zero with lost := true } := by
    intro m
    induction m with
    | zero => intro n hn; omega
    | succ m ih => intro n hn; cases n with
      | zero => rfl
      | succ n => exact ih n (by omega)
  refine ⟨by simp [State.hdmReach], fun h => ?_, fun h => stackGone_of rfl key (by simp [h])⟩
  unfold State.stackGone
  have hn : homeOf (lineOf key) < 25 := by
    unfold homeOf
    dsimp only
    split
    · decide
    · exact Nat.lt_trans (Nat.mod_lt _ (by decide)) (by decide)
  rw [lost 25 _ hn, h]
  simp

/-- A copy under way from host memory, alone on the module, as the link goes down. -/
theorem witness_HostMemoryAndTdis_engine : let s := ringed entry0
    s.service.linkUp = true ∧ s.mem.ops = [] ∧ s.engineWork = [(entry0.id, entry0.ctx)] ∧ s.entry? entry0.id = some entry0 ∧
      s.entryHost entry0 = some 0x40001000 := by decide

/-- The link up and down; TDIs in each state, another's owner differing. -/
theorem witness_HostMemoryAndTdis_tdis :
    site.service.linkUp = true ∧ site.mem.ops = [] ∧ site.engineWork = [] ∧ State.reset.service.linkUp = false ∧
    ∀ st ∈ [0, 1, 2, 3], let s : State := { site with
        launches := [launch1]
        service := { site.service with tdis := [{ Tdi.zero with owner := 1, tdiState := st }, { Tdi.zero with owner := 2, tdiState := 2 }] } }
      ∃ x, s.service.tdis[0]? = some x ∧ x.tdiState = st ∧ queueOf s.service.sfqBase true = none ∧ s.mem.ops = [] ∧
        s.engineWork = [] ∧ (s.launches.any fun l => decide (s.ownerOf l.ctx = x.owner)) = true ∧
        ∀ m y, s.service.tdis[m]? = some y → m ≠ 0 → ¬ (y.owner = 1 ∧ y.tdiState ≠ 0) := by
  refine ⟨rfl, rfl, by decide, rfl, ?_⟩
  intro x hx
  simp only [List.mem_cons, List.not_mem_nil, or_false] at hx
  rcases hx with rfl | rfl | rfl | rfl <;> refine ⟨_, rfl, rfl, by decide, rfl, by decide, by decide, ?_⟩ <;>
    (intro m y h1 h2
     match m, h1 with
     | 0, _ => exact absurd rfl h2
     | 1, h1 => cases h1; decide
     | _ + 2, h1 => cases h1)

end Guests
section Service

set_option maxRecDepth 50000

theorem witness_FirmwareAndFailures_firmware :
    (∀ x ∈ [(5, true), (4, false), (9, true), (10, false)],
      let s0 := (site.setReady 85 true).setReady 86 true
      let s : State := { s0 with firmware := { s0.firmware with tableVersion := x.1 } }
      (true && s.readyBit 85 && s.readyBit 86 && decide (5 ≤ s.firmware.tableVersion ∧ s.firmware.tableVersion ≤ 9)) = x.2) ∧
    ∀ x ∈ [(1999999, 0), (2000000, 0), (2000000, 1), (999999999, 0), (1000000000, 0)],
      let s0 := (site.setReady 85 true).setReady 86 (decide (x.2 = 0))
      let s : State := { s0 with clk := x.1, firmware := { s0.firmware with failed := x.2, standby := some 3, previous := some 2 } }
      decide (s.firmware.heartbeat + 2000000 ≤ s.clk) = decide (x.1 ≠ 1999999) ∧ s.readyBit 85 = true ∧ s.firmware.failed = x.2 ∧
        decide (s.clk < s.firmware.takeover + 1000000000) = decide (x.1 ≠ 1000000000) ∧ s.readyBit 86 = decide (x.2 = 0) := by
  constructor <;> intro x hx <;> simp only [List.mem_cons, List.not_mem_nil, or_false] at hx
  · rcases hx with rfl | rfl | rfl | rfl <;> decide
  · rcases hx with rfl | rfl | rfl | rfl | rfl <;> decide

/-- A system fault queue of 32 slots in host memory with 31 records waiting, and none. -/
theorem witness_FirmwareAndFailures_queue :
    (site.pad? 0).isSome = true ∧ site.dies.length = 25 ∧ queueOf site.service.sfqBase true = none ∧
    let s0 := site.poke (hostKey 0x7000) 4 63
    let s0 := s0.poke (hostKey 0x7004) 4 32
    let s : State := { s0 with service := { s0.service with sfqBase := 0x7000 } }
    let key := hostKey 0x7000
    let tail := s.num key 4
    queueOf s.service.sfqBase true = some (key, 32) ∧ s.Calm ∧ s.queueFull (key, 32) = false ∧
      s.Direct (key + 64 + 32 * (tail % 32)) 32 ∧ s.Direct key 4 ∧
      s.mem.guestDirty (lineOf (key + 64 + 32 * (tail % 32))) = false ∧ s.mem.guestDirty (lineOf key) = false :=
  ⟨by decide, by decide, by decide, by decide, calm_of rfl rfl (by decide), by decide,
    direct_of (by decide) (by decide) rfl rfl, direct_of (by decide) (by decide) rfl rfl, by decide, by decide⟩

theorem witness_ServiceCommands :
    (site.dies.length = 25 ∧ (atD DieState.zero site.dies 0).cut = false ∧ (atD DieState.zero site.dies 23).cut = false ∧
      site.firmware.failed < 2 ∧ site.mem.ops = [] ∧ site.sockets.length = 2 ∧ (site.socket 1).queues = [] ∧ site.mem.wf = true) ∧
    (site.mayDiscard 1 = false ∧ site.mayDiscard 2 = true) ∧ site.queues[63]? = some SubQueue.zero ∧
    ∀ n ∈ [1, 2], let s : State := { site with firmware := { site.firmware with failed := n } }
      (decide (s.firmware.failed < 2), decide (2 ≤ s.firmware.failed)) = (decide (n = 1), decide (n = 2)) ∧ s.readyBit 85 = false :=
  ⟨by decide, by decide, rfl, by decide⟩

/-- Queue 0 of context 1 with one ring command at the head: the image at host 0x1000 of the kind asked for, whose launch block
is at host 0x1100, die 0 in service. -/
def queued (image kind : Nat) : State :=
  let s := (hosted.setReady 87 true).setReady 0 true
  let s := { s with pads := [] }
  let s := s.poke (hostKey 0x8000) 8 (1 + 2 ^ 16)
  let s := s.poke (hostKey 0x8008) 8 image
  let s := s.poke (hostKey 0x1000) 8 (0x47454D49 + 2 ^ 32 + kind * 2 ^ 48)
  let s := s.poke (hostKey 0x1010) 8 (1 * 2 ^ 16 + 1 * 2 ^ 13 + 1 * 2 ^ 10 + 1)
  let s := s.poke (hostKey 0x1018) 8 1
  let s := s.poke (hostKey 0x1028) 8 4
  let s := s.poke (hostKey 0x1030) 8 0x40001100
  let s := s.poke (hostKey 0x1060) 4 7
  let s := s.poke (hostKey 0x1108) 8 (1 * 2 ^ 9 + 1 + 2 ^ 32)
  { s with queues := [{ SubQueue.zero with ring := 0x8000, nent := 64, tail := 1, bound := some (5, 1, 1) }] }

/-- A launch block of the tests: at host 0x1100, one thread, one register group. -/
def blocked : State := { queued 0x40001000 0 with launches := [{ launch1 with lb := 0x40001100, counters := (5, 9) :: List.replicate 23 (0, 0) }] }

/-- The front end picks a queue whose command has a property, as a computation. -/
def picks (s : State) (f : State → Command → Bool) : Bool :=
  match s.drawQueue with
  | some (q, g) => match s.command? q with
    | some c => f { s with lottery := g } c
    | none => false
  | none => false

theorem picks_sound {s : State} {f : State → Command → Bool} (h : picks s f = true) :
    ∃ q g c, s.drawQueue = some (q, g) ∧ s.command? q = some c ∧ f { s with lottery := g } c = true := by
  unfold picks at h
  split at h
  · split at h
    · exact ⟨_, _, _, ‹_›, ‹_›, h⟩
    · cases h
  · cases h

/-- A ring command that fails a check, or starts a launch of a fresh image. -/
def starts (fresh : Bool) (u : State) (c : Command) : Bool :=
  let v := u.openContext c
  decide (c.opc = 1) && c.aux.isNone && (if fresh then (u.checkImage c).isNone && decide (v.hdr c.ctx c.image 6 2 ≠ 1) &&
    u.launches.isEmpty && (v.newLaunch c).counters.any fun r => decide (r.1 < r.2)
  else (u.checkImage c).isSome)

/-- A ring command whose saved image finds no cores. -/
def waits (u : State) (c : Command) : Bool :=
  let v := u.openContext c
  decide (c.opc = 1) && (u.checkImage c).isNone && decide (v.hdr c.ctx c.image 6 2 = 1) &&
    (State.restore { v.bump with launches := u.launches ++ [v.savedLaunchOf (v.newLaunch c) []],
                                 queues := modifyAt u.queues 0 fun k => { k.takeHead with lastLaunch := u.nextId } }
      (v.savedLaunchOf (v.newLaunch c) []) []).isNone

theorem asks_of {s : State} {k : SubQueue} (h : s.queues = [k]) (h0 : s.askCommand 0 = s) : ∀ n, n < 64 → s.askCommand n = s := by
  intro n _
  match n with
  | 0 => exact h0
  | n + 1 =>
    unfold State.askCommand
    rw [h]
    simp [atD, SubQueue.zero]

/-- A command whose image lies across a boundary, and one of a fresh image. -/
theorem witness_CommandsAndDispatch_queue : ∀ x ∈ [(0x40001080, false), (0x40001000, true)],
    let s := queued x.1 0
    (∀ n, n < 64 → s.askCommand n = s) ∧ ∃ q g c, s.drawQueue = some (q, g) ∧ s.command? q = some c ∧
      starts x.2 { s with lottery := g } c = true := by
  intro x hx
  simp only [List.mem_cons, List.not_mem_nil, or_false] at hx
  rcases hx with rfl | rfl <;>
    exact ⟨asks_of rfl (of_decide_eq_true (by decide +kernel)), picks_sound (by decide +kernel)⟩

/-- A saved image of one pad group, whose one ready die is drained. -/
theorem witness_CommandsAndDispatch_saved :
    let s0 := (((queued 0x40001000 1).poke (hostKey 0x1070) 8 1).poke (hostKey 0x1078) 8 0x40001200).poke (hostKey 0x1080) 8 0x40001300
    let s : State := { s0 with dies := { DieState.zero with coreStop := true } :: List.replicate 24 DieState.zero }
    (∀ n, n < 64 → s.askCommand n = s) ∧ ∃ q g c, s.drawQueue = some (q, g) ∧ s.command? q = some c ∧
      waits { s with lottery := g } c = true :=
  ⟨asks_of rfl (of_decide_eq_true (by decide +kernel)), picks_sound (by decide +kernel)⟩

/-- A ring command of a saved image whose work comes back at once. -/
def wakes (u : State) (c : Command) : Bool :=
  let v := u.openContext c
  decide (c.opc = 1) && (u.checkImage c).isNone && decide (v.hdr c.ctx c.image 6 2 = 1) &&
    (State.restore { v.bump with launches := u.launches ++ [v.savedLaunchOf (v.newLaunch c) []],
                                 queues := modifyAt u.queues 0 fun k => { k.takeHead with lastLaunch := u.nextId } }
      (v.savedLaunchOf (v.newLaunch c) []) []).isSome

/-- A saved image with no pad group left to place. -/
theorem witness_CommandsAndDispatch_restored :
    let s := (queued 0x40001000 1).poke (hostKey 0x1080) 8 0x40001300
    (∀ n, n < 64 → s.askCommand n = s) ∧ ∃ q g c, s.drawQueue = some (q, g) ∧ s.command? q = some c ∧
      wakes { s with lottery := g } c = true :=
  ⟨asks_of rfl (of_decide_eq_true (by decide +kernel)), picks_sound (by decide +kernel)⟩

/-- A launch whose work is visible one tick later; and one whose completion word a guest die holds. -/
theorem witness_CommandsAndDispatch_late :
    (let l : Launch := { launch1 with counters := [], mark := 1001 }
      let s : State := { hosted with launches := [l] }
      s.launch? l.id = some l ∧ s.clk < l.mark) ∧
    let l : Launch := { launch1 with counters := [], cwAddr := 0x40001008 }
    let s : State := { hosted with launches := [l], mem := { hosted.mem with gdir := [(0, line0, true)] } }
    s.launch? l.id = some l ∧ s.launchOver l = true ∧ l.mark ≤ s.clk ∧ s.wordHeld l = some line0 := by decide

/-- A launch that is over, and one that is not; with a completion word and for a LAUNCH record. -/
theorem witness_CommandsAndDispatch_complete : ∀ x ∈ [(none, 0, 5), (none, 0x40001008, 5), (some 3, 0, 5), (none, 0, 6)],
    let l : Launch := { launch1 with counters := (5, x.2.2) :: List.replicate 23 (0, 0), cwAddr := x.2.1, aux := x.1 }
    let s : State := { hosted with launches := [l] }
    s.launch? l.id = some l ∧ s.launchOver l = decide (x.2.2 = 5) ∧ l.mark ≤ s.clk ∧ s.wordHeld l = none ∧ s.Calm ∧
      s.queueRoom 1 = true ∧ s.tap.outside = [] ∧
      (x.2.1 ≠ 0 → ∃ p, l.cwAddr % 8 = 0 ∧ l.cwAddr < 2 ^ 57 ∧ l.cwAddr < spadWindow ∧ s.walk l.ctx l.cwAddr = some p ∧
        p.check true = .page p ∧ s.pageLoc p l.cwAddr = .mem (key0 + 8) ∧ s.Direct (key0 + 8) 8 ∧
        s.stackGone (key0 + 8) = false ∧ s.hostFault (s.ownerOf l.ctx) (key0 + 8) = none) := by
  intro x hx
  simp only [List.mem_cons, List.not_mem_nil, or_false] at hx
  rcases hx with rfl | rfl | rfl | rfl
  all_goals refine ⟨rfl, by decide, by decide, by decide, calm_of rfl rfl (by decide), by decide, rfl, ?_⟩
  all_goals first
    | exact fun h => absurd rfl h
    | exact fun _ => ⟨_, by decide, by decide, by decide, rfl, by decide, by decide, direct_of (by decide) (by decide) rfl rfl,
        by decide, by decide⟩

/-- A task of these tests on die 0's stack. -/
def spawn1 : Spawn := { launch := 8, ctx := 1, lb := 0x40001100, pindex := 3, slot := 5, vrec := 0, seed := 7, pool := none, num := 2 }

/-- The spawn stacks with die 0's given. -/
def stacked (s : State) (l : List Spawn) : State := { s with spawns := l :: List.replicate 23 [] }

/-- A core that is free, with a task on its die's stack; and one with a launch's ticket next, at both ends of the classes. -/
theorem witness_CommandsAndDispatch_dispatch :
    (blocked.coreFree 48 = false ∧ blocked.coreFree 47 = true) ∧
    (let s := stacked blocked [spawn1];
      (s.dispatchSectors 47).isEmpty = true ∧ s.nextSpawn (dieOf 47) = some spawn1 ∧ s.blockFault 1 0x40001100 = none) ∧
    ∀ cls ∈ [0, 3], let l : Launch := { launch1 with lb := 0x40001100, cls := cls }
      let s : State := { blocked with launches := [l] }
      (s.dispatchSectors 47).isEmpty = true ∧ s.nextSpawn (dieOf 47) = none ∧ l.failed = false ∧ l.restoring = none ∧ l.dom = false ∧ l.grain = 0 ∧
        s.mayStart l.ctx = true ∧ (l.range (dieOf 47)).1 < (l.range (dieOf 47)).2 ∧
        s.blockFault l.ctx l.lb = none ∧ s.devNum l.ctx (l.lb + 0x10) 8 = 0 := by
  refine ⟨by decide +kernel, by decide +kernel, ?_⟩
  intro x hx
  simp only [List.mem_cons, List.not_mem_nil, or_false] at hx
  rcases hx with rfl | rfl <;> decide +kernel

/-- Die 23 steals from die 0: a range of one ticket and of four, and the oldest task of a stack of two. -/
theorem witness_CommandsAndDispatch_steal : ∀ x ∈ [(1, []), (4, []), (0, [{ spawn1 with slot := 6, num := 3 }, spawn1])],
    let l : Launch := { launch1 with counters := (5, 5 + x.1) :: List.replicate 23 (0, 0) }
    let s := stacked { blocked with launches := [l] } x.2
    l.counters.length = 24 ∧ s.spawns.length = 24 ∧ (l.range 23).2 ≤ (l.range 23).1 ∧ l.dieMask.testBit 23 = true ∧
      l.dieMask.testBit 0 = true ∧ s.mayStart l.ctx = true ∧
      (∀ d, d ≠ 0 → (l.range d).2 ≤ (l.range d).1 ∧ ∀ y ∈ atD [] s.spawns d, y.launch ≠ l.id) ∧
      decide ((l.range 0).1 < (l.range 0).2) = decide (x.1 ≠ 0) ∧
      (x.1 ≠ 0 → atD [] s.spawns 0 = []) ∧ (x.1 = 0 → atD [] s.spawns 0 = [{ spawn1 with slot := 6, num := 3 }] ++ [spawn1]) ∧
      spawn1.pool = none ∧ ((atD [] s.spawns 23).filter fun y => y.pool.isNone).length < 4096 := by
  have h1 : ∀ m n, atD ((0 : Nat), (0 : Nat)) (List.replicate m (0, 0)) n = (0, 0) := by
    intro m
    induction m with
    | zero => intro n; rfl
    | succ m ih => intro n; cases n with
      | zero => rfl
      | succ n => exact ih n
  have h2 : ∀ m n, atD ([] : List Spawn) (List.replicate m []) n = [] := by
    intro m
    induction m with
    | zero => intro n; rfl
    | succ m ih => intro n; cases n with
      | zero => rfl
      | succ n => exact ih n
  intro x hx
  simp only [List.mem_cons, List.not_mem_nil, or_false] at hx
  rcases hx with rfl | rfl | rfl <;> refine ⟨by decide, by decide, by decide, by decide, by decide, by decide, ?_, by decide, by decide, by decide, by decide,
      by decide⟩ <;>
    (intro d hd
     match d, hd with
     | 0, hd => exact absurd rfl hd
     | d + 1, _ =>
       have e1 : atD ((0 : Nat), (0 : Nat)) (List.replicate 23 (0, 0)) d = (0, 0) := h1 23 d
       have e2 : atD ([] : List Spawn) (List.replicate 23 []) d = [] := h2 23 d
       simp only [Launch.range, stacked, atD]
       rw [e1, e2]
       exact ⟨Nat.le_refl _, nofun⟩)

/-- A task that is over on its core, and one that is not. -/
theorem witness_CommandsAndDispatch_release : ∀ over_ ∈ [true, false],
    let s := repad site fun p => { p with pushed := true, fgs := p.fgs.map fun g => { g with exited := over_ } }
    ∃ p, s.pad? 0 = some p ∧ p.core = 0 ∧ p.pushed = true ∧ State.slotFree p = over_ := by
  intro x hx
  simp only [List.mem_cons, List.not_mem_nil, or_false] at hx
  rcases hx with rfl | rfl <;> exact ⟨_, rfl, rfl, rfl, by decide⟩

/-- A word that decodes, with every bit in use. -/
theorem witness_EncodeOfDecode : decodeWord (encode (.add true 5 12 6 14)) = .instr (.add true 5 12 6 14) ∧
    encode (.add true 5 12 6 14) < 2 ^ 32 := by decide

end Service
end Sys2Proof.Tests
end

/-! SUPPORT. Lane exchange and ballot (R166): O20. -/

namespace Sys2Proof.Machine

/-! ### Exchange words (R166) -/

/-- The operand values that a word's executing lanes read where none is a port: each lane's own, as they stood. -/
def ownReads (g : FileGroup) (reads : List Nat) (lanes : List Nat) : List (Nat × List Word) :=
  lanes.map fun l => (l, reads.map (g.thread l).reg)

/-- An exchange in any form: the executing lanes read in order, before any lane writes (R8, R135). -/
theorem exchange_turns {s : State} {i : Instr} {r : Run} {p : Pad} {g : FileGroup} (h : Issues s i r p g) (d : BitVec 6)
    (f : List (Nat × List Word) → Nat → List Word → Word) :
    s.exchange i d f =
      let x := (s.atEffect r g i).laneReads r g i.reads (r.executing g i)
      x.2.foldl (fun u y => u.applyWrite r.core r.fg y.1 (writeOne d.toNat (f x.2 y.1 y.2))) x.1 := by
  rw [State.exchange, runWord_issues h, State.atEffect]
  split
  · next idle =>
    rw [List.isEmpty_iff] at idle
    rw [idle]
    rfl
  · rw [(collect_turns r g i.reads h.own _ _ (sameRng_atEffect h _)).1]
    rfl

/-- Where no operand is a port, an exchange is a word that works lane by lane on what the lanes hold. -/
theorem exchange_eq_eachLane {s : State} {i : Instr} {r : Run} {p : Pad} {g : FileGroup} (h : Issues s i r p g)
    (np : NoPorts i) (d : BitVec 6) (f : List (Nat × List Word) → Nat → List Word → Word) :
    s.exchange i d f = s.runWord i fun s r' lanes => s.eachLane r' lanes i.reads fun l _ vs =>
      writeOne d.toNat (f (ownReads g i.reads (r.executing g i)) l vs) := by
  rw [exchange_turns h, runWord_issues h, State.atEffect]
  dsimp only
  rw [laneReads_eq r g i.reads np.1]
  split
  · next idle =>
    rw [List.isEmpty_iff] at idle
    rw [idle]
    rfl
  · rw [eachLane_turns r g i.reads _ h.own _ _ (sameRng_atEffect h _) h.executing_nodup, laneReads_eq r g i.reads np.1]
    rfl

/-- An exchange without ports: each executing lane has in register d what f gives it from what all of them held. -/
theorem exchange_result {s : State} {i : Instr} {r : Run} {p : Pad} {g : FileGroup} (h : Issues s i r p g) (np : NoPorts i)
    (tidy : ∀ t ∈ g.threads, t.tidy) (d : BitVec 6) (hd : d.toNat ∈ i.writes)
    (f : List (Nat × List Word) → Nat → List Word → Word) :
    LaneResult s (s.exchange i d f) i r g fun l old new =>
      WroteReg d.toNat (f (ownReads g i.reads (r.executing g i)) l (i.reads.map old.reg)) (nextPc i r) old new := by
  rw [exchange_eq_eachLane h np]
  refine eachLane_result h i.reads _ _ np.1 ?_ ?_
  · intro l x hx
    rw [List.mem_singleton.mp hx]
    exact np.2 _ hd
  · intro l _ old ho u hu
    exact wroteReg_on s.seq d.toNat _ i r old u hu (tidy old (List.mem_of_getElem? ho)) (np.2 _ hd)

/-- The partner of an index is the executing lane of that index, with its A as it stood. -/
theorem partner_ownReads (g : FileGroup) (a : Nat) (rest ex : List Nat) (j : Int) :
    partner (ownReads g (a :: rest) ex) j =
      if 0 ≤ j ∧ j.toNat ∈ ex then some ((g.thread j.toNat).reg a) else none := by
  induction ex with
  | nil => simp [partner, ownReads]
  | cons l ls ih =>
    unfold partner ownReads at ih ⊢
    rw [List.map_cons, List.find?_cons]
    by_cases hl : (l : Int) = j
    · subst hl
      simp [nth, atD]
    · have hne : 0 ≤ j → j.toNat ≠ l := by omega
      simp only [hl, decide_false, ih]
      refine if_congr ?_ rfl rfl
      grind

/-- An exchange from a partner among the executing lanes gives its A as it stood, and otherwise the lane's own. -/
theorem fromPartner_ownReads (g : FileGroup) (a : Nat) (rest ex : List Nat) (vs : List Word) (j : Int) :
    fromPartner (ownReads g (a :: rest) ex) vs j =
      if 0 ≤ j ∧ j.toNat ∈ ex then (g.thread j.toNat).reg a else nth vs 0 := by
  rw [fromPartner, partner_ownReads]
  split <;> rfl

/-- A lane adds the powers of two that a predicate selects, the lowest first: the bits of the sum are the predicate's. -/
theorem testBit_sum_powers (c : Nat → Bool) (n : Nat) : ∀ k acc, acc < 2 ^ k → ∀ j,
    (((upFrom k n).map fun j => if c j then 2 ^ j else 0).foldl (· + ·) acc).testBit j =
      if k ≤ j ∧ j < k + n then c j else acc.testBit j := by
  induction n with
  | zero =>
    intro k acc _ j
    rw [if_neg (by omega)]
    rfl
  | succ n ih =>
    intro k acc hacc j
    have hor : acc + (if c k then 2 ^ k else 0) = 2 ^ k * (c k).toNat ||| acc := by
      rw [← Nat.two_pow_add_eq_or_of_lt hacc]
      cases c k <;> simp [Nat.add_comm]
    have hlt : acc + (if c k then 2 ^ k else 0) < 2 ^ (k + 1) := by
      rw [Nat.pow_succ]
      split <;> omega
    rw [upFrom, List.map_cons, List.foldl_cons, ih (k + 1) _ hlt, hor, Nat.testBit_or]
    by_cases hj : j = k
    · subst hj
      rw [if_neg (by omega), if_pos (by omega), Nat.testBit_lt_two_pow hacc]
      cases c j <;> simp
    · have hk : (2 ^ k * (c k).toNat).testBit j = false := by
        cases c k <;> simp [Ne.symm hj]
      rw [hk, Bool.false_or]
      exact if_congr (by omega) rfl rfl

/-- `ballot`: bit j is set when lane base + j executes it and its A is not 0. -/
theorem getLsbD_ballotOf (g : FileGroup) (a : Nat) (rest ex : List Nat) (l j : Nat) (hj : j < 32) :
    (ballotOf (ownReads g (a :: rest) ex) l).getLsbD j =
      decide (l / 32 * 32 + j ∈ ex ∧ (g.thread (l / 32 * 32 + j)).reg a ≠ 0) := by
  have hterm : ∀ j : Nat, (match partner (ownReads g (a :: rest) ex) ((l / 32 * 32 + j : Nat) : Int) with
      | some v => if v ≠ 0 then 2 ^ j else 0
      | none => 0) =
      if decide (l / 32 * 32 + j ∈ ex ∧ (g.thread (l / 32 * 32 + j)).reg a ≠ 0) then 2 ^ j else 0 := by
    intro j
    rw [partner_ownReads, Int.toNat_natCast]
    simp only [Int.natCast_nonneg, true_and]
    by_cases hm : l / 32 * 32 + j ∈ ex <;> simp [hm]
  have hsum := testBit_sum_powers
    (fun j => decide (l / 32 * 32 + j ∈ ex ∧ (g.thread (l / 32 * 32 + j)).reg a ≠ 0)) 32 0 0 (by decide) j
  rw [if_pos (by omega)] at hsum
  rw [ballotOf, BitVec.getLsbD_ofNat, decide_eq_true hj, Bool.true_and, ← hsum]
  congr 3
  funext j
  exact hterm j

/-- A lane's result may be told in weaker terms. -/
theorem LaneResult.mono {s t : State} {i : Instr} {r : Run} {g : FileGroup} {post weaker : Nat → Thread → Thread → Prop}
    (h : LaneResult s t i r g post) (hw : ∀ l old new, post l old new → weaker l old new) :
    LaneResult s t i r g weaker := by
  refine ⟨h.rest, h.others, fun l hl old ho => ?_⟩
  obtain ⟨new, hnew, same, idle, wrote⟩ := h.lanes l hl old ho
  exact ⟨new, hnew, same, idle, fun he => hw l old new (wrote he)⟩

/-- `shfl` and its forms without ports: each executing lane has A of the executing lane that `from_` names, or its own. -/
theorem exchange_fromPartner {s : State} {i : Instr} {r : Run} {p : Pad} {g : FileGroup} (h : Issues s i r p g)
    (np : NoPorts i) (tidy : ∀ t ∈ g.threads, t.tidy) (d : BitVec 6) (hd : d.toNat ∈ i.writes) (a b : Nat)
    (hr : i.reads = [a, b]) (from_ : Nat → Nat → Int) :
    LaneResult s (s.exchange i d fun ps l vs => fromPartner ps vs (from_ l (nth vs 1).toNat)) i r g fun l old new =>
      let j := from_ l (old.reg b).toNat
      WroteReg d.toNat (if 0 ≤ j ∧ j.toNat ∈ r.executing g i then (g.thread j.toNat).reg a else old.reg a) (nextPc i r)
        old new := by
  refine (exchange_result h np tidy d hd _).mono fun l old new hw => ?_
  rw [hr, fromPartner_ownReads] at hw
  exact hw

/-- `ballot` without ports: each executing lane has the bits of the executing lanes whose A is not 0. -/
theorem exchange_ballotOf {s : State} {i : Instr} {r : Run} {p : Pad} {g : FileGroup} (h : Issues s i r p g)
    (np : NoPorts i) (tidy : ∀ t ∈ g.threads, t.tidy) (d : BitVec 6) (hd : d.toNat ∈ i.writes) (a : Nat)
    (hr : i.reads = [a]) :
    LaneResult s (s.exchange i d fun ps l _ => ballotOf ps l) i r g fun l old new =>
      ∃ v, WroteReg d.toNat v (nextPc i r) old new ∧ ∀ j, j < 32 → v.getLsbD j =
        decide (l / 32 * 32 + j ∈ r.executing g i ∧ (g.thread (l / 32 * 32 + j)).reg a ≠ 0) := by
  refine (exchange_result h np tidy d hd _).mono fun l old new hw => ⟨_, hw, fun j hj => ?_⟩
  rw [hr]
  exact getLsbD_ballotOf g a [] _ l j hj

/-- Settles O20: the four forms take A from the lane that their index names, and `ballot` from all. -/
theorem exchangeWords : Obligations.ExchangeWords := by
  unfold Obligations.ExchangeWords
  intro s c gd d a b which r p g i ex from_ h
  have hd : d.toNat ∈ i.writes := by
    fin_cases which <;> exact List.mem_singleton_self _
  by_cases h4 : which = 4
  · subst h4
    refine ⟨fun np tidy => ⟨_, rfl, ?_⟩, congrArg Host.Outcome.next (exchange_turns h d _)⟩
    exact (exchange_ballotOf h np tidy d hd a.toNat rfl).mono fun l old new hw =>
      ⟨fun hlt => absurd hlt (by decide), fun _ => hw⟩
  · obtain ⟨hx, hr⟩ : exec i s = .next (s.exchange i d fun ps l vs => fromPartner ps vs (from_ l (nth vs 1).toNat)) ∧
        i.reads = [a.toNat, b.toNat] := by
      fin_cases which
      · exact ⟨rfl, rfl⟩
      · exact ⟨rfl, rfl⟩
      · exact ⟨rfl, rfl⟩
      · exact ⟨rfl, rfl⟩
      · exact absurd rfl h4
    have hv : which.val ≠ 4 := fun e => h4 (Fin.ext e)
    refine ⟨fun np tidy => ⟨_, hx, ?_⟩, ?_⟩
    · exact (exchange_fromPartner h np tidy d hd _ _ hr from_).mono fun l old new hw =>
        ⟨fun _ => hw, fun e => absurd e hv⟩
    · simp only [if_neg hv]
      exact hx.trans (congrArg Host.Outcome.next (exchange_turns h d _))

end Sys2Proof.Machine

/-! SUPPORT. What fault records and the tap's own housekeeping leave unchanged: the frame of a record that is applied (R96, R307). -/

namespace Sys2Proof.Machine

/-! ### What the report engine leaves (R307, R308) -/

/-- The two states are the same but for memory, the fault queues, the trigger table, the context records, the service
registers and the fabric: all that fault records, and what follows an update of memory, can change where no access is in
flight. -/
def SameButReports (s t : State) : Prop :=
  ∃ mem faultQs triggers ctxs service fabric, t = { s with
    mem := mem, faultQs := faultQs, triggers := triggers, ctxs := ctxs, service := service, fabric := fabric }

namespace SameButReports

theorem refl (s : State) : SameButReports s s := ⟨_, _, _, _, _, _, rfl⟩

theorem trans {s t u : State} : SameButReports s t → SameButReports t u → SameButReports s u := by
  rintro ⟨_, _, _, _, _, _, rfl⟩ ⟨_, _, _, _, _, _, rfl⟩
  exact ⟨_, _, _, _, _, _, rfl⟩

theorem pads {s t : State} : SameButReports s t → t.pads = s.pads := by rintro ⟨_, _, _, _, _, _, rfl⟩; rfl
theorem tap {s t : State} : SameButReports s t → t.tap = s.tap := by rintro ⟨_, _, _, _, _, _, rfl⟩; rfl
theorem queues {s t : State} : SameButReports s t → t.queues = s.queues := by rintro ⟨_, _, _, _, _, _, rfl⟩; rfl

theorem foldl {α : Type} (f : State → α → State) (hf : ∀ s x, SameButReports s (f s x)) (l : List α) :
    ∀ s, SameButReports s (l.foldl f s) := by
  induction l with
  | nil => exact refl
  | cons x rest ih => exact fun s => (hf s x).trans (ih _)

theorem recallGuests (s : State) (line : Nat) : SameButReports s (s.recallGuests line) :=
  ⟨_, _, _, _, _, _, rfl⟩

theorem ownWait (s : State) (key n : Nat) : SameButReports s (s.ownWait key n) := by
  refine foldl _ (fun s l => ?_) _ s
  split
  · exact recallGuests s l
  · exact refl s

theorem ownStoreFrom (s : State) (floor key : Nat) (bs : List Byte) : SameButReports s (s.ownStoreFrom floor key bs) :=
  (foldl _ recallGuests (linesFrom key bs.length) s).trans ⟨_, _, _, _, _, _, rfl⟩

theorem ownStore (s : State) (key : Nat) (bs : List Byte) : SameButReports s (s.ownStore key bs) := ownStoreFrom s 0 key bs

theorem setFaultQ (s : State) (x : FaultQ) : SameButReports s (s.setFaultQ x) := ⟨_, _, _, _, _, _, rfl⟩

theorem fire (s : State) : SameButReports s s.fire := ⟨_, _, _, _, _, _, rfl⟩

theorem counterAdd (s : State) (ctx i v : Nat) : SameButReports s (s.counterAdd ctx i v) := by
  unfold State.counterAdd
  split
  · exact refl s
  · exact (ownStore s _ _).trans (fire _)

theorem queueCounter (s : State) (ctx : Nat) (q : Nat × Nat) : SameButReports s (s.queueCounter ctx q) := by
  unfold State.queueCounter
  split
  · exact counterAdd s _ _ _
  · exact refl s

theorem recallCounter (s : State) (ctx i : Nat) : SameButReports s (s.recallCounter ctx i) := by
  unfold State.recallCounter
  split
  · exact refl s
  · exact ownWait s _ _

theorem writeTail (s : State) (c : Option Nat) (q : Nat × Nat) : SameButReports s (s.writeTail c q) := by
  unfold State.writeTail
  dsimp only
  split
  · exact refl s
  · split
    · split
      · exact recallCounter s _ _
      · exact refl s
    · split
      · exact ownWait s _ _
      · split
        · have written : ∀ key bs x, SameButReports s ((s.ownStore key bs).setFaultQ x) := fun key bs x =>
            (ownStore s key bs).trans (setFaultQ _ x)
          cases c with
          | some ctx => exact (written _ _ _).trans (queueCounter _ ctx q)
          | none => exact (written _ _ _).trans ⟨_, _, _, _, _, _, rfl⟩
        · exact refl s

theorem writeRecord (s : State) (c : Option Nat) (q : Nat × Nat) : SameButReports s (s.writeRecord c q) := by
  unfold State.writeRecord
  dsimp only
  split
  · split
    · exact refl s
    · split
      · exact ownWait s _ _
      · exact (ownStore s _ _).trans (setFaultQ _ _)
  · exact refl s

theorem drainQueue (c : Option Nat) (q : Nat × Nat) (n : Nat) : ∀ s : State, SameButReports s (s.drainQueue c q n) := by
  induction n with
  | zero => exact fun s => writeTail s c q
  | succ n ih => exact fun s => ((writeTail s c q).trans (writeRecord _ c q)).trans (ih _)

theorem drainAll (s : State) : SameButReports s s.drainAll := by
  refine foldl _ (fun s x => ?_) _ s
  split
  · exact refl s
  · exact drainQueue _ _ _ s

theorem fileRecord (s : State) (c : Option Nat) (q : Nat × Nat) (v : BitVec 256) : SameButReports s (s.fileRecord c q v) := by
  unfold State.fileRecord
  dsimp only
  split
  · exact (drainQueue c q _ s).trans (ownStore _ _ _)
  · exact ((drainQueue c q _ s).trans (setFaultQ _ _)).trans (drainQueue c q _ _)

theorem systemRecord (s : State) (v : BitVec 256) : SameButReports s (s.systemRecord v) := by
  unfold State.systemRecord
  split
  · exact ⟨_, _, _, _, _, _, rfl⟩
  · exact fileRecord s none _ v

theorem report (s : State) (r : FaultRec) (toCtx toSys : Bool) : SameButReports s (s.report r toCtx toSys) := by
  unfold State.report
  dsimp only
  split
  · split
    · exact systemRecord s _
    · exact refl s
  · next q _ =>
    have filed : SameButReports s (if toCtx then s.contextRecord r.ctx q (r.value (s.dieClk r.reporter)) else s) := by
      split
      · exact fileRecord s _ _ _
      · exact refl s
    split
    · exact filed.trans (systemRecord _ _)
    · exact filed

theorem tapRecord (s : State) (cause info : Nat) (stall sys : Bool) : SameButReports s (s.tapRecord cause info stall sys) :=
  SameButReports.trans (t := s.tellManager cause info) ⟨_, _, _, _, _, _, rfl⟩ (report _ _ _ _)

/-- Where no access is in flight, what follows an update of memory touches no thread. -/
theorem afterUpdate (s : State) (h : s.mem.ops = []) : SameButReports s s.afterUpdate := by
  have quiet : s.scanWatches = s := by rw [State.scanWatches, h]; rfl
  rw [State.afterUpdate, quiet]
  exact ((fire s).trans (drainAll _)).trans ⟨_, _, _, _, _, _, rfl⟩

end SameButReports

/-- The same pad groups have the same registers. -/
theorem sameRegs_of_pads {s t : State} (h : t.pads = s.pads) : SameRegs s t := by
  intro c f l
  simp only [State.thread?, State.fg?, State.pad?, h]

/-! ### The head record of the tap (R96) -/

/-- The tap has moved past a record, which it held alone: of units, tap and queues nothing else has changed. -/
structure MovedPast (r : Stamped) (s t : State) : Prop where
  pads : t.pads = s.pads
  queues : t.queues = s.queues
  tap : ∃ skip since said, t.tap = { s.tap with
    applied := r.lsn, pending := [], skip := skip, lagSince := since, lagSaid := said }

namespace MovedPast

variable {r : Stamped} {s t : State}

theorem sameRegs (h : MovedPast r s t) : SameRegs s t := sameRegs_of_pads h.pads
theorem applied (h : MovedPast r s t) : Applied t r := by obtain ⟨_, _, _, e⟩ := h.tap; rw [Applied, e]; exact ⟨rfl, rfl⟩
theorem cmem (h : MovedPast r s t) : t.tap.cmem = s.tap.cmem := by obtain ⟨_, _, _, e⟩ := h.tap; rw [e]
theorem keys (h : MovedPast r s t) : t.tap.keys = s.tap.keys := by obtain ⟨_, _, _, e⟩ := h.tap; rw [e]
theorem missing (h : MovedPast r s t) : t.tap.missing = s.tap.missing := by obtain ⟨_, _, _, e⟩ := h.tap; rw [e]
theorem ptePending (h : MovedPast r s t) : t.tap.ptePending = s.tap.ptePending := by obtain ⟨_, _, _, e⟩ := h.tap; rw [e]
theorem redo (h : MovedPast r s t) : t.tap.redo = s.tap.redo := by obtain ⟨_, _, _, e⟩ := h.tap; rw [e]

theorem cmRead (h : MovedPast r s t) (a n : Nat) : t.cmRead a n = s.cmRead a n := by rw [State.cmRead, h.cmem]; rfl

theorem reports {u : State} (h : MovedPast r s t) (k : SameButReports t u) : MovedPast r s u :=
  ⟨k.pads.trans h.pads, k.queues.trans h.queues, k.tap ▸ h.tap⟩

end MovedPast

/-- The tap holds a record of another module and nothing else, and no access is in flight. -/
structure State.HoldsOnly (s : State) (r : Stamped) : Prop where
  only : s.tap.pending = [r]
  whole : s.tap.redo = []
  foreign : s.tap.own r.lsn = none
  ops : s.mem.ops = []

theorem State.AtHead.holdsOnly {s : State} {r : Stamped} (h : s.AtHead r) : s.HoldsOnly r :=
  ⟨h.only, h.whole, h.foreign, h.ops⟩

/-- The fetch of another module's record is delivered to nobody (R97). -/
theorem deliver_foreign {s : State} {lsn : Nat} (h : s.tap.own lsn = none) (fetch : Nat) (host : Bool) :
    s.deliver lsn fetch host = s := by
  rw [State.deliver, h]

/-- The tap behind a record that it has applied or passed over (R96, R355). -/
def Tap_.behind (r : Stamped) (now : Nat) (t : Tap_) : Tap_ :=
  ({ t with applied := r.lsn, pending := t.pending.drop 1, skip := t.skip.filter fun x => decide (r.lsn < x.2) } :
    Tap_).noteLag now

theorem Tap_.behind_eq (r : Stamped) (now : Nat) (t : Tap_) : ∃ skip since said, t.behind r now = { t with
    applied := r.lsn, pending := t.pending.drop 1, skip := skip, lagSince := since, lagSaid := said } := by
  unfold Tap_.behind Tap_.noteLag
  split <;> exact ⟨_, _, _, rfl⟩

/-- Where the sender is elsewhere and nobody waits, the tap alone moves on. -/
theorem advanceTap_eq {s : State} {r : Stamped} (h : s.HoldsOnly r) :
    s.advanceTap r = s.mapTap (Tap_.behind r s.clk) := by
  obtain ⟨_, _, _, behind⟩ := Tap_.behind_eq r s.clk s.tap
  have foreign : (s.tap.behind r s.clk).own r.lsn = none := by rw [behind]; exact h.foreign
  have done : (s.mapTap (Tap_.behind r s.clk)).hbqDone r.lsn = s.mapTap (Tap_.behind r s.clk) := by
    rw [State.hbqDone, State.mapTap_tap, foreign]
  rw [State.advanceTap, h.whole, List.isEmpty_nil, if_pos rfl]
  change ((s.mapTap (Tap_.behind r s.clk)).hbqDone r.lsn).scanCmWaits = _
  rw [done, State.scanCmWaits, State.mapTap_mem, h.ops]
  rfl

theorem advanceTap_movedPast {s : State} {r : Stamped} (h : s.HoldsOnly r) : MovedPast r s (s.advanceTap r) := by
  obtain ⟨_, _, _, behind⟩ := Tap_.behind_eq r s.clk s.tap
  rw [advanceTap_eq h]
  exact ⟨rfl, rfl, _, _, _, by rw [State.mapTap_tap, behind, h.only]; rfl⟩

/-- A tap that holds nothing settles: it may complete its join (R354). -/
theorem settleTap_reports {s : State} (pending : s.tap.pending = []) (redo : s.tap.redo = []) :
    SameButReports s s.settleTap := by
  have held : State.passReserved (s.tap.pending.length + s.tap.redo.length + 1) s = s := by
    rw [State.passReserved, Tap_.next?, pending, redo]
  rw [State.settleTap, held, State.joined]
  split
  · exact SameButReports.trans (t := s.setReady 83 true) ⟨_, _, _, _, _, _, rfl⟩ (.tapRecord _ _ _ _ _)
  · exact .refl s

/-- The tap moves past the record it holds alone, and settles. -/
theorem advanceTap_settleTap {s : State} {r : Stamped} (h : s.HoldsOnly r) :
    MovedPast r s ((s.advanceTap r).settleTap) := by
  have moved := advanceTap_movedPast h
  exact moved.reports (settleTap_reports moved.applied.2 (moved.redo.trans h.whole))

end Sys2Proof.Machine

/-! SUPPORT. Records applied to the replica and the queues (R94-R97, R99, R275). -/

namespace Sys2Proof.Machine

/-! ### Numbers in bytes, and the replica's words (R4, R95) -/

@[simp] theorem length_leBytes (n v : Nat) : (leBytes n v).length = n := by
  induction n generalizing v with
  | zero => rfl
  | succ n ih => rw [leBytes, List.length_cons, ih]

/-- The bytes of a number give it back, as far as they go. -/
theorem leValue_leBytes (n v : Nat) : leValue (leBytes n v) = v % 2 ^ (8 * n) := by
  induction n generalizing v with
  | zero => rw [leBytes, leValue, Nat.mul_zero, Nat.pow_zero, Nat.mod_one]
  | succ n ih =>
    have width : 2 ^ (8 * (n + 1)) = 2 ^ 8 * 2 ^ (8 * n) := by rw [← Nat.pow_add, Nat.mul_succ, Nat.add_comm]
    rw [leBytes, leValue, ih, BitVec.toNat_ofNat, width, Nat.mod_mul]
    rfl

theorem leValue_lt (bs : List Byte) : leValue bs < 2 ^ (8 * bs.length) := by
  induction bs with
  | nil => decide
  | cons b rest ih =>
    rw [leValue, List.length_cons, Nat.mul_succ, Nat.pow_add]
    have := b.isLt
    omega

@[simp] theorem length_tabGetMany {α : Type} (d : α) (t : Tab α) (x n : Nat) : (tabGetMany d t x n).length = n := by
  induction n generalizing x with
  | zero => rfl
  | succ n ih => rw [tabGetMany, List.length_cons, ih]

theorem getElem?_tabGetMany {α : Type} (d : α) (t : Tab α) (x n i : Nat) :
    (tabGetMany d t x n)[i]? = if i < n then some (tabGet d t (x + i)) else none := by
  induction n generalizing x i with
  | zero => rfl
  | succ n ih =>
    cases i with
    | zero => rw [tabGetMany, List.getElem?_cons_zero, if_pos (by omega), Nat.add_zero]
    | succ i =>
      rw [tabGetMany, List.getElem?_cons_succ, ih, Nat.add_right_comm, Nat.add_assoc]
      exact if_congr (by omega) rfl rfl

/-- Consecutive values read back as they were written. -/
theorem tabGetMany_tabSetMany {α : Type} [DecidableEq α] (d : α) (t : Tab α) (x : Nat) (ws : List α) (h : tabWf d t = true) :
    tabGetMany d (tabSetMany d t x ws) x ws.length = ws := by
  apply List.ext_getElem?
  intro i
  rw [getElem?_tabGetMany]
  split
  · next hi =>
    rw [tabGet_tabSetMany d t x (x + i) ws h, if_pos (by omega), Nat.add_sub_cancel_left, List.getElem?_eq_getElem hi]
    rfl
  · next hi => rw [List.getElem?_eq_none (by omega)]

theorem cmRead_lt (s : State) (a n : Nat) : s.cmRead a n < 2 ^ (8 * n) := by
  have := leValue_lt (tabGetMany 0 s.tap.cmem a n)
  rwa [length_tabGetMany] at this

/-- A number written to the replica reads back. -/
theorem cmRead_cmWrite (s : State) (a n v : Nat) (wf : tabWf (0 : Byte) s.tap.cmem = true) :
    (s.cmWrite a n v).cmRead a n = v % 2 ^ (8 * n) := by
  have back := tabGetMany_tabSetMany (0 : Byte) s.tap.cmem a (leBytes n v) wf
  rw [length_leBytes] at back
  rw [State.cmRead, State.cmWrite, back, leValue_leBytes]

/-- Every byte of the replica outside a write stays. -/
theorem tabGet_cmWrite (s : State) (a n v k : Nat) (wf : tabWf (0 : Byte) s.tap.cmem = true) (hk : k < a ∨ a + n ≤ k) :
    tabGet 0 (s.cmWrite a n v).tap.cmem k = tabGet 0 s.tap.cmem k := by
  rw [State.cmWrite, tabGet_tabSetMany _ _ _ _ _ wf, length_leBytes, if_neg (by omega)]

theorem State.HoldsOnly.cmWrite {s : State} {r : Stamped} (h : s.HoldsOnly r) (a n v : Nat) :
    (s.cmWrite a n v).HoldsOnly r := ⟨h.only, h.whole, h.foreign, h.ops⟩

/-! ### STORE, ADD and CLAIM (R97) -/

/-- Bytes of the word that a STORE, ADD or CLAIM works on. -/
def Stamped.width (r : Stamped) : Nat := if hdrType r.hdr = 3 ∨ hdrSize r.hdr = 1 then 8 else 4

/-- What a STORE, ADD or CLAIM makes of its word. -/
def Stamped.value (r : Stamped) (old : Nat) : Nat :=
  if hdrType r.hdr = 1 then r.p1.toNat % 2 ^ (8 * r.width)
  else if hdrType r.hdr = 2 then (old + r.p1.toNat) % 2 ^ (8 * r.width)
  else if old = 0 then hdrCtx r.hdr * 2 ^ 48 + r.lsn % 2 ^ 48 else old

/-- A record whose bytes lie in its owner's partition writes them (R97). -/
theorem cmApply_placed {s : State} {r : Stamped} {a : Nat} (type : hdrType r.hdr = 1 ∨ hdrType r.hdr = 2 ∨ hdrType r.hdr = 3)
    (size : hdrSize r.hdr ≤ 1) (place : s.cmPlace (hdrOwner r.hdr) (r.p0.toNat % 2 ^ 22) r.width = some a) :
    s.cmApply r = some (s.cmWrite a r.width (r.value (s.cmRead a r.width)), s.cmRead a r.width) := by
  have width : (if hdrType r.hdr = 3 then 8 else if hdrSize r.hdr = 0 then 4 else 8) = r.width := by
    unfold Stamped.width
    split_ifs <;> omega
  unfold State.cmApply
  dsimp only
  rw [width, place, if_neg (by omega)]
  rcases type with type | type | type <;> simp [Stamped.value, type]

/-- A value that a record makes fits its word: a claim's context and LSN fill 64 bits. -/
theorem Stamped.value_lt (r : Stamped) (old : Nat) (h : old < 2 ^ (8 * r.width))
    (type : hdrType r.hdr = 1 ∨ hdrType r.hdr = 2 ∨ hdrType r.hdr = 3) : r.value old < 2 ^ (8 * r.width) := by
  unfold Stamped.value
  split
  · exact Nat.mod_lt _ (by positivity)
  · split
    · exact Nat.mod_lt _ (by positivity)
    · have width : r.width = 8 := by unfold Stamped.width; rw [if_pos (by omega)]
      rw [width] at h ⊢
      unfold hdrCtx
      split <;> omega

/-- A STORE, ADD or CLAIM at the head writes its word, and the tap moves past it. -/
theorem applyCm_movedPast {s : State} {r : Stamped} {a : Nat} (h : s.AtHead r)
    (type : hdrType r.hdr = 1 ∨ hdrType r.hdr = 2 ∨ hdrType r.hdr = 3) (size : hdrSize r.hdr ≤ 1)
    (place : s.cmPlace (hdrOwner r.hdr) (r.p0.toNat % 2 ^ 22) r.width = some a) :
    MovedPast r (s.cmWrite a r.width (r.value (s.cmRead a r.width))) (s.applyCm (hdrType r.hdr)) := by
  have holds := h.holdsOnly.cmWrite a r.width (r.value (s.cmRead a r.width))
  unfold State.applyCm
  rw [h.next]
  simp only [ne_eq, not_true_eq_false, if_false, h.counts, Bool.false_eq_true, cmApply_placed type size place]
  rw [deliver_foreign holds.foreign]
  exact advanceTap_settleTap holds

/-- What a STORE, ADD or CLAIM leaves: its word has its value, every other byte of the replica and every register stays. -/
theorem applyCm_result {s : State} {r : Stamped} {a : Nat} (h : s.AtHead r)
    (type : hdrType r.hdr = 1 ∨ hdrType r.hdr = 2 ∨ hdrType r.hdr = 3) (size : hdrSize r.hdr ≤ 1)
    (wf : tabWf (0 : Byte) s.tap.cmem = true)
    (place : s.cmPlace (hdrOwner r.hdr) (r.p0.toNat % 2 ^ 22) r.width = some a) :
    let t := s.applyCm (hdrType r.hdr)
    Applied t r ∧ t.tap.missing = s.tap.missing ∧ SameRegs s t ∧
      t.cmRead a r.width = r.value (s.cmRead a r.width) ∧
      ∀ k, k < a ∨ a + r.width ≤ k → tabGet 0 t.tap.cmem k = tabGet 0 s.tap.cmem k := by
  have moved := applyCm_movedPast h type size place
  refine ⟨moved.applied, moved.missing, moved.sameRegs, ?_, fun k hk => ?_⟩
  · rw [moved.cmRead, cmRead_cmWrite _ _ _ _ wf, Nat.mod_eq_of_lt (Stamped.value_lt r _ (cmRead_lt s a _) type)]
  · rw [moved.cmem, tabGet_cmWrite _ _ _ _ _ wf hk]

/-! ### LAUNCH and management records (R99, R275) -/

/-- A LAUNCH record for a context bound to a queue enters it, behind what its ring holds (R99). -/
theorem launchApply_bound {s : State} {r : Stamped} {q : Nat} (named : r.p1.toNat.testBit s.tap.position = true)
    (bound : s.boundQueue (hdrCtx r.hdr) = some q) (desc : (s.desc (hdrCtx r.hdr)).isSome) :
    s.launchApply r = s.mapSub q fun k => { k with waiting := k.waiting ++
      [Waiting.mk (hdrCtx r.hdr) (r.p0.toNat % 2 ^ 57) r.p1.toNat (hdrAux r.hdr) (hdrOwner r.hdr) r.lsn k.tail] } := by
  unfold State.launchApply
  simp only [named, Bool.not_true, Bool.false_eq_true, if_false, bound, Option.isNone_eq_false_iff.mpr desc]

/-- A LAUNCH record that does not name the module does nothing here (R99). -/
theorem launchApply_elsewhere {s : State} {r : Stamped} (other : r.p1.toNat.testBit s.tap.position = false) :
    s.launchApply r = s := by
  unfold State.launchApply
  simp only [other, Bool.not_false, if_true]

/-- A LAUNCH record at the head is applied, and the tap moves past it. -/
theorem applyLaunch_movedPast {s : State} {r : Stamped} (h : s.AtHead r) (type : hdrType r.hdr = 4)
    (holds : (s.launchApply r).HoldsOnly r) : MovedPast r (s.launchApply r) s.applyLaunch := by
  unfold State.applyLaunch
  rw [h.next]
  simp only [type, ne_eq, not_true_eq_false, if_false, h.counts, Bool.false_eq_true]
  rw [deliver_foreign holds.foreign]
  exact advanceTap_settleTap holds

/-- A management record at the head is applied, and the tap moves past it. -/
theorem applyManagement_movedPast {s : State} {r : Stamped} (h : s.AtHead r) (owner : hdrOwner r.hdr = 0)
    (f : State → Stamped → State) (holds : (f s r).HoldsOnly r) :
    MovedPast r (f s r) (s.applyManagement (hdrType r.hdr) f) := by
  unfold State.applyManagement
  rw [h.next]
  simp only [owner, and_self, if_true, h.counts, Bool.false_eq_true, if_false]
  exact advanceTap_settleTap holds

/-- A KEYROLL gives the owner the key from its LSN on (R275). -/
theorem tabGet_keyrollApply (s : State) (r : Stamped) (wf : tabWf (0 : Nat) s.tap.keys = true) :
    tabGet 0 (s.keyrollApply r).tap.keys (r.p0.toNat % 4096) = s.tap.keyFor (r.p0.toNat % 4096) (r.lsn + 1) := by
  rw [State.keyrollApply, State.mapTap_tap, tabGet_tabSet _ _ _ _ _ wf, if_pos rfl]

end Sys2Proof.Machine

/-! SUPPORT. Device writes that take place at once (R375), PTE records (R98), and O48. -/

namespace Sys2Proof.Machine

/-! ### A device write that takes place at once (R63, R375) -/

/-- The cells of consecutive bytes, put one after another, stand in order. -/
theorem foldl_putCell_cellsFrom (bs : List Byte) : ∀ (k : Nat) (front : List Host.Cell), (∀ c ∈ front, c.1 < k) →
    (cellsFrom k bs).foldl putCell front = front ++ cellsFrom k bs := by
  have last : ∀ (front : List Host.Cell) (c : Host.Cell), (∀ x ∈ front, x.1 < c.1) → putCell front c = front ++ [c] := by
    intro front c
    induction front with
    | nil => exact fun _ => rfl
    | cons x rest ih =>
      intro below
      rw [List.forall_mem_cons] at below
      rw [putCell, if_neg (by omega), ih below.2, List.cons_append]
  induction bs with
  | nil => exact fun k front _ => (List.append_nil front).symm
  | cons b rest ih =>
    intro k front below
    rw [cellsFrom, List.foldl_cons, last front (k, b) below, ih (k + 1), List.append_assoc, List.singleton_append]
    intro c hc
    rcases List.mem_append.mp hc with hc | hc
    · exact Nat.lt_succ_of_lt (below c hc)
    · rw [List.mem_singleton.mp hc]
      exact Nat.lt_succ_self k

/-- Consecutive bytes that become current are written from their first key up. -/
theorem Mem.bytes_setCurrents (wt : Nat) (bs : List Byte) : ∀ (m : Mem) (k : Nat),
    ((cellsFrom k bs).foldl (fun m c => m.setCurrent wt c) m).bytes = tabSetMany 0 m.bytes k bs := by
  induction bs with
  | nil => exact fun _ _ => rfl
  | cons b rest ih => exact fun m k => ih (m.setCurrent wt (k, b)) (k + 1)

/-- A device write to a line that is free has the tick of the write as its write time. -/
theorem Mem.ownWt_free {m : Mem} {line now : Nat} (current : m.pending line = none) (free : m.leaseOver line now) :
    m.ownWt line now 0 = now := by
  unfold Mem.leaseOver at free
  rw [Mem.ownWt, current]
  dsimp only
  rw [if_pos (by omega), Nat.zero_max]

/-- A device write within one free line is current at once. -/
theorem Mem.bytes_ownLine {m : Mem} {now key : Nat} (bs : List Byte) (current : m.pending (lineOf key) = none)
    (free : m.leaseOver (lineOf key) now) : (m.ownLine now 0 key bs).bytes = tabSetMany 0 m.bytes key bs := by
  have still : m.commitDue (lineOf key) now = m := by rw [Mem.commitDue, current]
  have put : (m.dropFree (lineOf key)).putPending (lineOf key) now (cellsFrom key bs) =
      { m.dropFree (lineOf key) with
        pend := { line := lineOf key, wt := now, bytes := cellsFrom key bs } :: m.pend } := by
    rw [Mem.putPending, show (m.dropFree (lineOf key)).pending (lineOf key) = none from current,
      foldl_putCell_cellsFrom bs key [] (fun _ h => absurd h List.not_mem_nil)]
    rfl
  unfold Mem.ownLine
  dsimp only
  rw [still, show (m.dropFree (lineOf key)).ownWt (lineOf key) now 0 = now from Mem.ownWt_free current free, put]
  simp only [Mem.unpoison, Mem.commitDue, Mem.commit, Mem.pending, List.find?_cons, decide_true, le_refl, if_true, Mem.noteMet]
  exact Mem.bytes_setCurrents now bs _ key

/-- A device write that lies in one free line is current at once. -/
theorem Mem.bytes_ownStore {m : Mem} {now key : Nat} {bs : List Byte} (line : oneLine key bs.length)
    (current : m.pending (lineOf key) = none) (free : m.leaseOver (lineOf key) now) :
    (m.ownStore now 0 key bs).bytes = tabSetMany 0 m.bytes key bs := by
  obtain ⟨pos, same⟩ := line
  have room : bs.length ≤ 256 - key % 256 := by unfold lineOf at same; omega
  have nonempty : bs.isEmpty = false := by cases bs <;> simp_all
  have one : m.ownStore now 0 key bs = m.ownLine now 0 key bs := by
    unfold Mem.ownStore Mem.ownLines
    simp only [nonempty, Bool.false_eq_true, if_false, List.take_of_length_le room, List.drop_eq_nil_of_le room]
    unfold Mem.ownLines
    rfl
  rw [one, Mem.bytes_ownLine bs current free]

/-- Recalling lines from the guest dies changes nothing but what is recalled. -/
theorem recallGuests_foldl (ls : List Nat) : ∀ s : State, ∃ recalls,
    ls.foldl (fun (s : State) l => s.recallGuests l) s = s.mapMem fun m => { m with recalls := recalls } := by
  induction ls with
  | nil => exact fun s => ⟨s.mem.recalls, rfl⟩
  | cons l rest ih =>
    intro s
    obtain ⟨recalls, h⟩ := ih (s.recallGuests l)
    exact ⟨recalls, h⟩

/-- The bytes of memory after a device write that takes place at once. -/
theorem State.bytes_ownStore {s : State} {key : Nat} {bs : List Byte} (h : s.Direct key bs.length) :
    (s.ownStore key bs).mem.bytes = tabSetMany 0 s.mem.bytes key bs := by
  obtain ⟨recalls, recalled⟩ := recallGuests_foldl (linesFrom key bs.length) s
  unfold State.ownStore State.ownStoreFrom
  dsimp only
  rw [recalled]
  exact Mem.bytes_ownStore (m := { s.mem with recalls := recalls }) h.line h.current h.free

/-- A device write changes memory and nothing else. -/
theorem ownStore_eq (s : State) (key : Nat) (bs : List Byte) : ∃ mem, s.ownStore key bs = { s with mem := mem } := by
  obtain ⟨recalls, recalled⟩ := recallGuests_foldl (linesFrom key bs.length) s
  unfold State.ownStore State.ownStoreFrom
  dsimp only
  rw [recalled]
  exact ⟨_, rfl⟩

/-- A byte of memory after a device write that takes place at once. -/
theorem State.byte_ownStore {s : State} {key : Nat} {bs : List Byte} (h : s.Direct key bs.length) (wf : s.mem.wf = true)
    (k : Nat) : (s.ownStore key bs).mem.byte k =
      if key ≤ k ∧ k < key + bs.length then (bs[k - key]?).getD 0 else s.mem.byte k := by
  rw [Mem.byte, State.bytes_ownStore h, tabGet_tabSetMany _ _ _ _ _ wf]
  rfl

/-- Bytes that a function gives at consecutive keys are its values there. -/
theorem upFrom_map_eq (bs : List Byte) (f : Nat → Byte) : ∀ key, (∀ i < bs.length, bs[i]? = some (f (key + i))) →
    (upFrom key bs.length).map f = bs := by
  induction bs with
  | nil => exact fun _ _ => rfl
  | cons b rest ih =>
    intro key h
    have first : b = f key := by simpa using h 0 (by simp)
    have others : (upFrom (key + 1) rest.length).map f = rest := by
      refine ih (key + 1) fun i hi => ?_
      have := h (i + 1) (by simpa using hi)
      rwa [List.getElem?_cons_succ, Nat.add_comm i, ← Nat.add_assoc] at this
    rw [List.length_cons, upFrom, List.map_cons, others, first]

/-- A number that the device writes at once reads back. -/
theorem State.num_ownStore {s : State} {key n : Nat} (v : Nat) (h : s.Direct key n) (wf : s.mem.wf = true) :
    (s.ownStore key (leBytes n v)).num key n = v % 2 ^ (8 * n) := by
  have direct : s.Direct key (leBytes n v).length := by rwa [length_leBytes]
  have back : (upFrom key n).map (s.ownStore key (leBytes n v)).mem.byte = leBytes n v := by
    have := upFrom_map_eq (leBytes n v) (s.ownStore key (leBytes n v)).mem.byte key fun i hi => by
      rw [State.byte_ownStore direct wf, if_pos (by omega), Nat.add_sub_cancel_left, List.getElem?_eq_getElem hi]
      rfl
    rwa [length_leBytes] at this
  rw [State.num, back, leValue_leBytes]

/-- The device may write where the write takes place at once and no guest die holds newer bytes. -/
theorem State.ownReady_direct {s : State} {key n : Nat} (h : s.Direct key n) (clean : s.mem.guestDirty (lineOf key) = false) :
    s.ownReady 0 key n = true := by
  obtain ⟨pos, same⟩ := h.line
  have one : linesFrom key n = [lineOf key] := by
    rw [linesFrom, if_neg (by omega), same, Nat.add_sub_cancel_left]
    rfl
  have free : s.mem.ownFree (lineOf key) (s.dieClk (homeOf (lineOf key))) 0 = true := by
    have lapsed := h.free
    unfold Mem.leaseOver at lapsed
    rw [Mem.ownFree, h.current]
    simp only [Bool.not_eq_true', decide_eq_false_iff_not]
    omega
  simp only [State.ownReady, one, List.all_cons, List.all_nil, free, clean, Bool.not_false, Bool.and_self]

/-! ### PTE records (R98) -/

/-- What leaned on a seal mark is among the copies and replicas. -/
theorem dropSlot_eq (s : State) (slot size va : Nat) : ∃ copies replicas,
    s.dropSlot slot size va = s.mapMem fun m => { m with copies := copies, replicas := replicas } := by
  unfold State.dropSlot State.dropPage
  dsimp only
  split
  · split <;> exact ⟨_, _, rfl⟩
  · exact ⟨_, _, rfl⟩

theorem sendInval_eq (sock lo hi : Nat) (cs : List Nat) : ∀ s : State, ∃ sockets nextId,
    (s.sendInval sock lo hi cs).1 = { s with sockets := sockets, nextId := nextId } := by
  induction cs with
  | nil => exact fun s => ⟨_, _, rfl⟩
  | cons c rest ih =>
    intro s
    obtain ⟨_, _, h⟩ := ih { s.bump with sockets := modifyAt s.sockets sock fun k =>
      { k with invals := k.invals ++ [(s.nextId, c, lo, hi - lo, s.clk)] } }
    exact ⟨_, _, h⟩

/-- Sending INVALs changes the sockets, and the next name. -/
theorem sendInvals_eq (s : State) (f : Nat → Bool) (lo hi : Nat) : ∃ sockets nextId,
    (s.sendInvals f lo hi).1 = { s with sockets := sockets, nextId := nextId } := by
  unfold State.sendInvals
  simp only [List.foldl_cons, List.foldl_nil]
  obtain ⟨_, _, first⟩ := sendInval_eq 0 lo hi ((atD Socket.zero s.sockets 0).boundCtxs.filter f) s
  rw [first]
  obtain ⟨_, _, second⟩ := sendInval_eq 1 lo hi _ _
  rw [second]
  exact ⟨_, _, rfl⟩

/-- A table entry without its reserved bits fits 64 bits. -/
theorem entClean_lt (e : BitVec 64) : entClean e.toNat < 2 ^ (8 * 8) := by
  have := e.isLt
  unfold entClean
  omega

/-- A context is of the owner that a record is for. -/
def State.ofRecord (s : State) (r : Stamped) (ctx : Nat) : Bool := decide (s.ownerOf ctx = hdrOwner r.hdr)

/-- The first byte of the page that a PTE record's address lies in. -/
def Stamped.page (r : Stamped) : Nat :=
  r.p0.toNat % 2 ^ 57 / 2 ^ 16 * 2 ^ 16 / pageBytes (r.p0.toNat % 4) * pageBytes (r.p0.toNat % 4)

/-- The slot of a PTE record is marked anew, and what leaned on its old mark is gone. -/
def State.pteMarked (s : State) (r : Stamped) (a : Nat) : State :=
  (s.mapMem fun m => { m with marks := s.pteMarks a r.lsn (entClean r.p1.toNat) }).dropSlot a (pageBytes (r.p0.toNat % 4)) r.page

/-- The entry of a PTE record stands in its slot. -/
def State.pteStored (s : State) (r : Stamped) (a : Nat) : State :=
  (s.pteMarked r a).ownStore a (leBytes 8 (entClean r.p1.toNat))

theorem pteApply_eq {s : State} {r : Stamped} {a : Nat} (slot : s.pteSlot r = some a) : s.pteApply r =
    ((s.pteStored r a).dropTrans (s.ofRecord r) r.page (r.page + pageBytes (r.p0.toNat % 4))).sendInvals (s.ofRecord r) r.page
      (r.page + pageBytes (r.p0.toNat % 4)) := by
  rw [State.pteApply, slot]
  rfl

/-- New marks leave a write to the slot as direct as it was, and every byte. -/
theorem pteMarked_keeps (s : State) (r : Stamped) (a : Nat) :
    (s.pteMarked r a).pads = s.pads ∧ (s.pteMarked r a).tap = s.tap ∧ (s.pteMarked r a).mem.bytes = s.mem.bytes ∧
      (s.Direct a 8 → (s.pteMarked r a).Direct a 8) := by
  obtain ⟨copies, replicas, dropped⟩ := dropSlot_eq
    (s.mapMem fun m => { m with marks := s.pteMarks a r.lsn (entClean r.p1.toNat) }) a (pageBytes (r.p0.toNat % 4)) r.page
  rw [State.pteMarked, dropped]
  exact ⟨rfl, rfl, rfl, fun direct => ⟨direct.line, direct.current, direct.free⟩⟩

/-- An entry written at once reads back, and every other byte of memory is as it was. -/
theorem pteStored_result {s : State} {r : Stamped} {a : Nat} (wf : s.mem.wf = true) (direct : s.Direct a 8) :
    (s.pteStored r a).pads = s.pads ∧ (s.pteStored r a).tap = s.tap ∧ (s.pteStored r a).num a 8 = entClean r.p1.toNat ∧
      OnlyBytes s (s.pteStored r a) a 8 := by
  obtain ⟨pads, tap, bytes, keeps⟩ := pteMarked_keeps s r a
  have wf' : (s.pteMarked r a).mem.wf = true := (Mem.wf_of_bytes _ _ bytes).trans wf
  obtain ⟨mem, stored⟩ := ownStore_eq (s.pteMarked r a) a (leBytes 8 (entClean r.p1.toNat))
  refine ⟨?_, ?_, ?_, fun k hk => ?_⟩
  · rw [State.pteStored, stored, ← pads]
  · rw [State.pteStored, stored, ← tap]
  · rw [State.pteStored, State.num_ownStore _ (keeps direct) wf', Nat.mod_eq_of_lt (entClean_lt r.p1)]
  · rw [State.pteStored, State.byte_ownStore (by rw [length_leBytes]; exact keeps direct) wf', length_leBytes,
      if_neg (by omega), Mem.byte, bytes]
    rfl

/-- The first two steps of a PTE record whose slot may be written at once: the entry stands in memory, its reserved bits 0,
and no translation of its owner's contexts in the page is cached (R5, R98). -/
theorem pteApply_result {s : State} {r : Stamped} {a : Nat} (slot : s.pteSlot r = some a) (wf : s.mem.wf = true)
    (direct : s.Direct a 8) :
    let t := (s.pteApply r).1
    t.pads = s.pads ∧ t.tap = s.tap ∧ t.num a 8 = entClean r.p1.toNat ∧ OnlyBytes s t a 8 ∧
      ∀ x ∈ t.mem.tlbs, s.ownerOf x.ctx = hdrOwner r.hdr →
        meets x.va (x.va + x.size) r.page (r.page + pageBytes (r.p0.toNat % 4)) = false := by
  obtain ⟨pads, tap, num, only⟩ := pteStored_result (r := r) wf direct
  obtain ⟨sockets, nextId, sent⟩ := sendInvals_eq
    ((s.pteStored r a).dropTrans (s.ofRecord r) r.page (r.page + pageBytes (r.p0.toNat % 4))) (s.ofRecord r) r.page
    (r.page + pageBytes (r.p0.toNat % 4))
  rw [pteApply_eq slot, sent]
  refine ⟨pads, tap, num, only, fun x hx owner => ?_⟩
  have kept := (List.mem_filter.mp hx).2
  simpa [State.ofRecord, owner] using kept

/-- A PTE record at the head whose slot may be written at once: entry and caches are dealt with, and the record stays at the
head until its INVALs are acknowledged (R98). -/
theorem applyPte_starts {s : State} {r : Stamped} {a : Nat} (h : s.AtHead r) (type : hdrType r.hdr = 5)
    (fresh : s.tap.pteStarted r.lsn = none) (slot : s.pteSlot r = some a) (direct : s.Direct a 8)
    (clean : s.mem.guestDirty (lineOf a) = false) :
    s.applyPte = (s.pteApply r).1.mapTap fun t => { t with ptePending := some (r.lsn, (s.pteApply r).2) } := by
  have ready : s.pteReady r = true := by
    rw [State.pteReady, slot]
    exact State.ownReady_direct direct clean
  unfold State.applyPte
  rw [h.next]
  simp only [type, ne_eq, not_true_eq_false, if_false, fresh, h.counts, ready, Bool.false_eq_true, Bool.not_true]

/-- The pad group of a core after every pad group is changed by a function that keeps its core. -/
theorem pad?_of_map {s t : State} (f : Pad → Pad) (hf : ∀ p, (f p).core = p.core) (h : t.pads = s.pads.map f) (c : Nat) :
    t.pad? c = (s.pad? c).map f := by
  rw [State.pad?, State.pad?, h, List.find?_map]
  simp only [Function.comp_def, hf]

/-- Parked work that tries again has its registers as they were (R330). -/
theorem sameRegs_retryParked (s : State) (f : Nat → Bool) (lo hi : Nat) : SameRegs s (s.retryParked f lo hi) := by
  intro c fg l
  have files : ∀ p : Pad, ((p.again f lo hi).fgs[fg]?).bind (fun g => g.threads[l]?) =
      (p.fgs[fg]?).bind fun g => g.threads[l]? := by
    intro p
    unfold Pad.again
    dsimp only
    split
    · rw [List.getElem?_map, Option.bind_map]
      rfl
    · rfl
  have same : (s.retryParked f lo hi).thread? c fg l = s.thread? c fg l := by
    simp only [State.thread?, State.fg?]
    rw [pad?_of_map (t := s.retryParked f lo hi) (Pad.again f lo hi) (fun _ => rfl) rfl]
    cases s.pad? c with
    | none => rfl
    | some p => exact files p
  rw [same]

/-- A PTE record whose INVALs are not all acknowledged waits (R98). -/
theorem applyPte_waits {s : State} {r : Stamped} (h : s.AtHead r) (type : hdrType r.hdr = 5) {invals : List (Nat × Nat)}
    (started : s.tap.pteStarted r.lsn = some invals) (live : s.invalsGone invals = false) : s.applyPte = s := by
  unfold State.applyPte
  rw [h.next]
  simp only [type, ne_eq, not_true_eq_false, if_false, started, live, Bool.false_eq_true]

/-- The work that was parked in the page of a PTE record tries again, and the record waits for no INVAL. -/
def State.pteRetried (s : State) (r : Stamped) : State :=
  let n := pageBytes (r.p0.toNat % 4)
  let lo := r.p0.toNat % 2 ^ 57 / n * n
  (s.mapTap fun t => { t with ptePending := none }).retryParked (s.ofRecord r) lo (lo + n)

/-- A PTE record whose INVALs are all acknowledged is applied: parked work tries again, and the tap moves past it (R98). -/
theorem applyPte_finishes {s : State} {r : Stamped} (h : s.AtHead r) (type : hdrType r.hdr = 5) {invals : List (Nat × Nat)}
    (started : s.tap.pteStarted r.lsn = some invals) (gone : s.invalsGone invals = true) :
    MovedPast r (s.pteRetried r) s.applyPte := by
  have holds : (s.pteRetried r).HoldsOnly r := ⟨h.only, h.whole, h.foreign, h.ops⟩
  have applies : s.applyPte = ((s.pteRetried r).advanceTap r).afterUpdate.settleTap := by
    unfold State.applyPte
    rw [h.next]
    simp only [type, ne_eq, not_true_eq_false, if_false, started, gone, if_true]
    rw [← deliver_foreign holds.foreign 0 false]
    rfl
  have quiet : ((s.pteRetried r).advanceTap r).mem.ops = [] := by rw [advanceTap_eq holds]; exact h.ops
  have updated := (advanceTap_movedPast holds).reports (.afterUpdate _ quiet)
  rw [applies]
  exact updated.reports (settleTap_reports updated.applied.2 (updated.redo.trans holds.whole))

/-! ### Each record type -/

section
variable {s : State} {r : Stamped} (h : s.AtHead r)
include h

theorem launchRecord_named {q : Nat} (type : hdrType r.hdr = 4) (named : r.p1.toNat.testBit s.tap.position = true)
    (bound : s.boundQueue (hdrCtx r.hdr) = some q) (desc : (s.desc (hdrCtx r.hdr)).isSome) :
    ∃ t, exec .launchRecord s = .next t ∧ Applied t r ∧ SameRegs s t ∧
      t.queues = modifyAt s.queues q fun k => { k with waiting := k.waiting ++
        [Waiting.mk (hdrCtx r.hdr) (r.p0.toNat % 2 ^ 57) r.p1.toNat (hdrAux r.hdr) (hdrOwner r.hdr) r.lsn k.tail] } := by
  have launches := launchApply_bound named bound desc
  have moved := applyLaunch_movedPast h type (by rw [launches]; exact ⟨h.only, h.whole, h.foreign, h.ops⟩)
  rw [launches] at moved
  exact ⟨_, rfl, moved.applied, moved.sameRegs, moved.queues⟩

theorem launchRecord_elsewhere (type : hdrType r.hdr = 4) (other : r.p1.toNat.testBit s.tap.position = false) :
    ∃ t, exec .launchRecord s = .next t ∧ Applied t r ∧ SameRegs s t ∧ t.queues = s.queues := by
  have idle := launchApply_elsewhere other
  have moved := applyLaunch_movedPast h type (by rw [idle]; exact h.holdsOnly)
  rw [idle] at moved
  exact ⟨_, rfl, moved.applied, moved.sameRegs, moved.queues⟩

theorem part_result (wf : tabWf (0 : Byte) s.tap.cmem = true) (type : hdrType r.hdr = 0x20) (owner : hdrOwner r.hdr = 0) :
    ∃ t, exec .part s = .next t ∧ Applied t r ∧ SameRegs s t ∧ t.cmRead (8 * (r.p0.toNat % 64)) 8 = r.p1.toNat := by
  have moved := applyManagement_movedPast h owner State.partApply (h.holdsOnly.cmWrite _ _ _)
  rw [type] at moved
  refine ⟨_, rfl, moved.applied, moved.sameRegs, ?_⟩
  rw [moved.cmRead, State.partApply, cmRead_cmWrite _ _ _ _ wf]
  exact Nat.mod_eq_of_lt r.p1.isLt

theorem sysst_result (wf : tabWf (0 : Byte) s.tap.cmem = true) (type : hdrType r.hdr = 0x21) (owner : hdrOwner r.hdr = 0) :
    let off := r.p0.toNat % 2 ^ 16 / 8 * 8
    ∃ t, exec .sysst s = .next t ∧ Applied t r ∧ SameRegs s t ∧ (512 ≤ off → t.cmRead off 8 = r.p1.toNat) ∧
      (off < 512 → t.tap.cmem = s.tap.cmem) := by
  intro off
  by_cases low : off < 512
  · have passes : s.sysstApply r = s := if_pos low
    have moved := applyManagement_movedPast h owner State.sysstApply (by rw [passes]; exact h.holdsOnly)
    rw [type, passes] at moved
    exact ⟨_, rfl, moved.applied, moved.sameRegs, fun high => absurd low (Nat.not_lt.mpr high), fun _ => moved.cmem⟩
  · have writes : s.sysstApply r = s.cmWrite off 8 r.p1.toNat := if_neg low
    have moved := applyManagement_movedPast h owner State.sysstApply (by rw [writes]; exact h.holdsOnly.cmWrite _ _ _)
    rw [type, writes] at moved
    refine ⟨_, rfl, moved.applied, moved.sameRegs, fun _ => ?_, fun low' => absurd low' low⟩
    rw [moved.cmRead, cmRead_cmWrite _ _ _ _ wf]
    exact Nat.mod_eq_of_lt r.p1.isLt

theorem keyroll_result (type : hdrType r.hdr = 0x22) (owner : hdrOwner r.hdr = 0) (wf : tabWf (0 : Nat) s.tap.keys = true) :
    let o := r.p0.toNat % 4096
    ∃ t, exec .keyroll s = .next t ∧ Applied t r ∧ SameRegs s t ∧ tabGet 0 t.tap.keys o = s.tap.keyFor o (r.lsn + 1) := by
  have moved := applyManagement_movedPast h owner State.keyrollApply ⟨h.only, h.whole, h.foreign, h.ops⟩
  rw [type] at moved
  refine ⟨_, rfl, moved.applied, moved.sameRegs, ?_⟩
  rw [moved.keys]
  exact tabGet_keyrollApply s r wf

end

/-- Settles O48: each record type at the head, by what its own step does, and the tap's move past it. -/
theorem replicaRecords : Obligations.ReplicaRecords := by
  refine ⟨?_, fun s r h wf => ?_, fun s r h type => ⟨?_, fun invals started => ⟨fun live => ?_, fun gone => ?_⟩⟩⟩
  · intro s r type a h htype size wf w old place row hrow
    have replica : hdrType r.hdr = 1 ∨ hdrType r.hdr = 2 ∨ hdrType r.hdr = 3 := by
      rcases hrow with ⟨e, _⟩ | ⟨e, _⟩ | ⟨e, _⟩ <;> omega
    have runs : exec row s = .next (s.applyCm type) := by
      rcases hrow with ⟨rfl, rfl⟩ | ⟨rfl, rfl⟩ | ⟨rfl, rfl⟩ <;> rfl
    subst htype
    obtain ⟨applied, missing, regs, word, others⟩ := applyCm_result h replica size wf place
    exact ⟨_, runs, applied, missing, regs, word, others⟩
  · exact ⟨fun _ => launchRecord_named h, launchRecord_elsewhere h, part_result h wf, sysst_result h wf, keyroll_result h⟩
  · intro a fresh slot wf direct clean n lo
    obtain ⟨pads, tap, num, only, tlbs⟩ := pteApply_result slot wf direct
    have starts : exec .pteRecord s = .next _ := congrArg Host.Outcome.next (applyPte_starts h type fresh slot direct clean)
    refine ⟨_, starts, sameRegs_of_pads pads, ?_, ?_, num, only, tlbs⟩
    · rw [State.mapTap_tap, Tap_.pteStarted]
      exact congrArg Option.isSome (if_pos rfl)
    · rw [State.mapTap_tap, tap]
  · exact congrArg Host.Outcome.next (applyPte_waits h type started live)
  · have moved := applyPte_finishes h type started gone
    have retried : SameRegs s (s.pteRetried r) := sameRegs_retryParked (s.mapTap fun t => { t with ptePending := none }) _ _ _
    exact ⟨_, rfl, fun c f l => (moved.sameRegs c f l).trans (retried c f l), moved.applied, moved.ptePending⟩

end Sys2Proof.Machine

/-! SUPPORT. The issue unit's choice of a run, and efts that form and resume (R47, R48, R50, R51): O34. -/

namespace Sys2Proof.Machine

/-! ### Threads whose registers stay -/

theorem SameRegs.trans {s t u : State} (h : SameRegs s t) (k : SameRegs t u) : SameRegs s u :=
  fun c f l => (k c f l).trans (h c f l)

/-- A change of one file group that keeps the registers of its threads. -/
theorem sameRegs_mapFg (s : State) (core fg : Nat) (f : FileGroup → FileGroup)
    (hf : ∀ (g : FileGroup) (l : Nat), (f g).threads[l]?.map (fun x => (x.regs, x.preds, x.rng)) =
      g.threads[l]?.map fun x => (x.regs, x.preds, x.rng)) : SameRegs s (s.mapFg core fg f) := by
  intro c n l
  simp only [State.thread?, State.fg?_mapFg]
  split
  · cases s.fg? c n with
    | none => rfl
    | some g => exact hf g l
  · rfl

/-- Threads changed in place, each in another field than its registers. -/
theorem map_regs_mapFrom (f : Nat → Thread → Thread)
    (hf : ∀ l t, ((f l t).regs, (f l t).preds, (f l t).rng) = (t.regs, t.preds, t.rng)) (ts : List Thread) (l : Nat) :
    (mapFrom f 0 ts)[l]?.map (fun x => (x.regs, x.preds, x.rng)) = ts[l]?.map fun x => (x.regs, x.preds, x.rng) := by
  rw [getElem?_mapFrom]
  cases ts[l]? with
  | none => rfl
  | some t => exact congrArg some (hf _ t)

/-! ### The choice of a run (R47, R48, R174) -/

theorem foldl_max_eq_or_mem (l : List Nat) : ∀ lo, l.foldl max lo = lo ∨ l.foldl max lo ∈ l := by
  induction l with
  | nil => exact fun _ => .inl rfl
  | cons a rest ih =>
    intro lo
    rw [List.foldl_cons]
    rcases ih (max lo a) with h | h
    · rcases max_choice lo a with m | m
      · exact .inl (h.trans m)
      · exact .inr (by rw [h, m]; exact .head _)
    · exact .inr (.tail _ h)

theorem le_foldl_max (l : List Nat) : ∀ lo, lo ≤ l.foldl max lo ∧ ∀ x ∈ l, x ≤ l.foldl max lo := by
  induction l with
  | nil => simp
  | cons a rest ih =>
    intro lo
    obtain ⟨low, up⟩ := ih (max lo a)
    refine ⟨(le_max_left lo a).trans low, ?_⟩
    rintro x (_ | ⟨_, hx⟩)
    · exact (le_max_right lo a).trans low
    · exact up x hx

/-- Some element of a list reaches the greatest value. -/
theorem exists_eq_greatest {α : Type} (f : α → Nat) {l : List α} (h : l ≠ []) : ∃ x ∈ l, f x = greatest 0 (l.map f) := by
  obtain ⟨a, rest, rfl⟩ := List.exists_cons_of_ne_nil h
  rcases foldl_max_eq_or_mem ((a :: rest).map f) 0 with z | m
  · have : f a ≤ 0 := z ▸ (le_foldl_max ((a :: rest).map f) 0).2 (f a) (by simp)
    exact ⟨a, by simp, (Nat.le_zero.mp this).trans z.symm⟩
  · obtain ⟨x, hx, e⟩ := List.mem_map.mp m
    exact ⟨x, hx, e⟩

theorem le_greatest {α : Type} (f : α → Nat) {l : List α} {x : α} (h : x ∈ l) : f x ≤ greatest 0 (l.map f) :=
  (le_foldl_max (l.map f) 0).2 _ (List.mem_map_of_mem h)

/-- The ready runs of a file group, in table order. -/
def State.readyRuns (s : State) (p : Pad) (fg : Nat) (g : FileGroup) : List (Nat × List Nat) :=
  g.runs.filter (s.runReady p fg g)

/-- Those of them that have reached the age limit (R48). -/
def State.agedRuns (s : State) (p : Pad) (fg : Nat) (g : FileGroup) : List (Nat × List Nat) :=
  (s.readyRuns p fg g).filter fun r => decide (s.ageLimit p.ctx ≤ g.runAge r.2)

theorem chooseRun_eq (s : State) (p : Pad) (fg : Nat) (g : FileGroup) : s.chooseRun p fg g =
    ((s.agedRuns p fg g).find? fun r =>
      decide (g.runAge r.2 = greatest 0 ((s.agedRuns p fg g).map fun r => g.runAge r.2))).or
    (((s.readyRuns p fg g).find? fun r => decide (g.runYielded r.2 = 0)).or (s.readyRuns p fg g).head?) := by
  unfold State.chooseRun
  dsimp only
  split <;> rename_i aged
  · exact (congrArg (Option.or · _) aged).symm
  · refine Eq.trans ?_ (congrArg (Option.or · _) aged).symm
    split <;> rename_i fresh
    · exact (congrArg (Option.or · _) fresh).symm
    · exact (congrArg (Option.or · _) fresh).symm

/-- With a run of the age limit among the ready ones, the most aged of those is chosen. -/
theorem chooseRun_aged {s : State} {p : Pad} {fg : Nat} {g : FileGroup}
    (h : ∃ y ∈ s.readyRuns p fg g, s.ageLimit p.ctx ≤ g.runAge y.2) :
    ∃ x, s.chooseRun p fg g = some x ∧ x ∈ s.readyRuns p fg g ∧ ∀ y ∈ s.readyRuns p fg g, g.runAge y.2 ≤ g.runAge x.2 := by
  have mem_aged : ∀ y, y ∈ s.agedRuns p fg g ↔ y ∈ s.readyRuns p fg g ∧ s.ageLimit p.ctx ≤ g.runAge y.2 := by
    simp [State.agedRuns]
  obtain ⟨y, hy⟩ := h
  obtain ⟨z, hz, top⟩ := exists_eq_greatest (fun r : Nat × List Nat => g.runAge r.2)
    (List.ne_nil_of_mem ((mem_aged y).mpr hy))
  have found := List.find?_isSome (p := fun r : Nat × List Nat => decide (g.runAge r.2 =
    greatest 0 ((s.agedRuns p fg g).map fun r => g.runAge r.2))) |>.mpr ⟨z, hz, decide_eq_true top⟩
  obtain ⟨x, hx⟩ := Option.isSome_iff_exists.mp found
  have greatest_x : g.runAge x.2 = greatest 0 ((s.agedRuns p fg g).map fun r => g.runAge r.2) := by
    simpa using List.find?_some hx
  obtain ⟨ready, limit⟩ := (mem_aged x).mp (List.mem_of_find?_eq_some hx)
  refine ⟨x, by rw [chooseRun_eq, hx, Option.some_or], ready, fun w hw => ?_⟩
  by_cases old : s.ageLimit p.ctx ≤ g.runAge w.2
  · exact greatest_x ▸ le_greatest (fun r : Nat × List Nat => g.runAge r.2) ((mem_aged w).mpr ⟨hw, old⟩)
  · exact (Nat.le_of_lt (Nat.lt_of_not_le old)).trans limit

/-- With no run of the age limit, a ready run is chosen: the first, where none has yielded. -/
theorem chooseRun_young {s : State} {p : Pad} {fg : Nat} {g : FileGroup} (some_ready : s.readyRuns p fg g ≠ [])
    (h : ∀ y ∈ s.readyRuns p fg g, g.runAge y.2 < s.ageLimit p.ctx) :
    ∃ x, s.chooseRun p fg g = some x ∧ x ∈ s.readyRuns p fg g ∧
      ((∀ y ∈ s.readyRuns p fg g, g.runYielded y.2 = 0) → (s.readyRuns p fg g).head? = some x) := by
  have none_aged : s.agedRuns p fg g = [] := List.filter_eq_nil_iff.mpr fun y hy => by simpa using h y hy
  obtain ⟨a, rest, runs⟩ := List.exists_cons_of_ne_nil some_ready
  have chosen : s.chooseRun p fg g = ((a :: rest).find? fun r => decide (g.runYielded r.2 = 0)).or (some a) := by
    rw [chooseRun_eq, none_aged, List.find?_nil, Option.none_or, runs, List.head?_cons]
  rw [chosen, runs]
  cases hf : (a :: rest).find? fun r => decide (g.runYielded r.2 = 0) with
  | some x =>
    refine ⟨x, rfl, List.mem_of_find?_eq_some hf, fun none_yielded => ?_⟩
    rwa [List.find?_cons_of_pos (by simpa using none_yielded a (.head _))] at hf
  | none => exact ⟨a, rfl, .head _, fun _ => rfl⟩

theorem sameRegs_ageOthers (s : State) (p : Pad) (fg : Nat) (g : FileGroup) (chosen : List Nat) :
    SameRegs s (s.ageOthers p fg g chosen) :=
  sameRegs_mapFg s _ _ _ fun g l => by
    apply map_regs_mapFrom
    exact fun _ _ => rfl

/-- The issue unit has chosen a run of a file group that issues (R47). -/
theorem selectRun_chosen {s : State} {core fg : Nat} {p : Pad} {g : FileGroup} {x : Nat × List Nat} (idle : s.cur = none)
    (hp : s.pad? core = some p) (hg : s.fg? core fg = some g) (issues : p.issues g = true)
    (hx : s.chooseRun p fg g = some x) :
    s.selectRun core fg = { ((s.ageOthers p fg g x.2).bump) with cur := some (mkRun core fg x.1 x.2 s.nextId []) } := by
  unfold State.selectRun
  simp only [idle, hp, hg, issues, hx, Bool.not_true, Bool.false_eq_true, if_false]

/-! ### Efts (R50, R51) -/

/-- A thread that has left the PC table at a word whose page is absent. -/
def Thread.parkedAt (n : Nat) (pc : BitVec 57) (va : Nat) (t : Thread) : Thread :=
  { t with wait := .eft, waitSub := n, pc := pc, quiet := 0x0200, quietPage := va / 65536 }

/-- An eft forms of all the lanes of a fetch, with a free number (R50, R317): they leave the PC table, and a record is made. -/
theorem formEft_fetch {s : State} {r : Run} {p : Pad} {g : FileGroup} {n va info : Nat} (hp : s.pad? r.core = some p)
    (hg : s.fg? r.core r.fg = some g) (some_lane : r.lanes ≠ []) (free : g.freeEft = some n) :
    (s.formEft r.core r.fg r.lanes [] r.start 0x0200 va false info).pads = (s.mapFg r.core r.fg fun h =>
      { h.mapLanes r.lanes (fun _ t => t.parkedAt n r.start va) with
        efts := h.efts ++ [{ num := n, lanes := r.lanes, pc := r.start, va := va, cause := 0x0200, write := false,
                                  held := false, retry := false }] }).pads := by
  unfold State.formEft
  simp only [hp, hg, free, List.isEmpty_iff, some_lane, if_false, Option.getD_some, Option.isSome_some, if_true,
    Option.isNone_some, List.isEmpty_nil, Bool.true_or, Nat.reduceEqDiff]
  split
  · rfl
  · exact (SameButReports.report _ _ _ _).pads

/-- Two states with the same pad groups have the same file groups. -/
theorem fg?_of_pads {s t : State} (h : t.pads = s.pads) (c n : Nat) : t.fg? c n = s.fg? c n := by
  simp only [State.fg?, State.pad?, h]

/-- A file group after its lanes and its efts are changed. -/
theorem fg?_mapLanes_efts {s : State} {core fg : Nat} {g : FileGroup} (lanes : List Nat) (f : Nat → Thread → Thread)
    (efts : FileGroup → List Eft) (hg : s.fg? core fg = some g) :
    (s.mapFg core fg fun h => { h.mapLanes lanes f with efts := efts h }).fg? core fg =
      some { g.mapLanes lanes f with efts := efts g } := by
  rw [State.fg?_mapFg, if_pos ⟨rfl, rfl⟩, hg]
  rfl

theorem sameRegs_mapLanes_efts (s : State) (core fg : Nat) (lanes : List Nat) (f : Nat → Thread → Thread)
    (efts : FileGroup → List Eft) (hf : ∀ l t, ((f l t).regs, (f l t).preds, (f l t).rng) = (t.regs, t.preds, t.rng)) :
    SameRegs s (s.mapFg core fg fun h => { h.mapLanes lanes f with efts := efts h }) :=
  sameRegs_mapFg s core fg _ fun g l => map_regs_mapFrom _
    (fun i t => by by_cases hi : i ∈ lanes <;> simp [hi, hf]) g.threads l

theorem getElem?_mapLanes (g : FileGroup) (lanes : List Nat) (f : Nat → Thread → Thread) {l : Nat} (hl : l ∈ lanes) :
    (g.mapLanes lanes f).threads[l]? = g.threads[l]?.map (f l) := by
  simp only [FileGroup.mapLanes, getElem?_mapFrom, Nat.zero_add, hl, if_true]

/-- A thread of an eft that re-executes its word is ready again. -/
def Thread.resumed (num : Nat) (t : Thread) : Thread := if t.wait = .eft ∧ t.waitSub = num then { t with wait := .ready } else t

theorem Thread.resumed_regs (num : Nat) (t : Thread) :
    ((t.resumed num).regs, (t.resumed num).preds, (t.resumed num).rng) = (t.regs, t.preds, t.rng) := by
  unfold Thread.resumed
  split <;> rfl

/-- An eft whose retry has been asked for goes back into the PC table at its lanes' level (R51, R330). -/
theorem resumeEft_retry {s : State} {core fg num : Nat} {p : Pad} {g : FileGroup} {e : Eft} (hp : s.pad? core = some p)
    (hg : s.fg? core fg = some g) (he : (g.efts.find? fun x => decide (x.num = num)) = some e) (retry : e.retry = true)
    (level : ∀ l ∈ e.lanes, (g.thread l).level = g.level) :
    (s.resumeEft core fg num).pads = (s.mapFg core fg fun h =>
      { h.mapLanes e.lanes (fun _ t => t.resumed num) with efts := h.efts.filter fun x => decide (x.num ≠ num) }).pads := by
  have now : (e.lanes.all fun l => decide ((g.thread l).level = g.level)) = true := by simpa using level
  unfold State.resumeEft
  simp only [hp, hg, he, retry, now, Bool.true_or, Bool.and_self, if_true]
  rfl

/-! ### O34 -/

theorem issueSelect_result {s : State} {core fg : Nat} {p : Pad} {g : FileGroup} (idle : s.cur = none)
    (hp : s.pad? core = some p) (hg : s.fg? core fg = some g) (issues : p.issues g = true)
    (some_ready : s.readyRuns p fg g ≠ []) :
    ∃ t r x, exec (.issueSelect core fg) s = .next t ∧ SameRegs s t ∧ x ∈ s.readyRuns p fg g ∧ t.cur = some r ∧
      r = mkRun core fg x.1 x.2 s.nextId [] ∧ s.nextId < t.nextId ∧
      ((∃ y ∈ s.readyRuns p fg g, s.ageLimit p.ctx ≤ g.runAge y.2) →
        ∀ y ∈ s.readyRuns p fg g, g.runAge y.2 ≤ g.runAge x.2) ∧
      ((∀ y ∈ s.readyRuns p fg g, g.runAge y.2 < s.ageLimit p.ctx) →
        (∀ y ∈ s.readyRuns p fg g, g.runYielded y.2 = 0) → (s.readyRuns p fg g).head? = some x) := by
  have result : ∀ x, s.chooseRun p fg g = some x → ∃ t, exec (.issueSelect core fg) s = .next t ∧ SameRegs s t ∧
      t.cur = some (mkRun core fg x.1 x.2 s.nextId []) ∧ s.nextId < t.nextId := fun x hx =>
    ⟨_, congrArg Host.Outcome.next (selectRun_chosen idle hp hg issues hx),
      (sameRegs_ageOthers s p fg g x.2).trans (sameRegs_of_pads rfl), rfl, Nat.lt_succ_self s.nextId⟩
  by_cases aged : ∃ y ∈ s.readyRuns p fg g, s.ageLimit p.ctx ≤ g.runAge y.2
  · obtain ⟨x, hx, ready, top⟩ := chooseRun_aged aged
    obtain ⟨t, next, regs, cur, new⟩ := result x hx
    refine ⟨t, _, x, next, regs, ready, cur, rfl, new, fun _ => top, fun young => ?_⟩
    obtain ⟨y, hy, old⟩ := aged
    exact absurd (young y hy) (Nat.not_lt.mpr old)
  · have young : ∀ y ∈ s.readyRuns p fg g, g.runAge y.2 < s.ageLimit p.ctx := by simpa using aged
    obtain ⟨x, hx, ready, first⟩ := chooseRun_young some_ready young
    obtain ⟨t, next, regs, cur, new⟩ := result x hx
    exact ⟨t, _, x, next, regs, ready, cur, rfl, new, fun h => absurd h aged, fun _ => first⟩

theorem fetchFault_result {s : State} {r : Run} {p : Pad} {g : FileGroup} {pc n : Nat} (cur : s.cur = some r)
    (hp : s.pad? r.core = some p) (hg : s.fg? r.core r.fg = some g)
    (absent : s.fetchGroup p g r.start.toNat = .error (.absent pc)) (task : g.level = 0) (some_lane : r.lanes ≠ [])
    (free : g.freeEft = some n) :
    ∃ t g', exec .fetchFault s = .next t ∧ SameRegs s t ∧ t.fg? r.core r.fg = some g' ∧
      g'.efts = g.efts ++ [{ num := n, lanes := r.lanes, pc := r.start, va := pc, cause := 0x0200, write := false,
                             held := false, retry := false }] ∧
      ∀ l ∈ r.lanes, ∀ old, g.threads[l]? = some old → ∃ new, t.thread? r.core r.fg l = some new ∧ new.wait = .eft ∧
        new.waitSub = n ∧ new.pc = r.start := by
  have run : exec .fetchFault s = .next (s.formEft r.core r.fg r.lanes [] r.start 0x0200 pc false (groupInfo 0 1 r.start.toNat)) := by
    refine congrArg Host.Outcome.next ?_
    simp only [State.fetchFault, cur, hp, hg, State.fetchTrap, absent, task, if_true]
  have pads := formEft_fetch (va := pc) (info := groupInfo 0 1 r.start.toNat) hp hg some_lane free
  have file := (fg?_of_pads pads r.core r.fg).trans (fg?_mapLanes_efts r.lanes _ _ hg)
  refine ⟨_, _, run, (sameRegs_mapLanes_efts s r.core r.fg r.lanes (fun _ t => t.parkedAt n r.start pc) _
      fun _ _ => rfl).trans (sameRegs_of_pads pads),
    file, rfl, fun l hl old h => ⟨old.parkedAt n r.start pc, ?_, rfl, rfl, rfl⟩⟩
  rw [State.thread?_eq _ _ _ _ _ file]
  exact (getElem?_mapLanes g r.lanes _ hl).trans (by rw [h]; rfl)

theorem eftResume_result {s : State} {core fg num : Nat} {p : Pad} {g : FileGroup} {e : Eft} (hp : s.pad? core = some p)
    (hg : s.fg? core fg = some g) (he : (g.efts.find? fun x => decide (x.num = num)) = some e) (retry : e.retry = true)
    (level : ∀ l ∈ e.lanes, (g.thread l).level = g.level) :
    ∃ t g', exec (.eftResume core fg num) s = .next t ∧ SameRegs s t ∧ t.fg? core fg = some g' ∧
      g'.efts = g.efts.filter (fun x => decide (x.num ≠ num)) ∧
      ∀ l ∈ e.lanes, ∀ old, g.threads[l]? = some old → old.wait = .eft → old.waitSub = num →
        t.thread? core fg l = some { old with wait := .ready } := by
  have pads := resumeEft_retry hp hg he retry level
  have file := (fg?_of_pads pads core fg).trans (fg?_mapLanes_efts e.lanes _ _ hg)
  refine ⟨_, _, rfl, (sameRegs_mapLanes_efts s core fg e.lanes (fun _ t => t.resumed num) _
      fun _ t => t.resumed_regs num).trans (sameRegs_of_pads pads),
    file, rfl, fun l hl old h parked number => ?_⟩
  rw [State.thread?_eq _ _ _ _ _ file]
  refine (getElem?_mapLanes g e.lanes _ hl).trans ?_
  rw [h, Option.map_some, Thread.resumed, if_pos ⟨parked, number⟩]

/-- Settles O34: the choice is `chooseRun`'s, and an eft that forms or resumes changes its lanes' waits alone. -/
theorem issueAndEftRows : Obligations.IssueAndEftRows := by
  unfold Obligations.IssueAndEftRows
  refine ⟨fun s core fg p g idle hp hg stopped halted exited some_ready => ?_, ?_, ?_⟩
  · have issues : p.issues g = true := by simp [Pad.issues, stopped, halted, exited]
    obtain ⟨t, r, x, next, regs, ready, cur, rfl, new, aged, young⟩ := issueSelect_result idle hp hg issues some_ready
    exact ⟨t, _, x, next, regs, ready, cur, rfl, rfl, rfl, rfl, rfl, rfl, rfl, rfl, rfl, rfl, new, aged, young⟩
  · exact fun s r p g pc n cur hp hg absent task some_lane free => fetchFault_result cur hp hg absent task some_lane free
  · exact fun s core fg num p g e hp hg he retry level => eftResume_result hp hg he retry level

end Sys2Proof.Machine

/-! SUPPORT. Pre-emption: safe points, the release of a saved context's cores, and a forced save (R52, R310, R311): O41. -/

namespace Sys2Proof.Machine

/-! ### Cores that are freed (R46, R342) -/

/-- The two states are the same but for barrier words, dies and service registers. -/
def SameButUnits (s t : State) : Prop :=
  ∃ units dies service, t = { s with units := units, dies := dies, service := service }

theorem SameButUnits.dropUnits (s : State) (launch : Nat) : SameButUnits s (s.dropUnits launch) := by
  unfold State.dropUnits
  generalize s.units.filter _ = us
  induction us generalizing s with
  | nil => exact ⟨_, _, _, rfl⟩
  | cons u rest ih =>
    have step : SameButUnits s (s.dropUnit u) := by
      unfold State.dropUnit
      dsimp only
      split <;> exact ⟨_, _, _, rfl⟩
    obtain ⟨_, _, _, e⟩ := step
    obtain ⟨_, _, _, k⟩ := ih (s.dropUnit u)
    exact ⟨_, _, _, k.trans (by rw [e])⟩

theorem pad?_eq_none_iff (s : State) (core : Nat) : s.pad? core = none ↔ ∀ q ∈ s.pads, q.core ≠ core := by
  simp [State.pad?]

/-- What freeing cores changes: the pad groups on them go, and with them barrier words and the room they took. -/
def FreedCores (s t : State) (free : Nat → Bool) : Prop :=
  ∃ units dies service spent, t = { s with
    pads := s.pads.filter fun q => !free q.core, units := units, dies := dies, service := service, spent := spent }

theorem freeCore_frees (s : State) (core : Nat) : FreedCores s (s.freeCore core) fun c => decide (c = core) := by
  cases hp : s.pad? core with
  | none =>
    have stays : s.pads = s.pads.filter fun q => !decide (q.core = core) := by
      refine (List.filter_eq_self.mpr fun q hq => ?_).symm
      simpa using (pad?_eq_none_iff s core).mp hp q hq
    refine ⟨s.units, s.dies, s.service, s.spent, ?_⟩
    rw [← stays]
    simp only [State.freeCore, hp]
  | some p =>
    simp only [State.freeCore, hp, ne_eq, decide_not]
    split
    · exact ⟨_, _, _, _, rfl⟩
    · obtain ⟨_, _, _, e⟩ := SameButUnits.dropUnits { s with
        pads := s.pads.filter fun q => !decide (q.core = core)
        spent := (core, p.scratch) :: s.spent.filter fun x => !decide (x.1 = core) } p.launch
      exact ⟨_, _, _, _, e⟩

theorem freeCores_free (ps : List Pad) : ∀ s : State, FreedCores s (ps.foldl (fun (s : State) (p : Pad) => s.freeCore p.core) s)
    fun c => ps.any fun p => decide (c = p.core) := by
  induction ps with
  | nil => exact fun s => ⟨s.units, s.dies, s.service, s.spent, by simp⟩
  | cons p rest ih =>
    intro s
    obtain ⟨_, _, _, _, first⟩ := freeCore_frees s p.core
    obtain ⟨units, dies, service, spent, others⟩ := ih (s.freeCore p.core)
    refine ⟨units, dies, service, spent, others.trans ?_⟩
    rw [first]
    simp only [List.filter_filter, List.any_cons, Bool.not_or, Bool.and_comm]

/-! ### A save that is complete (R52, R312) -/

/-- The two states have the same pad groups, launches, pre-emptions, spawn stacks and accesses in flight. -/
structure SameWork (s t : State) : Prop where
  pads : t.pads = s.pads
  launches : t.launches = s.launches
  preempts : t.preempts = s.preempts
  spawns : t.spawns = s.spawns
  ops : t.mem.ops = s.mem.ops

theorem SameWork.foldl {α : Type} (f : State → α → State) (hf : ∀ s x, SameWork s (f s x)) (l : List α) :
    ∀ s, SameWork s (l.foldl f s) := by
  induction l with
  | nil => exact fun _ => ⟨rfl, rfl, rfl, rfl, rfl⟩
  | cons x rest ih =>
    intro s
    have first := hf s x
    have others := ih (f s x)
    exact ⟨others.pads.trans first.pads, others.launches.trans first.launches, others.preempts.trans first.preempts,
      others.spawns.trans first.spawns, others.ops.trans first.ops⟩

/-- The work that outlives the saved launches of a context, under its images' names. -/
def State.keptWork (s : State) (ctx : Nat) : State :=
  (s.launches.filter fun l => decide (l.ctx = ctx)).foldl
    (fun (s : State) (l : Launch) => s.moveWork ctx l.id (savedLaunch l.image)) s

/-- The pad groups of a context off their cores. -/
def State.freedPads (s : State) (ctx : Nat) : State :=
  (s.ctxPads ctx).foldl (fun (s : State) (p : Pad) => s.freeCore p.core) s

/-- The view-pool space of a context's spawn-stack entries given back. -/
def State.givenBack (s : State) (ctx : Nat) : State :=
  ((s.spawns.flatten.filter fun x => decide (x.ctx = ctx)).filterMap (·.pool)).foldl
    (fun (s : State) (a : Nat) => s.poolGive ctx a) s

theorem releaseContext_eq (s : State) (ctx : Nat) : s.releaseContext ctx =
    let u := ((s.keptWork ctx).freedPads ctx).givenBack ctx
    { u with
      launches := u.launches.filter fun l => decide (l.ctx ≠ ctx)
      spawns := u.spawns.map fun q => q.filter fun x => decide (x.ctx ≠ ctx)
      units := u.units.filter fun y => !(s.launches.filter fun l => decide (l.ctx = ctx)).any fun x => decide (x.id = y.launch)
      preempts := u.preempts.filter fun x => decide (x.ctx ≠ ctx)
      mem := { u.mem with ops := u.mem.ops.filter fun o => decide (o.ctx ≠ ctx) } } := rfl

theorem sameWork_keptWork (s : State) (ctx : Nat) : SameWork s (s.keptWork ctx) := by
  apply SameWork.foldl
  exact fun _ _ => ⟨rfl, rfl, rfl, rfl, rfl⟩

theorem sameWork_givenBack (s : State) (ctx : Nat) : SameWork s (s.givenBack ctx) := by
  apply SameWork.foldl
  exact fun _ _ => ⟨rfl, rfl, rfl, rfl, rfl⟩

/-- The pad groups of a context are those on the cores of its pad groups, where no core has two. -/
theorem any_ctxPads_core {s : State} (ctx : Nat) (once : (s.pads.map (·.core)).Nodup) {q : Pad} (hq : q ∈ s.pads) :
    ((s.ctxPads ctx).any fun p => decide (q.core = p.core)) = decide (q.ctx = ctx) := by
  rw [Bool.eq_iff_iff, List.any_eq_true, decide_eq_true_eq]
  constructor
  · rintro ⟨p, hp, same⟩
    obtain ⟨mem, mine⟩ := List.mem_filter.mp hp
    rw [List.inj_on_of_nodup_map once hq mem (of_decide_eq_true same)]
    exact of_decide_eq_true mine
  · exact fun mine => ⟨q, List.mem_filter.mpr ⟨hq, decide_eq_true mine⟩, decide_eq_true rfl⟩

/-- A saved context leaves the cores, the launches and the stacks (R52, R53). -/
structure Left (s t : State) (ctx : Nat) : Prop where
  pads : t.pads = s.pads.filter fun p => decide (p.ctx ≠ ctx)
  launches : t.launches = s.launches.filter fun l => decide (l.ctx ≠ ctx)
  preempts : t.preempts = s.preempts.filter fun x => decide (x.ctx ≠ ctx)
  spawns : t.spawns = s.spawns.map fun q => q.filter fun x => decide (x.ctx ≠ ctx)

theorem freedPads_left {s : State} (ctx : Nat) (once : (s.pads.map (·.core)).Nodup) :
    (s.freedPads ctx).pads = s.pads.filter fun p => decide (p.ctx ≠ ctx) := by
  obtain ⟨_, _, _, _, freed⟩ := freeCores_free (s.ctxPads ctx) s
  rw [State.freedPads, freed]
  refine List.filter_congr fun q hq => ?_
  rw [decide_not]
  exact congrArg Bool.not (any_ctxPads_core ctx once hq)

theorem freedPads_rest (s : State) (ctx : Nat) : (s.freedPads ctx).launches = s.launches ∧
    (s.freedPads ctx).preempts = s.preempts ∧ (s.freedPads ctx).spawns = s.spawns ∧ (s.freedPads ctx).mem = s.mem := by
  obtain ⟨_, _, _, _, freed⟩ := freeCores_free (s.ctxPads ctx) s
  rw [State.freedPads, freed]
  exact ⟨rfl, rfl, rfl, rfl⟩

theorem releaseContext_left {s : State} (ctx : Nat) (once : (s.pads.map (·.core)).Nodup) :
    Left s (s.releaseContext ctx) ctx ∧ (s.releaseContext ctx).mem.ops = s.mem.ops.filter fun o => decide (o.ctx ≠ ctx) := by
  have kept := sameWork_keptWork s ctx
  have given := sameWork_givenBack ((s.keptWork ctx).freedPads ctx) ctx
  obtain ⟨launches, preempts, spawns, mem⟩ := freedPads_rest (s.keptWork ctx) ctx
  rw [releaseContext_eq]
  refine ⟨⟨?_, ?_, ?_, ?_⟩, ?_⟩
  · refine given.pads.trans ?_
    rw [freedPads_left ctx (kept.pads ▸ once), kept.pads]
  · exact congrArg (List.filter _) (given.launches.trans (launches.trans kept.launches))
  · exact congrArg (List.filter _) (given.preempts.trans (preempts.trans kept.preempts))
  · exact congrArg (List.map _) (given.spawns.trans (spawns.trans kept.spawns))
  · exact congrArg (List.filter _) (given.ops.trans (by rw [mem, kept.ops]))

/-- Images that are all written, and answered, are not written again. -/
theorem writeImages_written {s : State} {ctx : Nat} {x : Preempt} (hx : s.preempt? ctx = some x) (ls : List Launch)
    (done : ∀ l ∈ ls, l.id ∈ x.written ∧ s.savePending l.id = false) : s.writeImages ctx ls = s := by
  induction ls with
  | nil => rfl
  | cons l rest ih =>
    obtain ⟨written, answered⟩ := done l (.head _)
    simp only [State.writeImages, hx, written, answered, if_true, and_self]
    exact ih fun k hk => done k (.tail _ hk)

theorem saveContext_written {s : State} {ctx : Nat} {x : Preempt} (hx : s.preempt? ctx = some x) (saving : x.step = 4)
    (free : x.stalled = none) (done : ∀ l ∈ s.savedLaunches ctx, l.id ∈ x.written ∧ s.savePending l.id = false) :
    s.saveContext ctx = (s.releaseContext ctx).afterUpdate := by
  have settled : ((s.savedLaunches ctx).any fun l => decide (l.id ∉ x.written) || s.savePending l.id) = false := by
    simpa using done
  unfold State.saveContext
  simp only [hx, saving, free, writeImages_written hx _ done, settled, if_true, Option.isSome_none, Bool.false_eq_true,
    or_false, Bool.false_or, if_false, ne_eq, not_true_eq_false, Nat.reduceLT]

/-! ### System handlers that are abandoned (R310) -/

/-- Every file group that a system handler has not halted is below level 2. -/
def Pad.noSystemHandler (p : Pad) : Prop := ∀ g ∈ p.fgs, g.level < 2 ∨ g.halted = true

/-- A pad group whose system handlers are abandoned. -/
def Pad.abandoned (p : Pad) : Pad := { p with fgs := p.fgs.map fun g => if g.halted then g else g.endLevel2 }

theorem FileGroup.endLevel2_level (g : FileGroup) : g.endLevel2.level < 2 := by
  unfold FileGroup.endLevel2
  split
  · assumption
  · exact Nat.one_lt_two

theorem FileGroup.endLevel2_low {g : FileGroup} (h : g.level < 2) : g.endLevel2 = g := by rw [FileGroup.endLevel2, if_pos h]

theorem Pad.abandoned_noSystemHandler (p : Pad) : p.abandoned.noSystemHandler := by
  intro g hg
  obtain ⟨h, -, rfl⟩ := List.mem_map.mp hg
  split
  · exact .inr ‹_›
  · exact .inl h.endLevel2_level

theorem Pad.abandoned_of_noSystemHandler {p : Pad} (h : p.noSystemHandler) : p.abandoned = p := by
  have same : ∀ g ∈ p.fgs, (if g.halted then g else g.endLevel2) = g := by
    intro g hg
    split
    · rfl
    · exact FileGroup.endLevel2_low ((h g hg).resolve_right ‹_›)
  rw [Pad.abandoned, List.map_congr_left same, List.map_id']

/-- Abandoning a pad group's system handlers writes records and changes the pad groups of its core. -/
theorem abandon_reports (s : State) (p : Pad) :
    ∃ u, SameButReports s u ∧ s.abandon p = u.mapPad p.core Pad.abandoned := by
  refine ⟨_, ?_, rfl⟩
  refine SameButReports.foldl _ (fun s x => ?_) _ s
  split
  · exact SameButReports.report _ _ _ _
  · exact SameButReports.refl s

theorem SameButReports.preempts {s t : State} : SameButReports s t → t.preempts = s.preempts := by
  rintro ⟨_, _, _, _, _, _, rfl⟩; rfl

theorem SameButReports.launches {s t : State} : SameButReports s t → t.launches = s.launches := by
  rintro ⟨_, _, _, _, _, _, rfl⟩; rfl

theorem SameButReports.spawns {s t : State} : SameButReports s t → t.spawns = s.spawns := by
  rintro ⟨_, _, _, _, _, _, rfl⟩; rfl

/-- The system handlers of several pad groups are abandoned: those of every pad group on their cores end, and pre-emptions
stay as they are. -/
theorem abandons (ps : List Pad) : ∀ s : State,
    let t := ps.foldl (fun (s : State) (p : Pad) => s.abandon p) s
    t.preempts = s.preempts ∧
      t.pads = s.pads.map fun q => if ps.any fun p => decide (q.core = p.core) then q.abandoned else q := by
  induction ps with
  | nil => simp
  | cons p rest ih =>
    intro s
    obtain ⟨u, reports, first⟩ := abandon_reports s p
    obtain ⟨preempts, pads⟩ := ih (s.abandon p)
    refine ⟨preempts.trans (first ▸ reports.preempts), pads.trans ?_⟩
    rw [first, State.mapPad, reports.pads, List.map_map]
    refine List.map_congr_left fun q _ => ?_
    have twice := Pad.abandoned_of_noSystemHandler q.abandoned_noSystemHandler
    have core : q.abandoned.core = q.core := rfl
    by_cases here : q.core = p.core
    · simp only [Function.comp_apply, here, if_true, List.any_cons, decide_true, Bool.true_or, twice, ite_self]
    · simp only [Function.comp_apply, here, if_false, List.any_cons, decide_false, Bool.false_or]

/-! ### The steps of a save -/

theorem preempt?_ctx {s : State} {ctx : Nat} {x : Preempt} (hx : s.preempt? ctx = some x) : x.ctx = ctx := by
  simpa using List.find?_some hx

theorem preempt?_of_preempts {s t : State} (h : t.preempts = s.preempts) (ctx : Nat) : t.preempt? ctx = s.preempt? ctx := by
  rw [State.preempt?, h, State.preempt?]

theorem preempt?_mapPreempt {s : State} {ctx : Nat} {x : Preempt} (f : Preempt → Preempt) (keeps : ∀ y, (f y).ctx = y.ctx)
    (hx : s.preempt? ctx = some x) : (s.mapPreempt ctx f).preempt? ctx = some (f x) := by
  have same : (fun y : Preempt => decide (y.ctx = ctx)) ∘ (fun y => if y.ctx = ctx then f y else y) =
      fun y => decide (y.ctx = ctx) := by
    funext y
    by_cases hy : y.ctx = ctx <;> simp [hy, keeps]
  simp only [State.preempt?, State.mapPreempt, List.find?_map, same]
  rw [show s.preempts.find? _ = some x from hx, Option.map_some, if_pos (preempt?_ctx hx)]

/-- Copy issue stops for a context whose pre-emption is under way (R52). -/
theorem stopIssue_stops {s : State} {ctx : Nat} {x : Preempt} (hx : s.preempt? ctx = some x) :
    (s.stopIssue ctx).preempt? ctx = some { x with step := 2 } :=
  preempt?_mapPreempt (s := { s with sockets := _, pads := _ }) (fun x => { x with step := 2 }) (fun _ => rfl) hx

theorem contextSave_result {s : State} {ctx : Nat} {x : Preempt} (hx : s.preempt? ctx = some x) (saving : x.step = 4)
    (free : x.stalled = none) (quiet : s.mem.ops = []) (once : (s.pads.map (·.core)).Nodup)
    (done : ∀ l ∈ s.launches, l.ctx = ctx → l.id ∈ x.written ∧ s.savePending l.id = false) :
    ∃ t, exec (.contextSave ctx) s = .next t ∧ Left s t ctx := by
  have saved : ∀ l ∈ s.savedLaunches ctx, l.id ∈ x.written ∧ s.savePending l.id = false := by
    intro l hl
    obtain ⟨mem, mine⟩ := List.mem_filter.mp hl
    exact done l mem (by simpa using (Bool.and_eq_true_iff.mp mine).1)
  obtain ⟨left, ops⟩ := releaseContext_left ctx once
  have reports := SameButReports.afterUpdate (s.releaseContext ctx) (by rw [ops, quiet]; rfl)
  refine ⟨_, congrArg Host.Outcome.next (saveContext_written hx saving free saved), ?_, ?_, ?_, ?_⟩
  · exact reports.pads.trans left.pads
  · exact reports.launches.trans left.launches
  · exact reports.preempts.trans left.preempts
  · exact reports.spawns.trans left.spawns

theorem Left.preempt? {s t : State} {ctx : Nat} (h : Left s t ctx) : t.preempt? ctx = none := by
  simp [State.preempt?, h.preempts]

/-- PTIMEOUT has expired on a save that waits for threads alone: their system handlers are abandoned, and copy issue stops. -/
theorem forceSave_forced {s : State} {ctx : Nat} {x : Preempt} {c : Ctx} (hx : s.preempt? ctx = some x)
    (hc : s.ctx? ctx = some c) (late : x.since + c.ptimeout ≤ s.clk) (waits : x.step = 1) (busy : s.threadsSafe ctx = false)
    (reached : s.unreached ctx = []) : s.forceSave ctx =
      (((s.ctxPads ctx).foldl (fun (s : State) (p : Pad) => s.abandon p)
        (s.mapPreempt ctx fun x => { x with forced := true })).stopIssue ctx) := by
  unfold State.forceSave
  simp only [hx, hc, Nat.not_lt.mpr late, waits, busy, reached, List.foldr_nil, true_and, if_true, true_or,
    Nat.reduceEqDiff, or_self, if_false]
  rfl

theorem forcedSave_result {s : State} {ctx : Nat} {x : Preempt} {c : Ctx} (hx : s.preempt? ctx = some x)
    (hc : s.ctx? ctx = some c) (late : x.since + c.ptimeout ≤ s.clk) (waits : x.step = 1) (busy : s.threadsSafe ctx = false)
    (reached : s.unreached ctx = []) : ∃ t, exec (.forcedSave ctx) s = .next t ∧
      t.preempt? ctx = some { x with forced := true, step := 2 } ∧
      ∀ q ∈ t.pads, q.ctx = ctx → q.stopped = true ∧ q.noSystemHandler := by
  refine ⟨_, congrArg Host.Outcome.next (forceSave_forced hx hc late waits busy reached), ?_⟩
  have forced := preempt?_mapPreempt (fun x => { x with forced := true }) (fun _ => rfl) hx
  obtain ⟨preempts, pads⟩ := abandons (s.ctxPads ctx) (s.mapPreempt ctx fun x => { x with forced := true })
  refine ⟨stopIssue_stops ((preempt?_of_preempts preempts ctx).trans forced), fun q hq mine => ?_⟩
  obtain ⟨p, hp, rfl⟩ := List.mem_map.mp hq
  rw [pads] at hp
  obtain ⟨old, mem, rfl⟩ := List.mem_map.mp hp
  have ctx_kept : (if (s.ctxPads ctx).any fun p => decide (old.core = p.core) then old.abandoned else old).ctx = old.ctx := by
    split <;> rfl
  by_cases own : old.ctx = ctx
  · have here : ((s.ctxPads ctx).any fun p => decide (old.core = p.core)) = true :=
      List.any_eq_true.mpr ⟨old, List.mem_filter.mpr ⟨mem, decide_eq_true own⟩, decide_eq_true rfl⟩
    rw [if_pos (ctx_kept.trans own), if_pos here]
    exact ⟨rfl, old.abandoned_noSystemHandler⟩
  · rw [if_neg (ctx_kept ▸ own)] at mine
    exact absurd (ctx_kept ▸ mine) own

/-- Settles O41: each row is one step of the save, and what it releases or abandons is that of its context alone. -/
theorem preemptRows : Obligations.PreemptRows := by
  unfold Obligations.PreemptRows
  intro s ctx
  refine ⟨fun fresh quiet => ?_, fun held => ?_, fun x hx => ⟨fun first safe => ?_, fun busy => ?_, ?_, fun c hc => ⟨fun early => ?_, ?_⟩⟩⟩
  · refine congrArg Host.Outcome.next ?_
    simp only [State.requestPreempt, fresh, Option.isSome_none, Bool.false_eq_true, if_false, quiet, List.foldl_nil]
  · exact congrArg Host.Outcome.next (if_pos held)
  · refine ⟨_, congrArg Host.Outcome.next ?_, stopIssue_stops hx, rfl, rfl⟩
    simp only [State.stopCopies, hx, first, safe, and_self, if_true]
  · refine congrArg Host.Outcome.next ?_
    simp only [State.stopCopies, hx, busy, Bool.false_eq_true, and_false, if_false]
  · intro saving free calm once done
    obtain ⟨t, next, left⟩ := contextSave_result hx saving free calm.ops once done
    exact ⟨t, next, left.pads, left.launches, left.preempt?, left.spawns⟩
  · refine congrArg Host.Outcome.next ?_
    simp only [State.forceSave, hx, hc, early, true_or, if_true]
  · exact fun late waits busy reached => forcedSave_result hx hc late waits busy reached

end Sys2Proof.Machine

/-! SUPPORT. The front end's rows (R39-R41, R54, R273, R376): a doorbell, the queue that the lottery picks and the command
that starts. -/

namespace Sys2Proof.Machine

/-! ### What the device's reads of a context depend on (R269, R273) -/

/-- The device reads the same of every context's memory in both states. -/
structure SameReads (s t : State) : Prop where
  mem : t.mem = s.mem
  fabric : t.fabric = s.fabric
  tap : t.tap = s.tap
  table : ∀ ctx, t.tableOf ctx = s.tableOf ctx

namespace SameReads

variable {s t : State} (h : SameReads s t)
include h

theorem phys8 : t.phys8 = s.phys8 := by
  funext pa
  rw [State.phys8, State.phys8, h.mem]

theorem descIn : t.descIn = s.descIn := by
  funext table ctx
  rw [State.descIn, State.descIn, h.mem, h.phys8, h.fabric]

theorem desc (ctx : Nat) : t.desc ctx = s.desc ctx := by rw [State.desc, State.desc, h.table, h.descIn]

theorem walkFrom1 : t.walkFrom1 = s.walkFrom1 := by
  funext ok next t1 va pod
  rw [State.walkFrom1, State.walkFrom1, h.phys8]

theorem pool? : t.pool? = s.pool? := by
  funext owner
  rw [State.pool?, State.pool?, h.fabric]

theorem walk (ctx va : Nat) : t.walk ctx va = s.walk ctx va := by
  rw [State.walk, State.walk, h.table, State.walkIn, State.walkIn, h.descIn, h.walkFrom1, h.phys8, h.pool?, h.tap]

theorem pageLoc (p : Page) (va : Nat) : t.pageLoc p va = s.pageLoc p va := by rw [State.pageLoc, State.pageLoc, h.tap]

theorem devLoc (ctx va : Nat) (write : Bool) : t.devLoc ctx va write = s.devLoc ctx va write := by
  simp only [State.devLoc, h.walk, h.pageLoc]

theorem ownerOf (ctx : Nat) : t.ownerOf ctx = s.ownerOf ctx := by rw [State.ownerOf, State.ownerOf, h.desc]

theorem farSector (x : Nat × Nat × Nat) : t.farSector x = s.farSector x := by rw [State.farSector, State.farSector, h.fabric]

theorem devByte (ctx va : Nat) : t.devByte ctx va = s.devByte ctx va := by
  simp only [State.devByte, h.ownerOf, h.farSector, h.devLoc, h.mem]

theorem devRead (ctx n : Nat) : ∀ va, t.devRead ctx va n = s.devRead ctx va n := by
  induction n with
  | zero => exact fun _ => rfl
  | succ n ih =>
    intro va
    rw [State.devRead, State.devRead, h.devByte, ih]

theorem devNum (ctx va n : Nat) : t.devNum ctx va n = s.devNum ctx va n := by rw [State.devNum, State.devNum, h.devRead]

theorem blockFault (ctx lb : Nat) : t.blockFault ctx lb = s.blockFault ctx lb := by
  simp only [State.blockFault, h.devRead]

theorem hasFar : t.hasFar = s.hasFar := by
  funext x
  rw [State.hasFar, State.hasFar, h.fabric]

theorem farSectors (ctx va n : Nat) : t.farSectors ctx va n = s.farSectors ctx va n := by
  simp only [State.farSectors, h.devLoc, h.ownerOf]

theorem farThen (first : List (Nat × Nat × Nat)) (more : Unit → List (Nat × Nat × Nat)) :
    t.farThen first more = s.farThen first more := by
  rw [State.farThen, State.farThen, h.hasFar]

theorem hdr (ctx image off n : Nat) : t.hdr ctx image off n = s.hdr ctx image off n := h.devNum ctx (image + off) n

theorem fgSectors (ctx n : Nat) : ∀ a, t.fgSectors ctx n a = s.fgSectors ctx n a := by
  induction n with
  | zero => exact fun _ => rfl
  | succ n ih => exact fun a => by simp only [State.fgSectors, h.farThen, h.farSectors, h.devNum, ih]

theorem padSectors (ctx a : Nat) : t.padSectors ctx a = s.padSectors ctx a := by
  simp only [State.padSectors, State.tileSectors, h.farThen, h.farSectors, h.devNum, h.fgSectors]

theorem commandSectors (c : Command) : t.commandSectors c = s.commandSectors c := by
  simp only [State.commandSectors, State.sectionSectors, h.farThen, h.farSectors, h.hdr, h.devNum, h.padSectors]

end SameReads

/-- The lottery has no part in what a command reads. -/
theorem commandSectors_lottery (s : State) (g : BitVec 64) (c : Command) :
    State.commandSectors { s with lottery := g } c = s.commandSectors c := by
  have reads : SameReads s { s with lottery := g } := ⟨rfl, rfl, rfl, fun _ => rfl⟩
  exact reads.commandSectors c

/-! ### The front end (R39-R41, R54) -/

/-- Forgetting sectors of other modules changes nothing but the sectors that are kept. -/
theorem forgetFar_eq (s : State) (l : List (Nat × Nat × Nat)) : ∃ far,
    s.forgetFar l = { s with fabric := { s.fabric with far := far } } := by
  unfold State.forgetFar
  split
  · exact ⟨s.fabric.far, rfl⟩
  · exact ⟨_, rfl⟩

/-- A doorbell that is not lost is TAIL, or is kept while intake is closed (R273, R284). -/
theorem doorbell_up {s : State} (q tail : Nat) (up : s.service.linkUp = true) :
    s.doorbell q tail = s.mapSub q fun k => if s.intake then { k with tail := tail % 2 ^ 32, seen := none }
      else { k with seen := some (tail % 2 ^ 32) } := by
  rw [State.doorbell, up]
  cases s.intake <;> rfl

/-- The front end that has read all it needs asks for nothing. -/
theorem askCommands_done {s : State} (asked : ∀ q, q < 64 → s.askCommand q = s) :
    (upFrom 0 64).foldl (fun (s : State) (q : Nat) => s.askCommand q) s = s := by
  have quiet : ∀ l : List Nat, (∀ q ∈ l, q < 64) → l.foldl (fun (s : State) (q : Nat) => s.askCommand q) s = s := by
    intro l
    induction l with
    | nil => exact fun _ => rfl
    | cons q rest ih =>
      intro below
      rw [List.foldl_cons, asked q (below q (by simp))]
      exact ih fun x hx => below x (by simp [hx])
  exact quiet _ fun q hq => by simpa using (mem_upFrom 0 64 q).mp hq

theorem pickQueue_none {s : State} (pref : List Nat) (asked : ∀ q, q < 64 → s.askCommand q = s) (none : s.drawQueue = none) :
    s.pickQueue pref = s := by
  rw [State.pickQueue, askCommands_done asked, none]

theorem pickQueue_some {s : State} (pref : List Nat) {q : Nat} {g : BitVec 64} {c : Command}
    (asked : ∀ q, q < 64 → s.askCommand q = s) (drawn : s.drawQueue = some (q, g)) (head : s.command? q = some c) :
    s.pickQueue pref = (State.startCommand { s with lottery := g } c pref).forgetFar (s.commandSectors c) := by
  rw [State.pickQueue, askCommands_done asked, drawn]
  dsimp only
  rw [head]

/-- The command at a queue's head names the queue. -/
theorem command?_queue {s : State} {q : Nat} {c : Command} (head : s.command? q = some c) : c.queue = q := by
  unfold State.command? at head
  dsimp only at head
  split at head
  · split at head
    · cases head; rfl
    · split at head <;> cases head; rfl
  · split at head <;> cases head; rfl

/-- A command taken from its queue, with the launch that it started (0 for none). -/
def State.taken (s : State) (c : Command) (last : Nat) : State :=
  { s with queues := modifyAt s.queues c.queue fun k => { (k.takeHead) with lastLaunch := last } }

/-- A launch under the next name, and its command taken. -/
def State.launched (s : State) (c : Command) (l : Launch) : State :=
  ({ (s.bump) with launches := s.launches ++ [l] } : State).taken c l.id

section
variable {s : State} {c : Command} (pref : List Nat)

theorem startCommand_refused (launch : c.opc = 1) {x : Nat × Nat} (fault : s.checkImage c = some x) :
    s.startCommand c pref = (s.refuse c x.1 x.2).taken c 0 := by
  rw [State.startCommand, if_neg (by simp [launch]), fault]
  rfl

theorem startCommand_fresh (launch : c.opc = 1) (sound : s.checkImage c = none)
    (fresh : (s.openContext c).hdr c.ctx c.image 6 2 ≠ 1) :
    s.startCommand c pref = ((s.openContext c).launched c ((s.openContext c).newLaunch c)).completeLaunch
      ((s.openContext c).newLaunch c).id := by
  rw [State.startCommand, if_neg (by simp [launch]), sound]
  dsimp only
  rw [if_neg fresh]
  rfl

theorem startCommand_saved (launch : c.opc = 1) (sound : s.checkImage c = none)
    (saved : (s.openContext c).hdr c.ctx c.image 6 2 = 1) :
    let l := (s.openContext c).savedLaunchOf ((s.openContext c).newLaunch c) pref
    s.startCommand c pref = (((s.openContext c).launched c l).restore l pref).getD ((s.openContext c).launched c l) := by
  rw [State.startCommand, if_neg (by simp [launch]), sound]
  dsimp only
  rw [if_pos saved]
  rfl

end

/-- A command of a queue that fails a check is reported and starts nothing (R39). -/
theorem refuse_reports {s : State} {c : Command} (ring : c.aux = none) (detail va : Nat) :
    SameButReports s (s.refuse c detail va) := by
  rw [State.refuse, ring]
  exact SameButReports.report s _ _ _

/-- Opening a context's record changes context records only. -/
theorem openContext_eq (s : State) (c : Command) : ∃ ctxs, s.openContext c = { s with ctxs := ctxs } := by
  unfold State.openContext
  split
  · exact ⟨_, rfl⟩
  · exact ⟨_, rfl⟩

theorem openContext_keeps (s : State) (c : Command) : (s.openContext c).launches = s.launches ∧
    (s.openContext c).queues = s.queues ∧ (s.openContext c).nextId = s.nextId ∧ (s.openContext c).pads = s.pads ∧
    (s.openContext c).mem = s.mem ∧ (s.openContext c).lottery = s.lottery := by
  obtain ⟨ctxs, opened⟩ := openContext_eq s c
  rw [opened]
  exact ⟨rfl, rfl, rfl, rfl, rfl, rfl⟩

/-- The context of a command that starts has a record (R376). -/
theorem openContext_ctx? (s : State) (c : Command) : ((s.openContext c).ctx? c.ctx).isSome := by
  unfold State.openContext
  split
  · next known =>
    obtain ⟨x, hx, same⟩ := List.find?_isSome.mp known
    refine List.find?_isSome.mpr ⟨_, List.mem_map_of_mem hx, ?_⟩
    have same : x.id = c.ctx := by simpa using same
    simp [same]
  · exact List.find?_isSome.mpr ⟨_, List.mem_append_right _ (List.mem_singleton_self _), by simp⟩

/-- The launch just started under a new name is found by it. -/
theorem launch?_launched {s : State} (c : Command) {l : Launch} (new : ∀ x ∈ s.launches, x.id ≠ l.id) :
    (s.launched c l).launch? l.id = some l := by
  have before : s.launches.find? (fun x => decide (x.id = l.id)) = none := by simpa using new
  change (s.launches ++ [l]).find? (fun x => decide (x.id = l.id)) = some l
  rw [List.find?_append, before]
  simp

/-- A launch that has units left to dispatch is not over (R30). -/
theorem launchOver_left {s : State} {l : Launch} (left : ∃ r ∈ l.counters, r.1 < r.2) : s.launchOver l = false := by
  have open_ : (l.counters.all fun r => decide (r.2 ≤ r.1)) = false := by simpa using left
  rw [State.launchOver, open_]
  simp

theorem completeLaunch_notOver {s : State} {l : Launch} (known : s.launch? l.id = some l) (left : s.launchOver l = false) :
    s.completeLaunch l.id = s := by
  rw [State.completeLaunch, known]
  simp [left]

/-- R39: a queue's command that fails a check starts nothing and is taken. -/
theorem queuePick_refused {s : State} {pref : List Nat} {q : Nat} {g : BitVec 64} {c : Command} {x : Nat × Nat}
    (asked : ∀ n, n < 64 → s.askCommand n = s) (drawn : s.drawQueue = some (q, g)) (head : s.command? q = some c)
    (launch : c.opc = 1) (fault : State.checkImage { s with lottery := g } c = some x) (ring : c.aux = none) :
    ∃ t, s.pickQueue pref = t ∧ t.launches = s.launches ∧ t.pads = s.pads ∧ t.lottery = g ∧
      t.queues = modifyAt s.queues q fun k => { k.takeHead with lastLaunch := 0 } := by
  rw [pickQueue_some pref asked drawn head, startCommand_refused pref launch fault]
  obtain ⟨mem, faultQs, triggers, ctxs, service, fabric, refused⟩ :=
    refuse_reports (s := { s with lottery := g }) ring x.1 x.2
  obtain ⟨far, forgot⟩ := forgetFar_eq ((State.refuse { s with lottery := g } c x.1 x.2).taken c 0) (s.commandSectors c)
  rw [forgot, refused, State.taken, command?_queue head]
  exact ⟨_, rfl, rfl, rfl, rfl, rfl⟩

/-- R40, R43, R376: a command of a fresh image starts a launch and opens its context's record. -/
theorem queuePick_fresh {s : State} {pref : List Nat} {q : Nat} {g : BitVec 64} {c : Command}
    (asked : ∀ n, n < 64 → s.askCommand n = s) (drawn : s.drawQueue = some (q, g)) (head : s.command? q = some c)
    (launch : c.opc = 1) (sound : State.checkImage { s with lottery := g } c = none)
    (fresh : (State.openContext { s with lottery := g } c).hdr c.ctx c.image 6 2 ≠ 1)
    (new : ∀ x ∈ s.launches, x.id ≠ s.nextId)
    (left : ∃ r ∈ ((State.openContext { s with lottery := g } c).newLaunch c).counters, r.1 < r.2) :
    ∃ t, s.pickQueue pref = t ∧ t.pads = s.pads ∧ t.mem = s.mem ∧
      t.launches = s.launches ++ [(State.openContext { s with lottery := g } c).newLaunch c] ∧ (t.ctx? c.ctx).isSome ∧
      t.lottery = g ∧ t.queues = modifyAt s.queues q fun k => { k.takeHead with lastLaunch := s.nextId } := by
  obtain ⟨launches, queues, nextId, pads, mem, lottery⟩ := openContext_keeps { s with lottery := g } c
  have known : ((State.openContext { s with lottery := g } c).ctx? c.ctx).isSome := openContext_ctx? _ c
  rw [pickQueue_some pref asked drawn head, startCommand_fresh pref launch sound fresh, completeLaunch_notOver]
  · obtain ⟨far, forgot⟩ := forgetFar_eq ((State.openContext { s with lottery := g } c).launched c
      ((State.openContext { s with lottery := g } c).newLaunch c)) (s.commandSectors c)
    rw [forgot, State.launched, State.taken, command?_queue head]
    have named : ((State.openContext { s with lottery := g } c).newLaunch c).id = s.nextId := nextId
    refine ⟨_, rfl, pads, mem, congrArg (· ++ _) launches, known, lottery, ?_⟩
    rw [named]
    exact congrArg (modifyAt · q _) queues
  · refine launch?_launched c ?_
    rw [launches, show ((State.openContext { s with lottery := g } c).newLaunch c).id = s.nextId from nextId]
    exact new
  · exact launchOver_left left

theorem launched_eq {v : State} {c : Command} {l : Launch} {launches : List Launch} {queues : List SubQueue} {id q : Nat}
    (hl : v.launches = launches) (hq : v.queues = queues) (hid : l.id = id) (hc : c.queue = q) : v.launched c l =
      { v.bump with launches := launches ++ [l], queues := modifyAt queues q fun k => { k.takeHead with lastLaunch := id } } := by
  subst hl hq hid hc
  rfl

/-- R54: a saved image whose work finds no cores is a launch whose work comes back later; else it comes back at once. -/
theorem queuePick_saved {s v w : State} {pref : List Nat} {q : Nat} {g : BitVec 64} {c : Command} {l : Launch}
    (asked : ∀ n, n < 64 → s.askCommand n = s) (drawn : s.drawQueue = some (q, g)) (head : s.command? q = some c)
    (launch : c.opc = 1) (sound : State.checkImage { s with lottery := g } c = none)
    (opened : v = State.openContext { s with lottery := g } c) (saved : v.hdr c.ctx c.image 6 2 = 1)
    (hl : l = v.savedLaunchOf (v.newLaunch c) pref)
    (hw : w = { v.bump with launches := s.launches ++ [l],
                            queues := modifyAt s.queues q fun k => { k.takeHead with lastLaunch := s.nextId } }) :
    (w.restore l pref = none → ∃ t, s.pickQueue pref = t ∧ t.pads = s.pads ∧ t.mem = s.mem ∧
      t.launches = s.launches ++ [l] ∧ t.lottery = g ∧ t.queues = w.queues) ∧
    ∀ x, w.restore l pref = some x → s.pickQueue pref = x.forgetFar (State.commandSectors { s with lottery := g } c) := by
  rw [commandSectors_lottery]
  obtain ⟨launches, queues, nextId, pads, mem, lottery⟩ := openContext_keeps { s with lottery := g } c
  rw [← opened] at launches queues nextId pads mem lottery
  have named : l.id = s.nextId := by rw [hl]; exact nextId
  have picked : s.pickQueue pref = ((w.restore l pref).getD w).forgetFar (s.commandSectors c) := by
    rw [pickQueue_some pref asked drawn head, startCommand_saved pref launch sound (opened ▸ saved), ← opened, ← hl,
      launched_eq launches queues named (command?_queue head), hw]
  rw [picked]
  refine ⟨fun none => ?_, fun x some => by rw [some]; rfl⟩
  obtain ⟨far, forgot⟩ := forgetFar_eq w (s.commandSectors c)
  rw [none, Option.getD_none, forgot, hw]
  exact ⟨_, rfl, pads, mem, rfl, lottery, rfl⟩

end Sys2Proof.Machine

/-! SUPPORT. A launch completes (R30, R99, R100): its completion word, its count word, and what waits for it. -/

namespace Sys2Proof.Machine

/-! ### A write of the device while no access is in flight -/

section
variable {m : Mem} (none : m.ops = [])
include none

theorem Mem.ops_commit (line : Nat) : (m.commit line).ops = [] := by
  have current : ∀ wt (cells : List Host.Cell) (m : Mem), m.ops = [] →
      (cells.foldl (fun (m : Mem) c => m.setCurrent wt c) m).ops = [] := by
    intro wt cells
    induction cells with
    | nil => exact fun _ h => h
    | cons c rest ih => exact fun m h => ih (m.setCurrent wt c) h
  unfold Mem.commit
  split
  · exact none
  · exact List.map_eq_nil_iff.mpr (current _ _ _ none)

theorem Mem.ops_commitDue (line now : Nat) : (m.commitDue line now).ops = [] := by
  unfold Mem.commitDue
  split
  · split
    · exact Mem.ops_commit none line
    · exact none
  · exact none

theorem Mem.ops_putPending (line wt : Nat) (cells : List Host.Cell) : (m.putPending line wt cells).ops = [] := by
  unfold Mem.putPending
  split <;> exact none

theorem Mem.ops_ownLine (now floor key : Nat) (bs : List Byte) : (m.ownLine now floor key bs).ops = [] :=
  Mem.ops_commitDue (Mem.ops_putPending (m := (m.commitDue (lineOf key) now).dropFree (lineOf key))
    (Mem.ops_commitDue none _ _) _ _ _) _ _

end

theorem Mem.ops_ownLines (now floor n : Nat) : ∀ (m : Mem) (key : Nat) (bs : List Byte), m.ops = [] →
    (Mem.ownLines now floor n m key bs).ops = [] := by
  induction n with
  | zero => exact fun _ _ _ h => h
  | succ n ih =>
    intro m key bs h
    rw [Mem.ownLines]
    split
    · exact h
    · exact ih _ _ _ (Mem.ops_ownLine h _ _ _ _)

/-- A device write starts no access. -/
theorem State.ops_ownStore {s : State} (h : s.mem.ops = []) (key : Nat) (bs : List Byte) : (s.ownStore key bs).mem.ops = [] := by
  obtain ⟨recalls, recalled⟩ := recallGuests_foldl (linesFrom key bs.length) s
  unfold State.ownStore State.ownStoreFrom
  dsimp only
  rw [recalled]
  exact Mem.ops_ownLines _ _ _ { s.mem with recalls := recalls } _ _ h

/-- Where no access is in flight and no record is held, what follows an update of memory changes triggers and context records
only. -/
theorem afterUpdate_calm {s : State} (ops : s.mem.ops = []) (held : s.faultQs = []) : ∃ triggers ctxs,
    s.afterUpdate = { s with triggers := triggers, ctxs := ctxs } := by
  have quiet : s.scanWatches = s := by rw [State.scanWatches, ops]; rfl
  have undrained : s.fire.drainAll = s.fire := by
    rw [State.drainAll, show s.fire.faultQs = [] from held]
    rfl
  rw [State.afterUpdate, quiet, undrained]
  exact ⟨_, _, rfl⟩

/-- Bytes of a line of which no version is pending are the current ones. -/
theorem latestBytes_direct {s : State} {key n : Nat} (h : s.Direct key n) : leValue (s.mem.latestBytes key n) = s.num key n := by
  obtain ⟨pos, same⟩ := h.line
  refine congrArg leValue (List.map_congr_left fun k hk => ?_)
  have inLine : lineOf k = lineOf key := by
    have := (mem_upFrom key n k).mp hk
    unfold lineOf at *
    omega
  rw [Mem.latest, inLine, h.current]

/-! ### Completion -/

/-- The completion word added to, and what that is followed by (R30). -/
def State.credited (s : State) (l : Launch) : State := (s.addCompletion l).afterUpdate

/-- The count word of a launch that a LAUNCH record entered is counted up (R99). -/
def State.counted (s : State) (l : Launch) : State :=
  match l.aux with
  | some a => s.countRecord l.ctx l.recOwner a 1
  | none => s

/-- A launch and its barrier words gone. -/
def State.without (s : State) (id : Nat) : State :=
  { s with launches := s.launches.filter fun x => decide (x.id ≠ id), units := s.units.filter fun u => decide (u.launch ≠ id) }

section
variable {s : State} {l : Launch} (known : s.launch? l.id = some l)
include known

theorem completeLaunch_early (early : s.clk < l.mark) : s.completeLaunch l.id = s := by
  rw [State.completeLaunch, known]
  simp [early]

theorem completeLaunch_held {line : Nat} (ended : s.launchOver l = true) (visible : l.mark ≤ s.clk)
    (held : s.wordHeld l = some line) : s.completeLaunch l.id = s.recallGuests line := by
  rw [State.completeLaunch, known]
  simp [ended, Nat.not_lt.mpr visible, held]

end

/-- A launch is over, its work is visible, and no guest die holds the line of its completion word (R30, R260). -/
structure State.MayComplete (s : State) (l : Launch) : Prop where
  known : s.launch? l.id = some l
  ended : s.launchOver l = true
  visible : l.mark ≤ s.clk
  free : s.wordHeld l = none

/-- Such a launch adds to its words and leaves, once its completion word can be added to. -/
theorem State.MayComplete.done {s : State} {l : Launch} (h : s.MayComplete l) (ready : s.cwReady l = true) :
    s.completeLaunch l.id = ((s.credited l).counted l).without l.id := by
  rw [State.completeLaunch, h.known]
  simp only [h.ended, Nat.not_lt.mpr h.visible, h.free, ready, Bool.not_true, decide_false, Bool.or_false, Bool.false_eq_true,
    if_false]
  rfl

/-- A command that names no completion word waits for none and adds to none (R30). -/
theorem cwReady_unnamed {s : State} {l : Launch} (unnamed : l.cwAddr = 0) : s.cwReady l = true := by
  unfold State.cwReady
  split <;> simp [unnamed]

theorem credited_unnamed {s : State} {l : Launch} (unnamed : l.cwAddr = 0) (calm : s.Calm) : ∃ triggers ctxs,
    s.credited l = { s with triggers := triggers, ctxs := ctxs } := by
  rw [State.credited, State.addCompletion, if_pos unnamed]
  exact afterUpdate_calm calm.ops calm.held

/-- R30: a launch of a command with no completion word leaves. -/
theorem complete_unnamed {s : State} {l : Launch} (h : s.MayComplete l) (calm : s.Calm) (ring : l.aux = none)
    (unnamed : l.cwAddr = 0) :
    ∃ t, s.completeLaunch l.id = t ∧ t.pads = s.pads ∧ t.mem = s.mem ∧
      t.launches = s.launches.filter fun x => decide (x.id ≠ l.id) := by
  obtain ⟨triggers, ctxs, credited⟩ := credited_unnamed unnamed calm
  rw [h.done (cwReady_unnamed unnamed), State.counted, ring, credited]
  exact ⟨_, rfl, rfl, rfl, rfl⟩

/-- A completion word in this module's memory or the host's that an add may be performed on (R30). -/
structure State.WordAt (s : State) (l : Launch) (p : Page) (k : Nat) : Prop where
  named : l.cwAddr ≠ 0
  aligned : l.cwAddr % 8 = 0
  lt : l.cwAddr < 2 ^ 57
  below : l.cwAddr < spadWindow
  walk : s.walk l.ctx l.cwAddr = some p
  mayWrite : p.check true = .page p
  loc : s.pageLoc p l.cwAddr = .mem k
  direct : s.Direct k 8
  there : s.stackGone k = false
  host : s.hostFault (s.ownerOf l.ctx) k = none

namespace State.WordAt

variable {s : State} {l : Launch} {p : Page} {k : Nat} (h : s.WordAt l p k)
include h

theorem key : s.devKey l.ctx l.cwAddr true = some k := by
  have inRange : ¬ (2 ^ 57 ≤ l.cwAddr ∨ 0x1FFFF0000000000 ≤ l.cwAddr) := by
    have := h.below
    have := h.lt
    unfold spadWindow at *
    omega
  rw [State.devKey, State.devLoc, if_neg inRange, h.walk]
  dsimp only
  rw [h.mayWrite]
  dsimp only
  rw [h.loc]

theorem clean (free : s.wordHeld l = none) : s.mem.guestDirty (lineOf k) = false := by
  simpa [State.wordHeld, h.key, h.named] using free

theorem ready (free : s.wordHeld l = none) : s.cwReady l = true := by
  rw [State.cwReady, h.key]
  simp [State.ownReady_direct h.direct (h.clean free)]

theorem add : s.addCompletion l = s.ownStore k (leBytes 8 (s.num k 8 + l.cwInc)) := by
  have sound : ¬ (l.cwAddr % 8 ≠ 0 ∨ 2 ^ 57 ≤ l.cwAddr ∨ spadWindow ≤ l.cwAddr) := by
    have := h.aligned
    have := h.lt
    have := h.below
    omega
  simp only [State.addCompletion, if_neg h.named, if_neg sound, h.walk, h.mayWrite, h.loc, h.there, Bool.false_eq_true, if_false,
    h.host, latestBytes_direct h.direct]

/-- R30: CWINC is added to the completion word, and no other byte changes. -/
theorem credit (calm : s.Calm) : ∃ mem triggers ctxs,
    s.credited l = { s with mem := mem, triggers := triggers, ctxs := ctxs } ∧
      (s.credited l).num k 8 = (s.num k 8 + l.cwInc) % 2 ^ 64 ∧ OnlyBytes s (s.credited l) k 8 := by
  have written := State.num_ownStore (s.num k 8 + l.cwInc) h.direct calm.wf
  have others := State.byte_ownStore (bs := leBytes 8 (s.num k 8 + l.cwInc)) (by rw [length_leBytes]; exact h.direct) calm.wf
  have idle := State.ops_ownStore calm.ops k (leBytes 8 (s.num k 8 + l.cwInc))
  obtain ⟨mem, stored⟩ := ownStore_eq s k (leBytes 8 (s.num k 8 + l.cwInc))
  rw [stored] at written others idle
  obtain ⟨triggers, ctxs, after⟩ := afterUpdate_calm idle calm.held
  rw [State.credited, h.add, stored, after]
  refine ⟨mem, triggers, ctxs, rfl, written, fun x hx => (others x).trans (if_neg ?_)⟩
  rw [length_leBytes]
  omega

end State.WordAt

/-- R30: a launch of a command with a completion word adds CWINC to it and leaves. -/
theorem complete_word {s : State} {l : Launch} {p : Page} {k : Nat} (h : s.MayComplete l) (calm : s.Calm)
    (ring : l.aux = none) (word : s.WordAt l p k) :
    ∃ t, s.completeLaunch l.id = t ∧ t.pads = s.pads ∧ t.num k 8 = (s.num k 8 + l.cwInc) % 2 ^ 64 ∧ OnlyBytes s t k 8 ∧
      t.launches = s.launches.filter fun x => decide (x.id ≠ l.id) := by
  obtain ⟨mem, triggers, ctxs, credited, sum, only⟩ := word.credit calm
  rw [h.done (word.ready h.free), State.counted, ring]
  dsimp only
  rw [credited] at sum only ⊢
  exact ⟨_, rfl, rfl, sum, only, rfl⟩

/-- A record of the front end enters the broadcast queue, or waits outside it behind those that wait (R89, log entry 60). -/
theorem enqueueFront_joins (s : State) (hdr p0 p1 : BitVec 64) : ∃ tap, s.enqueueFront hdr p0 p1 = { s with tap := tap } ∧
    (s.tap.outside = [] → s.queueRoom 1 = true → tap.queue = s.tap.queue ++ [Rec.mk hdr p0 p1 1 0 s.tap.nextNum]) ∧
    (s.tap.outside ≠ [] ∨ s.queueRoom 1 = false →
      tap.queue = s.tap.queue ∧ tap.outside = s.tap.outside ++ [Rec.mk hdr p0 p1 1 0 0]) := by
  by_cases room : s.tap.outside = [] ∧ s.queueRoom 1 = true
  · obtain ⟨empty, room⟩ := room
    rw [State.enqueueFront, if_pos (by simpa [empty] using room)]
    exact ⟨_, rfl, fun _ _ => rfl, by simp [empty, room]⟩
  · rw [State.enqueueFront, if_neg (by simpa using room)]
    exact ⟨_, rfl, fun empty has => absurd ⟨empty, has⟩ room, fun _ => ⟨rfl, rfl⟩⟩

/-- R99: a launch of a LAUNCH record sends an ADD of 1 to its count word and leaves. -/
theorem complete_record {s : State} {l : Launch} {a : Nat} (h : s.MayComplete l) (calm : s.Calm)
    (record : l.aux = some a) (counts : a ≠ 0xFFFF) (unnamed : l.cwAddr = 0) :
    let r := Rec.mk (headerWord 2 l.recOwner s.tap.position false 1 l.ctx 0) (BitVec.ofNat 64 (8 * a)) 1 1 0
    ∃ t, s.completeLaunch l.id = t ∧ t.mem = s.mem ∧ (t.launches = s.launches.filter fun x => decide (x.id ≠ l.id)) ∧
      (s.tap.outside = [] → s.queueRoom 1 = true → t.tap.queue = s.tap.queue ++ [r s.tap.nextNum]) ∧
      (s.tap.outside ≠ [] ∨ s.queueRoom 1 = false → t.tap.queue = s.tap.queue ∧ t.tap.outside = s.tap.outside ++ [r 0]) := by
  intro r
  obtain ⟨triggers, ctxs, credited⟩ := credited_unnamed unnamed calm
  obtain ⟨tap, joined, joins⟩ := enqueueFront_joins { s with triggers := triggers, ctxs := ctxs }
    (headerWord 2 l.recOwner s.tap.position false 1 l.ctx 0) (BitVec.ofNat 64 (8 * a)) (BitVec.ofNat 64 1)
  rw [h.done (cwReady_unnamed unnamed), State.counted, record, credited]
  dsimp only
  rw [State.countRecord, if_neg counts, joined]
  exact ⟨_, rfl, rfl, rfl, joins⟩

end Sys2Proof.Machine

/-! SUPPORT. A dispatcher gives a free core work (R37, R38, R44): a new task, the top task of the die's stack and the
next ticket of a launch. -/

namespace Sys2Proof.Machine

theorem sameReads_spawns (s : State) (spawns : List (List Spawn)) : SameReads s { s with spawns := spawns } :=
  ⟨rfl, rfl, rfl, fun _ => rfl⟩

/-- A change of launches that leaves their contexts leaves what the device reads. -/
theorem sameReads_mapLaunch (s : State) (id : Nat) (f : Launch → Launch) (hf : ∀ l, (f l).ctx = l.ctx) :
    SameReads s (s.mapLaunch id f) := by
  refine ⟨rfl, rfl, rfl, fun ctx => ?_⟩
  have same : ∀ l : Launch, (if l.id = id then f l else l).ctx = l.ctx := by
    intro l
    split
    · exact hf l
    · rfl
  have any : (s.mapLaunch id f).launches.any (fun l => decide (l.ctx = ctx)) = s.launches.any fun l => decide (l.ctx = ctx) := by
    simp only [State.mapLaunch, List.any_map, Function.comp_def, same]
  rw [State.tableOf, any]
  rfl

/-! ### A new task (R37, R38) -/

/-- Every thread of the task starts at a word, with its number in g1. -/
def Pad.entered (p : Pad) (entry : Nat) : Prop :=
  ∀ (n : Nat) (g : FileGroup), p.fgs[n]? = some g → ∀ (i : Nat) (th : Thread), g.threads[i]? = some th →
    th.pc = BitVec.ofNat 57 entry ∧ th.reg 1 = BitVec.ofNat 32 i ∧ th.exited = false ∧ th.wait = .ready

/-- The number at a place of consecutive numbers. -/
theorem eq_of_getElem?_upFrom {n x : Nat} : ∀ {lo i : Nat}, (upFrom lo n)[i]? = some x → x = lo + i := by
  induction n with
  | zero => exact fun h => by cases h
  | succ n ih =>
    intro lo i h
    cases i with
    | zero => exact (Option.some.inj h).symm
    | succ i =>
      have := ih (lo := lo + 1) h
      omega

theorem entryThread_reg1 (entry : Nat) (base : BitVec 64) (ctx fg i : Nat) :
    (entryThread entry base ctx fg i).reg 1 = BitVec.ofNat 32 i :=
  (tabGet_tabSet (0 : Word) [] 1 1 (BitVec.ofNat 32 i) rfl).trans (if_pos rfl)

/-- A new task's threads are at its block's entry. -/
theorem newTask_entered (s : State) (ctx launch core lb index unit unitPos grain : Nat) (slot : Option Nat) (vrec : Nat)
    (tiles : List Tile) (base : BitVec 64) :
    (s.newTask ctx launch core lb index unit unitPos grain slot vrec tiles base).entered (s.devNum ctx lb 8) := by
  intro n g hg i th hth
  obtain ⟨fg, -, rfl⟩ := Option.map_eq_some_iff.mp ((List.getElem?_map ..).symm.trans hg)
  obtain ⟨j, hj, rfl⟩ := Option.map_eq_some_iff.mp ((List.getElem?_map ..).symm.trans hth)
  have hj : j = i := by simpa using eq_of_getElem?_upFrom hj
  subst hj
  exact ⟨rfl, entryThread_reg1 _ _ _ _ _, rfl, rfl⟩

/-! ### The top task of a stack (R44) -/

theorem nextSpawn_mem {s : State} {die : Nat} {x : Spawn} (top : s.nextSpawn die = some x) : x ∈ atD [] s.spawns die :=
  (List.mem_filter.mp (List.mem_of_find?_eq_some top)).1

/-- A stack without one entry. -/
theorem dropSpawn_pushed (s : State) (die : Nat) {x : Spawn} (here : x.pool = none) : s.dropSpawn die x =
    { s with spawns := modifyAt s.spawns die fun l => l.filter fun y => decide (y.num ≠ x.num) } := by
  rw [State.dropSpawn, here]

/-- A stack changed. -/
theorem atD_modifyAt {α : Type} (d : α) (l : List α) (n m : Nat) (f : α → α) :
    atD d (modifyAt l n f) m = if m = n ∧ n < l.length then f (atD d l m) else atD d l m := by
  rw [atD_eq_getElem?, atD_eq_getElem?, getElem?_modifyAt]
  by_cases same : m = n
  · subst same
    by_cases within : m < l.length
    · simp [within]
    · simp [within]
  · simp [same]

/-- An entry that is dropped is off its stack, and others stay. -/
theorem dropped_stack (spawns : List (List Spawn)) (die : Nat) (x : Spawn) :
    let left := atD [] (modifyAt spawns die fun l => l.filter fun y => decide (y.num ≠ x.num)) die
    x ∉ left ∧ ∀ y ∈ atD [] spawns die, y.num ≠ x.num → y ∈ left := by
  intro left
  have hleft : left = (atD [] spawns die).filter fun y => decide (y.num ≠ x.num) := by
    change atD [] (modifyAt _ _ _) die = _
    rw [atD_modifyAt]
    split
    · rfl
    · next beyond =>
      have : spawns.length ≤ die := by simpa using beyond
      rw [atD_eq_getElem?, List.getElem?_eq_none this]
      rfl
  rw [hleft]
  exact ⟨by simp, fun y hy other => List.mem_filter.mpr ⟨hy, by simpa using other⟩⟩

section
variable {s : State} {core : Nat} (free : s.coreFree core = true) (read : ∀ x ∈ s.dispatchSectors core, s.hasFar x = true)
include free read

/-- A free core whose dispatcher has read all it needs is given work, of the stack of its die first. -/
theorem dispatchCore_spawn {x : Spawn} (top : s.nextSpawn (dieOf core) = some x) :
    s.dispatchCore core = (s.startSpawn core x).forgetFar (s.dispatchSectors core) := by
  simp [State.dispatchCore, free, List.all_eq_true.mpr read, top]

theorem dispatchCore_tickets (empty : s.nextSpawn (dieOf core) = none) :
    s.dispatchCore core = (s.tryLaunches core s.launchOrder).forgetFar (s.dispatchSectors core) := by
  simp [State.dispatchCore, free, List.all_eq_true.mpr read, empty]

end

theorem dispatchCore_busy {s : State} {core : Nat} (busy : s.coreFree core = false) : s.dispatchCore core = s := by
  rw [State.dispatchCore, busy]
  rfl

/-- R44: a free core is given the top task of its die's stack. -/
theorem dispatch_spawn {s : State} {core : Nat} {x : Spawn} (free : s.coreFree core = true)
    (read : ∀ x ∈ s.dispatchSectors core, s.hasFar x = true) (top : s.nextSpawn (dieOf core) = some x) (here : x.pool = none)
    (sound : s.blockFault x.ctx x.lb = none) :
    ∃ t p, s.dispatchCore core = t ∧ t.pads = s.pads ++ [p] ∧ t.mem = s.mem ∧ p.core = core ∧ p.ctx = x.ctx ∧
      p.launch = x.launch ∧ p.index = x.pindex ∧ p.slot = some x.slot ∧ p.entered (s.devNum x.ctx x.lb 8) ∧
      x ∉ atD [] t.spawns (dieOf core) ∧
      ∀ y ∈ atD [] s.spawns (dieOf core), y.num ≠ x.num → y ∈ atD [] t.spawns (dieOf core) := by
  have reads := sameReads_spawns s (modifyAt s.spawns (dieOf core) fun l => l.filter fun y => decide (y.num ≠ x.num))
  obtain ⟨gone, stay⟩ := dropped_stack s.spawns (dieOf core) x
  rw [dispatchCore_spawn free read top]
  rw [State.startSpawn, dropSpawn_pushed s _ here]
  dsimp only
  rw [reads.blockFault, sound]
  dsimp only
  rw [← reads.devNum]
  obtain ⟨far, forgot⟩ := forgetFar_eq (State.addPad _ (State.newTask _ x.ctx x.launch core x.lb x.pindex 0 0 0 (some x.slot)
    x.vrec _ (spawnBase x.seed x.slot))) (s.dispatchSectors core)
  rw [forgot]
  exact ⟨_, _, rfl, rfl, rfl, rfl, rfl, rfl, rfl, rfl, newTask_entered _ _ _ _ _ _ _ _ _ _ _ _ _, gone, stay⟩

/-! ### The next ticket of a launch (R44) -/

/-- The only launch of the module is the only one to try. -/
theorem launchOrder_single {s : State} {l : Launch} (only : s.launches = [l]) (class_ : l.cls < 4) : s.launchOrder = [l] := by
  rw [State.launchOrder, only]
  have cases_ : l.cls = 0 ∨ l.cls = 1 ∨ l.cls = 2 ∨ l.cls = 3 := by omega
  rcases cases_ with h | h | h | h <;> simp [h]

theorem mapLaunch_single {s : State} {l : Launch} (only : s.launches = [l]) (f : Launch → Launch) :
    (s.mapLaunch l.id f).launches = [f l] := by
  simp [State.mapLaunch, only]

/-- A launch whose parked units no longer list one. -/
def Launch.unparked (unit : Nat) (l : Launch) : Launch := { l with parked := l.parked.filter fun u => decide (u ≠ unit) }

/-- A unit of one core starts its task there, where its launch block is sound and declares no views (R37, R38). -/
theorem startUnit_core {s : State} {l : Launch} (unit core : Nat) (single : l.grain = 0) (sound : s.blockFault l.ctx l.lb = none)
    (plain : s.devNum l.ctx (l.lb + 0x10) 8 = 0) :
    s.startUnit l unit [core] = .ok ((s.mapLaunch l.id (Launch.unparked unit)).addPad
      ((s.mapLaunch l.id (Launch.unparked unit)).newTask l.ctx l.id core l.lb unit unit 0 0 none 0 [] (BitVec.ofNat 64 unit))) := by
  have added : s.addUnits l unit [core] = some s := by simp [State.addUnits, single]
  simp only [State.startUnit, sound, Option.isSome_none, Bool.false_eq_true, if_false, plain, if_true, added, State.placeUnit,
    single, List.headD_nil]
  rfl

/-- The module's only launch has a unit of one core left for a core's die, and nothing holds it back (R44, R343). -/
structure State.NextUnit (s : State) (l : Launch) (core : Nat) : Prop where
  only : s.launches = [l]
  class_ : l.cls < 4
  sane : l.failed = false
  fresh : l.restoring = none
  grid : l.dom = false
  single : l.grain = 0
  may : s.mayStart l.ctx = true
  left : (l.range (dieOf core)).1 < (l.range (dieOf core)).2
  sound : s.blockFault l.ctx l.lb = none
  plain : s.devNum l.ctx (l.lb + 0x10) 8 = 0

/-- R44: with an empty stack a free core is given the next ticket of a launch. -/
theorem dispatch_ticket {s : State} {core : Nat} {l : Launch} (free : s.coreFree core = true)
    (read : ∀ x ∈ s.dispatchSectors core, s.hasFar x = true) (empty : s.nextSpawn (dieOf core) = none) (h : s.NextUnit l core) :
    ∃ t p k, s.dispatchCore core = t ∧ t.pads = s.pads ++ [p] ∧ t.mem = s.mem ∧ p.core = core ∧ p.ctx = l.ctx ∧
      p.launch = l.id ∧ p.index = (l.range (dieOf core)).1 ∧ p.slot = none ∧ p.entered (s.devNum l.ctx l.lb 8) ∧
      t.launches = [k] ∧ k.id = l.id ∧ k.counters = modifyAt l.counters (dieOf core) fun r => (r.1 + 1, r.2) := by
  have reads := sameReads_mapLaunch s l.id (Launch.unparked (l.range (dieOf core)).1) fun _ => rfl
  have unit : s.unitCores l.grain l.np l.ns [] core = some [core] := by simp [State.unitCores, h.single, free]
  have startable : ¬ ((l.range (dieOf core)).2 ≤ (l.range (dieOf core)).1 ∨ l.failed ∨ s.mayStart l.ctx = false) := by
    simp [h.sane, h.may, h.left]
  rw [dispatchCore_tickets free read empty, launchOrder_single h.only h.class_, State.tryLaunches, State.startNext, h.fresh]
  dsimp only
  rw [if_neg startable, h.grid, if_neg Bool.false_ne_true, unit]
  dsimp only
  rw [startUnit_core _ core h.single h.sound h.plain]
  dsimp only
  obtain ⟨far, forgot⟩ := forgetFar_eq (State.takeTicket _ l.id (dieOf core)) (s.dispatchSectors core)
  rw [forgot, ← reads.devNum]
  exact ⟨_, _, { l.unparked (l.range (dieOf core)).1 with counters := modifyAt l.counters (dieOf core) fun r => (r.1 + 1, r.2) },
    rfl, rfl, rfl, rfl, rfl, rfl, rfl, rfl, newTask_entered _ _ _ _ _ _ _ _ _ _ _ _ _,
    mapLaunch_single (l := l.unparked (l.range (dieOf core)).1) (mapLaunch_single h.only (Launch.unparked _)) _, rfl, rfl⟩

end Sys2Proof.Machine

/-! SUPPORT. Stealing and the end of a task (R14, R45, R46, R238), and the obligation on commands and dispatch. -/

namespace Sys2Proof.Machine

/-! ### The slalom order (R45) -/

theorem mem_interleave (x : Nat) : ∀ xs ys : List Nat, x ∈ interleave xs ys ↔ x ∈ xs ∨ x ∈ ys := by
  intro xs
  induction xs with
  | nil => simp [interleave]
  | cons a rest ih =>
    intro ys
    cases ys with
    | nil => simp [interleave]
    | cons b more =>
      simp only [interleave, List.mem_cons, ih]
      tauto

theorem mem_halfOrder (die half x : Nat) : x ∈ halfOrder die half ↔
    (12 * half ≤ x ∧ x < 12 * half + 12) ∧ x ≠ die ∧ hopDistance die x < 13 := by
  simp only [halfOrder, List.mem_flatMap, List.mem_filter, mem_upFrom, decide_eq_true_eq]
  constructor
  · rintro ⟨d, within, half, other, rfl⟩
    exact ⟨half, other, by omega⟩
  · rintro ⟨half, other, near⟩
    exact ⟨_, ⟨Nat.zero_le _, by omega⟩, half, other, rfl⟩

/-- No two compute dies are more than 12 hops apart (R14). -/
theorem hopDistance_lt (a b : Nat) : hopDistance a b < 13 := by
  have column : ∀ d, dieColumn d < 6 := fun d => Nat.mod_lt _ (by omega)
  have row : ∀ d, dieRow d < 2 := fun d => by unfold dieRow; omega
  have fabric : ∀ d, fabricDistance d ≤ 6 := by
    intro d
    have := column d
    unfold fabricDistance
    split <;> omega
  have := column a
  have := column b
  have := row a
  have := row b
  have := fabric a
  have := fabric b
  unfold hopDistance
  dsimp only
  split <;> omega

/-- A die's slalom order visits every other die (R45). -/
theorem mem_slalom {die v : Nat} (hd : die < 24) (hv : v < 24) (other : v ≠ die) : v ∈ slalom die := by
  simp only [slalom, mem_interleave, mem_halfOrder, hopDistance_lt, and_true]
  omega

/-! ### Stealing (R45) -/

/-- A search to which one element alone answers. -/
theorem findSome?_only {α β : Type} {f : α → Option β} {v : α} {y : β} (answer : f v = some y) (others : ∀ d, d ≠ v → f d = none) :
    ∀ l : List α, v ∈ l → l.findSome? f = some y := by
  intro l
  induction l with
  | nil => exact fun h => by cases h
  | cons a rest ih =>
    intro h
    by_cases same : a = v
    · rw [List.findSome?_cons, same, answer]
    · rw [List.findSome?_cons, others a same]
      exact ih (by simpa [Ne.symm same] using h)

/-- A victim with nothing of the launch gives nothing. -/
theorem stealFrom_nothing {s : State} {l : Launch} (die : Nat) {d : Nat} (dispatched : (l.range d).2 ≤ (l.range d).1)
    (unstacked : ∀ x ∈ atD [] s.spawns d, x.launch ≠ l.id) : s.stealFrom l die d = none := by
  have none : ((atD [] s.spawns d).reverse).find? (fun x => decide (x.launch = l.id)) = Option.none := by simpa using unstacked
  rw [State.stealFrom, none]
  exact if_pos (Or.inl dispatched)

/-- A die that holds nothing of the module's only launch, and the only victim that may hold some (R44, R45). -/
structure State.OneVictim (s : State) (l : Launch) (die v : Nat) : Prop where
  only : s.launches = [l]
  thief_lt : die < 24
  victim_lt : v < 24
  other : v ≠ die
  mine : l.dieMask.testBit die = true
  its : l.dieMask.testBit v = true
  may : s.mayStart l.ctx = true
  others : ∀ d, d ≠ v → (l.range d).2 ≤ (l.range d).1 ∧ ∀ x ∈ atD [] s.spawns d, x.launch ≠ l.id

/-- The thief takes what the only victim gives. -/
theorem State.OneVictim.stealWork {s t : State} {l : Launch} {die v : Nat} (h : s.OneVictim l die v)
    (given : s.stealFrom l die v = some t) : s.stealWork die l.id = t := by
  have known : s.launch? l.id = some l := by simp [State.launch?, h.only]
  obtain ⟨dispatched, unstacked⟩ := h.others die (Ne.symm h.other)
  have needy : ¬ ((l.range die).1 < (l.range die).2 ∨ !l.dieMask.testBit die ∨
      (atD [] s.spawns die).any (fun x => decide (x.launch = l.id)) ∨ s.mayStart l.ctx = false) := by
    simpa [h.mine, h.may, dispatched] using unstacked
  have found : ((slalom die).filter fun v => l.dieMask.testBit v).findSome? (fun v => s.stealFrom l die v) = some t :=
    findSome?_only given (fun d hd => stealFrom_nothing die (h.others d hd).1 (h.others d hd).2) _
      (List.mem_filter.mpr ⟨mem_slalom h.thief_lt h.victim_lt h.other, h.its⟩)
  rw [State.stealWork, known]
  dsimp only
  rw [if_neg needy, found]
  rfl

/-- A victim's range [a, b) split at m: the victim keeps the lower part, and the thief has the upper. -/
def Launch.split (v die a m b : Nat) (l : Launch) : Launch :=
  { l with counters := modifyAt (modifyAt l.counters v fun _ => (a, m)) die fun _ => (m, b) }

theorem stealFrom_tickets {s : State} {l : Launch} (die : Nat) {v : Nat} (left : (l.range v).1 < (l.range v).2)
    (grid : l.dom = false) (unstacked : ∀ x ∈ atD [] s.spawns v, x.launch ≠ l.id) :
    s.stealFrom l die v = some (s.mapLaunch l.id (Launch.split v die (l.range v).1
      ((l.range v).2 - ((l.range v).2 - (l.range v).1 + 1) / 2) (l.range v).2)) := by
  have none : ((atD [] s.spawns v).reverse).find? (fun x => decide (x.launch = l.id)) = Option.none := by simpa using unstacked
  rw [State.stealFrom, none]
  exact if_neg (by simp [grid, left])

theorem stealFrom_stack {s : State} {l : Launch} {die v : Nat} {x : Spawn} {ys : List Spawn}
    (stack : atD [] s.spawns v = ys ++ [x]) (its : x.launch = l.id) (here : x.pool = none)
    (room : ((atD [] s.spawns die).filter fun y => y.pool.isNone).length < 4096) :
    let spawns := modifyAt (modifyAt s.spawns v fun q => q.filter fun z => decide (z.num ≠ x.num)) die fun q => x :: q
    s.stealFrom l die v = some { s with spawns := spawns } := by
  intro spawns
  have oldest : ((atD [] s.spawns v).reverse).find? (fun x => decide (x.launch = l.id)) = some x := by simp [stack, its]
  have placed : s.stackPlace die x = some (s, x) := by simp only [State.stackPlace, here, room, decide_true]
  rw [State.stealFrom, oldest]
  dsimp only
  rw [placed]
  rfl

/-- R45: the upper half of the victim's tickets is the thief's. -/
theorem State.OneVictim.tickets {s : State} {l : Launch} {die v : Nat} (h : s.OneVictim l die v) (dies : l.counters.length = 24)
    (left : (l.range v).1 < (l.range v).2) (grid : l.dom = false) (unstacked : ∀ x ∈ atD [] s.spawns v, x.launch ≠ l.id) :
    let m := (l.range v).2 - ((l.range v).2 - (l.range v).1 + 1) / 2
    ∃ t k, s.stealWork die l.id = t ∧ t.pads = s.pads ∧ t.mem = s.mem ∧ t.spawns = s.spawns ∧ t.launches = [k] ∧
      k.range v = ((l.range v).1, m) ∧ k.range die = (m, (l.range v).2) := by
  refine ⟨_, _, h.stealWork (stealFrom_tickets die left grid unstacked), rfl, rfl, rfl, mapLaunch_single h.only _, ?_, ?_⟩
  · simp [Launch.range, Launch.split, atD_modifyAt, h.other, dies, h.victim_lt]
  · simp [Launch.range, Launch.split, atD_modifyAt, dies, h.thief_lt]

/-- R45: the oldest task of the victim's stack goes to the top of the thief's. -/
theorem State.OneVictim.task {s : State} {l : Launch} {die v : Nat} {x : Spawn} {ys : List Spawn} (h : s.OneVictim l die v)
    (dies : s.spawns.length = 24) (stack : atD [] s.spawns v = ys ++ [x]) (ofLaunch : x.launch = l.id)
    (named : ∀ y ∈ ys, y.num ≠ x.num) (here : x.pool = none)
    (room : ((atD [] s.spawns die).filter fun y => y.pool.isNone).length < 4096) :
    ∃ t, s.stealWork die l.id = t ∧ t.pads = s.pads ∧ t.mem = s.mem ∧ t.launches = s.launches ∧ atD [] t.spawns v = ys ∧
      atD [] t.spawns die = x :: atD [] s.spawns die := by
  refine ⟨_, h.stealWork (stealFrom_stack stack ofLaunch here room), rfl, rfl, rfl, ?_, ?_⟩
  · simpa [atD_modifyAt, h.other, dies, h.victim_lt, stack] using named
  · simp [atD_modifyAt, Ne.symm h.other, dies, h.thief_lt]

/-! ### A core whose task is over (R46, R238) -/

/-- A task that has pushed its successors has nothing left to do at its end. -/
theorem finishTask_pushed {s : State} {p : Pad} (here : s.pad? p.core = some p) (pushed : p.pushed = true) :
    s.finishTask p.core = s := by
  have ended : s.endTask p.core = s := by
    rw [State.endTask, here]
    simp [pushed]
  have unstalled : s.endStall p.core = none := by
    rw [State.endStall, here]
    simp [pushed]
  rw [State.finishTask, ended, unstalled]

theorem releaseSlot_pushed {s : State} {p : Pad} (here : s.pad? p.core = some p) (pushed : p.pushed = true) :
    s.releaseSlot p.core = if State.slotFree p then s.freeCore p.core else s := by
  rw [State.releaseSlot, finishTask_pushed here pushed, here]

/-- A core that is freed holds no pad group, and memory is as it was. -/
theorem freeCore_left (s : State) (core : Nat) :
    (s.freeCore core).mem = s.mem ∧ (s.freeCore core).pads = s.pads.filter fun x => decide (x.core ≠ core) := by
  obtain ⟨spent, units, dies, service, freed⟩ := freeCore_frees s core
  rw [freed]
  exact ⟨rfl, by simp⟩

/-! ### The obligation -/

/-- Settles O60, a row of the front end and of the dispatchers at a time. -/
theorem commandsAndDispatch : Obligations.CommandsAndDispatch := by
  unfold Obligations.CommandsAndDispatch
  refine ⟨⟨?doorbell, ?idle, ?pick⟩, ?complete, ?dispatch, ?steal, ?release⟩
  case doorbell =>
    intro s q tail
    exact ⟨fun down => congrArg Host.Outcome.next (if_pos (by simp [down])),
      fun up => ⟨_, congrArg Host.Outcome.next (doorbell_up q tail up), rfl, rfl⟩⟩
  case idle =>
    intro s pref asked none
    exact congrArg Host.Outcome.next (pickQueue_none pref asked none)
  case pick =>
    intro s pref q g c asked drawn head u v
    refine ⟨?_, ?_, ?_⟩
    · intro launch x fault ring
      obtain ⟨t, picked, left⟩ := queuePick_refused asked drawn head launch fault ring
      exact ⟨t, congrArg Host.Outcome.next picked, left⟩
    · intro launch sound fresh new left
      obtain ⟨t, picked, left⟩ := queuePick_fresh asked drawn head launch sound fresh new left
      exact ⟨t, congrArg Host.Outcome.next picked, left⟩
    · intro launch sound saved l w
      obtain ⟨later, now⟩ := queuePick_saved (v := v) (l := l) (w := w) asked drawn head launch sound rfl saved rfl rfl
      refine ⟨fun none => ?_, fun x back => congrArg Host.Outcome.next (now x back)⟩
      obtain ⟨t, picked, left⟩ := later none
      exact ⟨t, congrArg Host.Outcome.next picked, left⟩
  case complete =>
    intro s l known
    refine ⟨fun left => ?_, fun early => ?_, fun line ended visible held => ?_, fun ended visible free calm => ⟨?_, ?_, ?_⟩⟩
    · exact congrArg Host.Outcome.next (completeLaunch_notOver known left)
    · exact congrArg Host.Outcome.next (completeLaunch_early known early)
    · exact congrArg Host.Outcome.next (completeLaunch_held known ended visible held)
    · intro ring unnamed
      obtain ⟨t, completed, left⟩ := complete_unnamed ⟨known, ended, visible, free⟩ calm ring unnamed
      exact ⟨t, congrArg Host.Outcome.next completed, left⟩
    · intro p k ring named aligned lt below walk mayWrite loc direct there host
      obtain ⟨t, completed, left⟩ := complete_word ⟨known, ended, visible, free⟩ calm ring
        ⟨named, aligned, lt, below, walk, mayWrite, loc, direct, there, host⟩
      exact ⟨t, congrArg Host.Outcome.next completed, left⟩
    · intro a record counts unnamed
      obtain ⟨t, completed, left⟩ := complete_record ⟨known, ended, visible, free⟩ calm record counts unnamed
      exact ⟨t, congrArg Host.Outcome.next completed, left⟩
  case dispatch =>
    intro s core entered
    refine ⟨fun busy => congrArg Host.Outcome.next (dispatchCore_busy busy), fun free read => ⟨?_, ?_⟩⟩
    · intro x top here sound
      obtain ⟨t, p, given, left⟩ := dispatch_spawn free read top here sound
      exact ⟨t, p, congrArg Host.Outcome.next given, left⟩
    · intro l empty only class_ sane fresh grid single may left sound plain
      obtain ⟨t, p, k, given, left⟩ :=
        dispatch_ticket free read empty ⟨only, class_, sane, fresh, grid, single, may, left, sound, plain⟩
      exact ⟨t, p, k, congrArg Host.Outcome.next given, left⟩
  case steal =>
    intro s l die v only hd hv other dies piles dispatched mine its may others a b m
    have one : s.OneVictim l die v := ⟨only, hd, hv, other, mine, its, may, others⟩
    refine ⟨?_, ?_⟩
    · intro left grid unstacked
      obtain ⟨t, k, stolen, left⟩ := one.tickets dies left grid unstacked
      exact ⟨t, k, congrArg Host.Outcome.next stolen, left⟩
    · intro x ys stack ofLaunch named here room
      obtain ⟨t, stolen, left⟩ := one.task piles stack ofLaunch named here room
      exact ⟨t, congrArg Host.Outcome.next stolen, left⟩
  case release =>
    intro s p here pushed
    exact ⟨fun held => congrArg Host.Outcome.next ((releaseSlot_pushed here pushed).trans (if_neg (by simp [held]))),
      fun over_ => ⟨_, congrArg Host.Outcome.next ((releaseSlot_pushed here pushed).trans (if_pos over_)),
        freeCore_left s p.core⟩⟩

end Sys2Proof.Machine

/-! SUPPORT. What the report engine touches, field by field (R307, R308). -/

namespace Sys2Proof.Machine

/-! ### The report engine at work -/

/-- The second state is the first after the report engine has served fault queues: memory, the queues, what fires, context
records, MSI-X and the DETAIL counts may differ, and no access has started. -/
def Served (s t : State) : Prop :=
  ∃ mem faultQs triggers ctxs msix detail, (s.mem.ops = [] → mem.ops = []) ∧ t = { s with
    mem := mem, faultQs := faultQs, triggers := triggers, ctxs := ctxs,
    service := { s.service with msix := msix, detail := detail } }

namespace Served

theorem refl (s : State) : Served s s := ⟨_, _, _, _, _, _, id, rfl⟩

theorem trans {s t u : State} : Served s t → Served t u → Served s u := by
  rintro ⟨_, _, _, _, _, _, idle, rfl⟩ ⟨_, _, _, _, _, _, still, rfl⟩
  exact ⟨_, _, _, _, _, _, still ∘ idle, rfl⟩

theorem pads {s t : State} : Served s t → t.pads = s.pads := by rintro ⟨_, _, _, _, _, _, _, rfl⟩; rfl
theorem tap {s t : State} : Served s t → t.tap = s.tap := by rintro ⟨_, _, _, _, _, _, _, rfl⟩; rfl
theorem fabric {s t : State} : Served s t → t.fabric = s.fabric := by rintro ⟨_, _, _, _, _, _, _, rfl⟩; rfl
theorem ready {s t : State} : Served s t → t.service.ready = s.service.ready := by rintro ⟨_, _, _, _, _, _, _, rfl⟩; rfl
theorem ops {s t : State} : Served s t → s.mem.ops = [] → t.mem.ops = [] := by rintro ⟨_, _, _, _, _, _, idle, rfl⟩; exact idle

theorem readyBit {s t : State} (h : Served s t) (b : Nat) : t.readyBit b = s.readyBit b := by
  rw [State.readyBit, h.ready, State.readyBit]

theorem foldl {α : Type} (f : State → α → State) (hf : ∀ s x, Served s (f s x)) (l : List α) :
    ∀ s, Served s (l.foldl f s) := by
  induction l with
  | nil => exact refl
  | cons x rest ih => exact fun s => (hf s x).trans (ih _)

theorem recallGuests (s : State) (line : Nat) : Served s (s.recallGuests line) :=
  ⟨(s.recallGuests line).mem, _, _, _, _, _, id, rfl⟩

theorem ownWait (s : State) (key n : Nat) : Served s (s.ownWait key n) := by
  refine foldl _ (fun s l => ?_) _ s
  split
  · exact recallGuests s l
  · exact refl s

theorem ownStore (s : State) (key : Nat) (bs : List Byte) : Served s (s.ownStore key bs) := by
  have idle := fun h : s.mem.ops = [] => State.ops_ownStore h key bs
  obtain ⟨mem, stored⟩ := ownStore_eq s key bs
  rw [stored] at idle ⊢
  exact ⟨_, _, _, _, _, _, idle, rfl⟩

theorem setFaultQ (s : State) (x : FaultQ) : Served s (s.setFaultQ x) := ⟨_, _, _, _, _, _, id, rfl⟩

theorem fire (s : State) : Served s s.fire := ⟨_, _, _, _, _, _, id, rfl⟩

theorem dropContexts (s : State) : Served s s.dropContexts := ⟨_, _, _, _, _, _, id, rfl⟩

theorem countDetail (s : State) (unit word : Nat) : Served s (s.countDetail unit word) := ⟨_, _, _, _, _, _, id, rfl⟩

theorem counterAdd (s : State) (ctx i v : Nat) : Served s (s.counterAdd ctx i v) := by
  unfold State.counterAdd
  split
  · exact refl s
  · exact (ownStore s _ _).trans (fire _)

theorem queueCounter (s : State) (ctx : Nat) (q : Nat × Nat) : Served s (s.queueCounter ctx q) := by
  unfold State.queueCounter
  split
  · exact counterAdd s _ _ _
  · exact refl s

theorem recallCounter (s : State) (ctx i : Nat) : Served s (s.recallCounter ctx i) := by
  unfold State.recallCounter
  split
  · exact refl s
  · exact ownWait s _ _

theorem writeTail (s : State) (c : Option Nat) (q : Nat × Nat) : Served s (s.writeTail c q) := by
  unfold State.writeTail
  dsimp only
  split
  · exact refl s
  · split
    · cases c with
      | some ctx => exact recallCounter s _ _
      | none => exact refl s
    · split
      · exact ownWait s _ _
      · split
        · have written := fun bs x => (ownStore s q.1 bs).trans (setFaultQ _ x)
          cases c with
          | some ctx => exact (written _ _).trans (queueCounter _ ctx q)
          | none => exact (written _ _).trans ⟨_, _, _, _, _, _, id, rfl⟩
        · exact refl s

theorem writeRecord (s : State) (c : Option Nat) (q : Nat × Nat) : Served s (s.writeRecord c q) := by
  unfold State.writeRecord
  dsimp only
  split
  · split
    · exact refl s
    · split
      · exact ownWait s _ _
      · exact (ownStore s _ _).trans (setFaultQ _ _)
  · exact refl s

theorem drainQueue (c : Option Nat) (q : Nat × Nat) (n : Nat) : ∀ s : State, Served s (s.drainQueue c q n) := by
  induction n with
  | zero => exact fun s => writeTail s c q
  | succ n ih => exact fun s => ((writeTail s c q).trans (writeRecord _ c q)).trans (ih _)

theorem drainAll (s : State) : Served s s.drainAll := by
  refine foldl _ (fun s x => ?_) _ s
  split
  · exact refl s
  · exact drainQueue _ _ _ s

theorem fileRecord (s : State) (c : Option Nat) (q : Nat × Nat) (v : BitVec 256) : Served s (s.fileRecord c q v) := by
  unfold State.fileRecord
  dsimp only
  have drained := drainQueue c q ((s.faultQ c).held.length + 1) s
  split
  · exact drained.trans (ownStore _ _ _)
  · exact (drained.trans (setFaultQ _ _)).trans (drainQueue c q _ _)

theorem systemRecord (s : State) (v : BitVec 256) : Served s (s.systemRecord v) := by
  unfold State.systemRecord
  split
  · exact countDetail s _ _
  · exact fileRecord s none _ v

theorem report (s : State) (r : FaultRec) (toCtx toSys : Bool) : Served s (s.report r toCtx toSys) := by
  unfold State.report
  dsimp only
  split
  · split
    · exact systemRecord s _
    · exact refl s
  · next q _ =>
    have filed : Served s (if toCtx then s.contextRecord r.ctx q (r.value (s.dieClk r.reporter)) else s) := by
      split
      · exact fileRecord s _ _ _
      · exact refl s
    split
    · exact filed.trans (systemRecord _ _)
    · exact filed

/-- What follows an update of memory, once watches have completed. -/
theorem afterWatches (s : State) : Served s.scanWatches s.afterUpdate :=
  ((fire _).trans (drainAll _)).trans (dropContexts _)

/-- Where no access is in flight there are no watches to complete. -/
theorem afterUpdate {s : State} (h : s.mem.ops = []) : Served s s.afterUpdate := by
  have quiet : s.scanWatches = s := by rw [State.scanWatches, h]; rfl
  have served := afterWatches s
  rwa [quiet] at served

end Served

/-! ### Watches, the tap and the fabric (R186) -/

/-- A watch that completes leaves the tap and the fabric. -/
theorem completeWatch_keeps (s : State) (o : Op) : (s.completeWatch o).tap = s.tap ∧ (s.completeWatch o).fabric = s.fabric := by
  unfold State.completeWatch
  split
  · dsimp only
    split <;> exact ⟨rfl, rfl⟩
  · exact ⟨rfl, rfl⟩
  · exact ⟨rfl, rfl⟩
  · exact ⟨rfl, rfl⟩

theorem scanWatches_keeps (s : State) : s.scanWatches.tap = s.tap ∧ s.scanWatches.fabric = s.fabric := by
  unfold State.scanWatches
  generalize s.mem.ops = os
  induction os generalizing s with
  | nil => exact ⟨rfl, rfl⟩
  | cons o rest ih =>
    rw [List.foldl_cons]
    split
    · split
      · exact ih s
      · exact ⟨(ih _).1.trans (completeWatch_keeps s o).1, (ih _).2.trans (completeWatch_keeps s o).2⟩
    · exact ih s

@[simp] theorem afterUpdate_tap (s : State) : s.afterUpdate.tap = s.tap :=
  (Served.afterWatches s).tap.trans (scanWatches_keeps s).1

@[simp] theorem afterUpdate_fabric (s : State) : s.afterUpdate.fabric = s.fabric :=
  (Served.afterWatches s).fabric.trans (scanWatches_keeps s).2

/-! ### Records of the tap (R356) -/

/-- A record of the tap is told to the fabric manager, and served. -/
theorem Served.tapRecord (s : State) (cause info : Nat) (stall sys : Bool) :
    Served (s.tellManager cause info) (s.tapRecord cause info stall sys) := report _ _ _ _

theorem tapRecord_reports (s : State) (cause info : Nat) (stall sys : Bool) :
    (s.tapRecord cause info stall sys).fabric.reports = s.fabric.reports ++ [FmReport.mk cause info s.clk none] := by
  rw [(Served.tapRecord s cause info stall sys).fabric]
  rfl

theorem tapRecord_readyBit (s : State) (cause info : Nat) (stall sys : Bool) (b : Nat) :
    (s.tapRecord cause info stall sys).readyBit b = s.readyBit b :=
  (Served.tapRecord s cause info stall sys).readyBit b

theorem tapRecord_ops {s : State} (cause info : Nat) (stall sys : Bool) (h : s.mem.ops = []) :
    (s.tapRecord cause info stall sys).mem.ops = [] := (Served.tapRecord s cause info stall sys).ops h

@[simp] theorem tapRecord_tap (s : State) (cause info : Nat) (stall sys : Bool) :
    (s.tapRecord cause info stall sys).tap = s.tap := (Served.tapRecord s cause info stall sys).tap

@[simp] theorem tapRecord_pads (s : State) (cause info : Nat) (stall sys : Bool) :
    (s.tapRecord cause info stall sys).pads = s.pads := (Served.tapRecord s cause info stall sys).pads

end Sys2Proof.Machine

/-! SUPPORT. Bits of the ready map and the presence map (R84, R284), and the fabric manager's commands (R88, R275-R277): O51. -/

namespace Sys2Proof.Machine

/-! ### Bits that are set and cleared -/

/-- A set bit that is subtracted is cleared, and no other bit changes. -/
theorem testBit_sub_two_pow {n b : Nat} (h : n.testBit b = true) (k : Nat) :
    (n - 2 ^ b).testBit k = (n.testBit k && decide (k ≠ b)) := by
  have odd : n / 2 ^ b % 2 = 1 := by simpa [Nat.testBit_eq_decide_div_mod_eq] using h
  have low : n % 2 ^ b < 2 ^ b := Nat.mod_lt _ (Nat.two_pow_pos b)
  have parts : n = 2 ^ b * (n / 2 ^ b) + n % 2 ^ b := (Nat.div_add_mod n _).symm
  generalize n / 2 ^ b = m at odd parts
  generalize n % 2 ^ b = r at low parts
  have less : n - 2 ^ b = 2 ^ b * (m - 1) + r := by
    obtain ⟨j, rfl⟩ : ∃ j, m = j + 1 := ⟨m - 1, by omega⟩
    rw [parts, Nat.add_sub_cancel, Nat.mul_succ]
    omega
  rw [less, parts, Nat.testBit_two_pow_mul_add _ low, Nat.testBit_two_pow_mul_add _ low]
  by_cases below : k < b
  · have other : k ≠ b := by omega
    simp [below, other]
  · obtain ⟨j, rfl⟩ : ∃ j, k = b + j := ⟨k - b, by omega⟩
    rw [if_neg below, if_neg below, Nat.add_sub_cancel_left]
    cases j with
    | zero => simp; omega
    | succ j =>
      have half : (m - 1) / 2 = m / 2 := by omega
      simp [Nat.testBit_succ, half]

/-- A bit of a map after one bit is cleared. -/
theorem testBit_cleared (n b k : Nat) :
    (if n.testBit b then n - 2 ^ b else n).testBit k = (n.testBit k && decide (k ≠ b)) := by
  split
  · next isSet => exact testBit_sub_two_pow isSet k
  · next isClear =>
    by_cases same : k = b
    · subst same
      simpa using isClear
    · simp [same]

/-- A ready bit reads as it was set, and every other one as before (R284). -/
theorem readyBit_setReady (s : State) (b : Nat) (v : Bool) (k : Nat) :
    (s.setReady b v).readyBit k = if k = b then v else s.readyBit k := by
  cases v with
  | true =>
    have set : (s.setReady b true).readyBit k = (s.service.ready ||| 2 ^ b).testBit k := rfl
    rw [set, Nat.testBit_or, Nat.testBit_two_pow]
    by_cases same : k = b
    · simp [same]
    · simp [same, Ne.symm same, State.readyBit]
  | false =>
    refine (testBit_cleared s.service.ready b k).trans ?_
    by_cases same : k = b
    · simp [same]
    · simp [same, State.readyBit]

/-! ### The first token (R88) -/

/-- The ready bits of the loop are set once its first token has passed. -/
theorem loopReady_starts {s : State} (down : s.readyBit 82 = false) :
    s.loopReady = (s.setReady 82 true).setReady 83 true := by
  rw [State.loopReady, down]
  rfl

/-- LOOPGO at the lowest tap of a loop that has not started: the tap is the origin, the first token leaves, and the loop's
ready bits are set. -/
theorem goLoop_starts {s : State} (may : (s.tap.onLoop && !s.readyBit 82 &&
    decide (lowestTap s.tap.present = s.tap.position)) = true) :
    ∃ t, s.goLoop = t ∧ Answered s t 1 ∧ t.pads = s.pads ∧ t.tap.isOrigin = true ∧
      t.tap.sentToken = some (Token.sealed_ (Token.mk 1 0 0 0 s.tap.position 0)) ∧ t.readyBit 82 = true ∧
      t.readyBit 83 = true := by
  have down : s.readyBit 82 = false := by
    simp only [Bool.and_eq_true, Bool.not_eq_true'] at may
    exact may.1.2
  have started : s.goLoop = (State.loopReady (s.mapTap fun t => { t with
      isOrigin := true
      sentToken := some (Token.sealed_ { nextLsn := 1, hz := 0, hacc := 0, rot := 0, origin := s.tap.position, chk := 0 })
      timer := some s.clk })).answerManager true := if_pos may
  rw [started, loopReady_starts (s := s.mapTap _) down]
  have answered : ∀ u : State, (u.answerManager true).tap = u.tap ∧ (u.answerManager true).pads = u.pads :=
    fun _ => ⟨rfl, rfl⟩
  refine ⟨_, rfl, ⟨rfl, rfl⟩, ?_, ?_, ?_, ?_, ?_⟩
  · rw [(answered _).2, State.setReady_pads, State.setReady_pads, State.mapTap_pads]
  · rw [(answered _).1, State.setReady_tap, State.setReady_tap, State.mapTap_tap]
  · rw [(answered _).1, State.setReady_tap, State.setReady_tap, State.mapTap_tap]
  · exact (readyBit_setReady _ 83 true 82).trans ((if_neg (by decide)).trans (readyBit_setReady _ 82 true 82))
  · exact readyBit_setReady _ 83 true 83

/-! ### The commands of the fabric manager -/

/-- The commands to the tap (R88, R275, R276, R352, R354). -/
theorem startLoop_result (s : State) (taps : Nat) :
    (s.loopRuns = true → ∃ t, exec (.loopstart taps) s = .next t ∧ t.tap = s.tap ∧ Answered s t 2) ∧
    (s.loopRuns = false → ∃ t, exec (.loopstart taps) s = .next t ∧ Answered s t 1 ∧ t.pads = s.pads ∧
      t.tap.present = taps ∧ t.tap.running = true ∧ t.tap.lsn = 0 ∧ t.tap.applied = 0 ∧ t.tap.cmem = [] ∧
      t.tap.keys = s.tap.keys ∧ t.tap.position = s.tap.position) := by
  refine ⟨fun runs => ⟨_, congrArg Host.Outcome.next (if_pos runs), rfl, rfl, rfl⟩, fun rests => ?_⟩
  exact ⟨_, congrArg Host.Outcome.next (if_neg (by simp [rests])), ⟨rfl, rfl⟩, rfl, rfl, rfl, rfl, rfl, rfl, rfl, rfl⟩

theorem resync_result (s : State) (owner : Nat) : ∃ t, exec (.resync owner) s = .next t ∧
    (owner ∈ s.tap.fenced → s.tap.snapshot = none → Answered s t 1 ∧
      t.tap = { s.tap with snapshot := some (s.tap.lsn + 1, some owner) }) ∧
    (owner ∉ s.tap.fenced ∨ s.tap.snapshot ≠ none → Answered s t 2 ∧ t.tap = s.tap) := by
  by_cases may : owner ∈ s.tap.fenced ∧ s.tap.snapshot = none
  · refine ⟨_, congrArg Host.Outcome.next (if_pos may), fun _ _ => ⟨⟨rfl, rfl⟩, rfl⟩, fun refused => ?_⟩
    exact absurd may (by tauto)
  · exact ⟨_, congrArg Host.Outcome.next (if_neg may), fun fenced free => absurd ⟨fenced, free⟩ may,
      fun _ => ⟨⟨rfl, rfl⟩, rfl⟩⟩

theorem manage_result (s : State) {rtype : Nat} (p0 p1 : BitVec 64) (low : 0x20 ≤ rtype) (high : rtype < 0x30) :
    s.manage rtype p0 p1 = if s.queueRoom 1 then
      s.enqueueRecord (headerWord rtype 0 s.tap.position false 0 0 0) p0 p1 3 0 else s := by
  unfold State.manage
  exact if_congr (by simp [low, high]) rfl rfl

/-- The pod's owner sets, the port's and the module number (R276); watches and held records follow. -/
theorem setOwners_result (s : State) (position port : Nat) (owners portOwners : List Nat) :
    ∃ t, exec (.setowners ⟨position, owners⟩ port portOwners) s = .next t ∧ Answered s t 1 ∧
      t.tap = { s.tap with position := position % 64 } ∧ t.fabric.owners = owners ∧
      t.fabric.portOwners = modifyAt s.fabric.portOwners port (fun _ => portOwners) ∧
      t.fabric.routes = s.fabric.routes ∧ t.fabric.packets = s.fabric.packets := by
  refine ⟨_, rfl, ?_, afterUpdate_tap _, ?_, ?_, ?_, ?_⟩
  · unfold Answered
    rw [State.setOwners, afterUpdate_fabric]
    exact ⟨rfl, rfl⟩
  all_goals
    rw [State.setOwners, afterUpdate_fabric]
    rfl

/-- What SETROUTE refuses (R277, log entry 81). -/
theorem setRoute_refuses (ports weights : List Nat) (hops : Nat) :
    (8 < hops ∨ 4 < ports.length ∨ weights.length ≠ ports.length ∨ !(weights.all fun w => decide (1 ≤ w ∧ w ≤ 15)) ∨
      !(ports.all fun p => decide (p < 32))) ↔
    (decide (hops ≤ 8 ∧ ports.length ≤ 4 ∧ weights.length = ports.length) &&
      (weights.all fun w => decide (1 ≤ w ∧ w ≤ 15)) && (ports.all fun p => decide (p < 32))) = false := by
  generalize (weights.all fun w => decide (1 ≤ w ∧ w ≤ 15)) = fair
  generalize (ports.all fun p => decide (p < 32)) = known
  cases fair <;> cases known <;> simp
  omega

/-- Ports and routes settle which packets wait and which go on, and nothing else. -/
theorem settleRoutes_eq (s : State) : ∃ packets transit passed, s.settleRoutes = { s with
    fabric := { s.fabric with packets := packets, transit := transit, passed := passed } } := ⟨_, _, _, rfl⟩

theorem setRoute_result (s : State) (dest : Nat) (ports weights : List Nat) (hops : Nat) :
    let good := decide (hops ≤ 8 ∧ ports.length ≤ 4 ∧ weights.length = ports.length) &&
      (weights.all fun w => decide (1 ≤ w ∧ w ≤ 15)) && (ports.all fun p => decide (p < 32))
    (good = false → ∃ t, exec (.setroute dest ports weights hops) s = .next t ∧ Answered s t 2 ∧
      t.fabric.routes = s.fabric.routes ∧ t.pads = s.pads) ∧
    (good = true → ∃ t, exec (.setroute dest ports weights hops) s = .next t ∧ Answered s t 1 ∧ t.pads = s.pads ∧
      t.mem = s.mem ∧ t.fabric.routes = tabSet ([], 0) s.fabric.routes dest (ports.zip weights, hops)) := by
  intro good
  refine ⟨fun bad => ?_, fun fine => ?_⟩
  · exact ⟨_, congrArg Host.Outcome.next (if_pos ((setRoute_refuses ports weights hops).mpr bad)), ⟨rfl, rfl⟩, rfl, rfl⟩
  · have taken := mt (setRoute_refuses ports weights hops).mp fun bad => Bool.noConfusion (fine.symm.trans bad)
    obtain ⟨packets, transit, passed, settled⟩ := settleRoutes_eq (s.mapFabric fun f =>
      { f with routes := tabSet ([], 0) f.routes dest (ports.zip weights, hops) })
    refine ⟨_, congrArg Host.Outcome.next (if_neg taken), ?_⟩
    rw [settled]
    exact ⟨⟨rfl, rfl⟩, rfl, rfl, rfl⟩

/-- PORTDRAIN and PORTUP: the port's ready bit alone changes (R276, R283). -/
theorem setPort_result (s : State) {port : Nat} (up : Bool) (h : port < 32) :
    ∃ t, exec (if up then .portup port else .portdrain port) s = .next t ∧ Answered s t 1 ∧ t.pads = s.pads ∧
      t.mem = s.mem ∧ t.readyBit (48 + port) = up ∧ ∀ b, b ≠ 48 + port → t.readyBit b = s.readyBit b := by
  have run : exec (if up then .portup port else .portdrain port) s = .next ((s.setPort port up).answerManager true) := by
    cases up <;> rfl
  have bit := readyBit_setReady s (48 + port) up
  obtain ⟨packets, transit, passed, settled⟩ := settleRoutes_eq (s.setReady (48 + port) up)
  rw [State.setPort, Nat.mod_eq_of_lt h, settled] at run
  exact ⟨_, run, ⟨rfl, rfl⟩, rfl, rfl, (bit _).trans (if_pos rfl), fun b other => (bit b).trans (if_neg other)⟩

/-- SETPPT gives an owner its pool and leaves every other owner's (R269). -/
theorem setPool_pool? (s : State) (owner base size o : Nat) :
    (s.setPool owner base size).pool? o = if o = owner then some (base, size) else s.pool? o := by
  change (((owner, base, size) :: s.fabric.ppt.filter fun x => decide (x.1 ≠ owner)).find? fun p => decide (p.1 = o)).map (·.2) = _
  by_cases same : o = owner
  · subst same
    simp
  · have kept : (s.fabric.ppt.filter fun x => decide (x.1 ≠ owner)).find? (fun p => decide (p.1 = o)) =
        s.fabric.ppt.find? fun p => decide (p.1 = o) := by
      rw [List.find?_filter]
      congr 1
      funext p
      by_cases hp : p.1 = o <;> simp [hp, same]
    rw [List.find?_cons_of_neg (by simpa using Ne.symm same), kept, if_neg same]
    rfl

/-- Settles O51: each command changes what it names, and its answer carries its number. -/
theorem managementCommands : Obligations.ManagementCommands := by
  unfold Obligations.ManagementCommands
  refine ⟨fun s => ⟨?_, ?_, ⟨?_, ?_⟩, ?_, resync_result s, ?_⟩, fun s => ⟨?_, ?_, ?_, ?_⟩⟩
  · exact fun taps => (startLoop_result s taps).1
  · exact fun taps => (startLoop_result s taps).2
  · intro mayNot
    exact ⟨_, congrArg Host.Outcome.next (if_neg (by simp only [mayNot, Bool.false_eq_true, not_false_eq_true])), rfl, rfl, rfl⟩
  · intro may
    obtain ⟨t, started, rest⟩ := goLoop_starts may
    exact ⟨t, congrArg Host.Outcome.next started, rest⟩
  · exact fun owner key => ⟨_, rfl, ⟨rfl, rfl⟩, rfl⟩
  · exact fun rtype p0 p1 low high => congrArg Host.Outcome.next (manage_result s p0 p1 low high)
  · exact fun position owners port portOwners => setOwners_result s position port owners portOwners
  · exact fun dest ports weights hops => setRoute_result s dest ports weights hops
  · exact fun port up h => setPort_result s up h
  · exact fun owner base size => ⟨_, rfl, ⟨rfl, rfl⟩, rfl, rfl, (setPool_pool? s owner base size owner).trans (if_pos rfl),
      fun o other => (setPool_pool? s owner base size o).trans (if_neg other)⟩

end Sys2Proof.Machine

/-! SUPPORT. The tap's housekeeping (R96, R354): records of reserved types passed over, statuses of host records, waiting
threads and the end of a join, and what none of it changes. -/

namespace Sys2Proof.Machine

/-! ### What the housekeeping can change -/

/-- The second state is the first after housekeeping of the tap: of the tap only what is applied or held, and what is said of
it, has changed; where no access is in flight, none has started and no thread has changed. -/
structure Settles (s t : State) : Prop where
  tap : ∃ applied pending redo skip fetches since said, t.tap = { s.tap with
    applied := applied, pending := pending, redo := redo, skip := skip, fetches := fetches, lagSince := since, lagSaid := said }
  quiet : s.mem.ops = [] → t.mem.ops = [] ∧ t.pads = s.pads

namespace Settles

/-- What leaves the tap as it is, and without accesses in flight the threads. -/
theorem of_tap {s t : State} (same : t.tap = s.tap) (quiet : s.mem.ops = [] → t.mem.ops = [] ∧ t.pads = s.pads) :
    Settles s t := ⟨⟨_, _, _, _, _, _, _, same⟩, quiet⟩

theorem refl (s : State) : Settles s s := of_tap rfl fun h => ⟨h, rfl⟩

theorem trans {s t u : State} (h : Settles s t) (k : Settles t u) : Settles s u := by
  obtain ⟨_, _, _, _, _, _, _, first⟩ := h.tap
  obtain ⟨_, _, _, _, _, _, _, second⟩ := k.tap
  refine ⟨⟨_, _, _, _, _, _, _, by rw [second, first]⟩, fun idle => ?_⟩
  obtain ⟨still, pads⟩ := h.quiet idle
  exact ⟨(k.quiet still).1, (k.quiet still).2.trans pads⟩

theorem of_served {s t : State} (h : Served s t) : Settles s t := of_tap h.tap fun idle => ⟨h.ops idle, h.pads⟩

/-- What follows an update of memory, where no access is in flight. -/
theorem afterUpdate_idle (s : State) : Settles s s.afterUpdate :=
  of_tap (afterUpdate_tap s) fun idle => ⟨(Served.afterUpdate idle).ops idle, (Served.afterUpdate idle).pads⟩

section
variable {s t : State} (h : Settles s t)
include h

theorem lsn : t.tap.lsn = s.tap.lsn := by obtain ⟨_, _, _, _, _, _, _, e⟩ := h.tap; rw [e]
theorem queue : t.tap.queue = s.tap.queue := by obtain ⟨_, _, _, _, _, _, _, e⟩ := h.tap; rw [e]
theorem missing : t.tap.missing = s.tap.missing := by obtain ⟨_, _, _, _, _, _, _, e⟩ := h.tap; rw [e]
theorem fenced : t.tap.fenced = s.tap.fenced := by obtain ⟨_, _, _, _, _, _, _, e⟩ := h.tap; rw [e]
theorem cmem : t.tap.cmem = s.tap.cmem := by obtain ⟨_, _, _, _, _, _, _, e⟩ := h.tap; rw [e]

end

/-! ### Own records that are applied (R97, R274) -/

theorem recordDone (s : State) (ref fetch : Nat) : Settles s (s.recordDone ref fetch) := by
  unfold State.recordDone
  split
  · exact refl s
  · next o found =>
    have busy : s.mem.ops ≠ [] := by
      intro idle
      rw [State.op?, idle] at found
      cases found
    split
    · exact of_tap rfl fun idle => absurd idle busy
    · exact refl s

theorem deliver (s : State) (lsn fetch : Nat) (host : Bool) : Settles s (s.deliver lsn fetch host) := by
  unfold State.deliver
  split
  · exact refl s
  · split
    · exact refl s
    · split
      · exact recordDone s _ _
      · split
        · exact ⟨⟨_, _, _, _, _, _, _, rfl⟩, fun idle => ⟨idle, rfl⟩⟩
        · exact refl s

theorem hbqStatus (s : State) (q slot fetch status : Nat) : Settles s (s.hbqStatus q slot fetch status) := by
  unfold State.hbqStatus
  dsimp only
  have written : Served s (if s.service.linkUp then ((s.ownStore (s.hbqSlot q slot + 8) (leBytes 8 fetch)).ownStore
      (s.hbqSlot q slot) (leBytes 8 status)) else s) := by
    split
    · exact (Served.ownStore _ _ _).trans (Served.ownStore _ _ _)
    · exact Served.refl s
  generalize (if s.service.linkUp then _ else s : State) = w at written ⊢
  have marked : ∀ f, Settles w (w.mapHbq q f) := fun f => of_tap rfl fun idle => ⟨idle, rfl⟩
  exact ((of_served written).trans (marked _)).trans (afterUpdate_idle _)

theorem hbqDone (s : State) (lsn : Nat) : Settles s (s.hbqDone lsn) := by
  unfold State.hbqDone
  split
  · exact refl s
  · split
    · split
      · exact refl s
      · split
        · exact of_served (Served.ownWait s _ _)
        · have moved : Settles s (s.mapTap fun t => { t with fetches := t.fetches.filter fun x => decide (x.1 ≠ lsn) }) :=
            ⟨⟨_, _, _, _, _, _, _, rfl⟩, fun idle => ⟨idle, rfl⟩⟩
          exact moved.trans (hbqStatus _ _ _ _ _)
    · exact refl s

/-! ### Threads that wait for a word (R196) -/

theorem performCmWait_tap (s : State) (o : Op) (off size dst c : Nat) : (s.performCmWait o off size dst c).tap = s.tap := by
  unfold State.performCmWait
  split
  · rfl
  · dsimp only
    split <;> rfl

theorem scanCmWaits (s : State) : Settles s s.scanCmWaits := by
  refine of_tap ?_ fun idle => ?_
  · unfold State.scanCmWaits
    generalize s.mem.ops = os
    induction os generalizing s with
    | nil => rfl
    | cons o rest ih =>
      rw [List.foldl_cons]
      split
      · exact (ih _).trans (performCmWait_tap s o _ _ _ _)
      · exact ih s
  · rw [State.scanCmWaits, idle]
    exact ⟨idle, rfl⟩

/-! ### The tap moves on (R96) -/

theorem advanceTap (s : State) (r : Stamped) : Settles s (s.advanceTap r) := by
  unfold State.advanceTap
  split
  · obtain ⟨_, _, _, behind⟩ := Tap_.behind_eq r s.clk s.tap
    have moved : Settles s (s.mapTap (Tap_.behind r s.clk)) :=
      ⟨⟨_, _, _, _, _, _, _, behind⟩, fun idle => ⟨idle, rfl⟩⟩
    exact (moved.trans (hbqDone _ _)).trans (scanCmWaits _)
  · have moved : Settles s (s.mapTap fun t => { t with redo := t.redo.drop 1 }) :=
      ⟨⟨_, _, _, _, _, _, _, rfl⟩, fun idle => ⟨idle, rfl⟩⟩
    exact moved.trans (scanCmWaits _)

theorem passReserved (n : Nat) : ∀ s : State, Settles s (State.passReserved n s) := by
  induction n with
  | zero => exact refl
  | succ n ih =>
    intro s
    unfold State.passReserved
    split
    · exact refl s
    · next r _ =>
      split
      · exact ((deliver s _ _ _).trans (advanceTap _ r)).trans (ih _)
      · exact refl s

theorem joined (s : State) : Settles s s.joined := by
  unfold State.joined
  split
  · exact of_tap (tapRecord_tap _ _ _ _ _) fun idle => ⟨tapRecord_ops _ _ _ _ idle, tapRecord_pads _ _ _ _ _⟩
  · exact refl s

theorem settleTap (s : State) : Settles s s.settleTap := (passReserved _ s).trans (joined _)

end Settles

/-! ### Nothing to pass over -/

/-- A join that ends leaves the tap and the threads. -/
theorem joined_reports (s : State) : SameButReports s s.joined := by
  unfold State.joined
  split
  · exact SameButReports.trans (t := s.setReady 83 true) ⟨_, _, _, _, _, _, rfl⟩ (.tapRecord _ _ _ _ _)
  · exact .refl s

/-- A tap that is not joining has no join to end. -/
theorem joined_member {s : State} (member : s.tap.catchUp = none) : s.joined = s := by
  have behind : s.tap.caughtUp = false := by rw [Tap_.caughtUp, member]
  rw [State.joined, behind, Bool.and_false]
  rfl

/-- Records of the types that words and the host send are not reserved (R93). -/
theorem reservedType_sent {type : Nat} (owner : Nat) (low : 1 ≤ type) (high : type ≤ 5) : reservedType type owner = false := by
  simp only [reservedType, Bool.or_eq_false_iff, Bool.and_eq_false_iff, decide_eq_false_iff_not]
  omega

/-- Without records to apply again, the next one is the first that is held. -/
theorem next?_held {t : Tap_} (redo : t.redo = []) {r : Stamped} (next : t.next? = some r) : t.pending.head? = some r := by
  unfold Tap_.next? at next
  rw [redo] at next
  cases held : t.pending with
  | nil =>
    rw [held] at next
    cases next
  | cons x rest =>
    rw [held] at next
    simp only [Option.ite_none_right_eq_some] at next
    exact next.2

/-- The head record is not of a reserved type. -/
def Tap_.headPlain (t : Tap_) : Prop := ∀ r ∈ t.pending.head?, reservedType (hdrType r.hdr) (hdrOwner r.hdr) = false

theorem headPlain_nil {t : Tap_} (pending : t.pending = []) : t.headPlain := by
  intro r hr
  rw [pending] at hr
  cases hr

theorem headPlain_sent {t : Tap_} {r : Stamped} (pending : t.pending = [r]) (low : 1 ≤ hdrType r.hdr)
    (high : hdrType r.hdr ≤ 5) : t.headPlain := by
  intro x hx
  rw [pending, List.head?_cons, Option.mem_some_iff] at hx
  subst hx
  exact reservedType_sent _ low high

theorem settleTap_plain {s : State} (redo : s.tap.redo = []) (plain : s.tap.headPlain) : s.settleTap = s.joined := by
  have stays : ∀ n, State.passReserved n s = s := by
    intro n
    cases n with
    | zero => rfl
    | succ n =>
      unfold State.passReserved
      split
      · rfl
      · next r next => rw [plain r (next?_held redo next), if_neg Bool.false_ne_true]
  rw [State.settleTap, stays]

end Sys2Proof.Machine

/-! SUPPORT. Records and tokens at the tap: what stamping, sending and passing on write (R85-R92, R101, R348). -/

namespace Sys2Proof.Machine

/-! ### Stamping (R87, R92, R350) -/

/-- Of the lag of A(m) behind L(m) only the times are noted (R355). -/
theorem Tap_.noteLag_eq (t : Tap_) (now : Nat) : ∃ since said, t.noteLag now = { t with lagSince := since, lagSaid := said } := by
  unfold Tap_.noteLag
  split <;> exact ⟨_, _, rfl⟩

/-- A tap with its replica has no snapshot to start again. -/
theorem Tap_.startAgain_synced {t : Tap_} (synced : t.snapshot = none) : t.startAgain = t := by
  rw [Tap_.startAgain, synced]

/-- A record that is no KEYROLL switches no key. -/
theorem Tap_.noteRoll_sent {hdr : BitVec 64} (low : hdrType hdr ≤ 5) (t : Tap_) (lsn : Nat) (p0 : BitVec 64) :
    t.noteRoll lsn hdr p0 = t := if_neg fun h => by omega

/-- A record stamped by a tap that holds none is held alone, and is under repair when its tag fails. -/
theorem Tap_.stamp_alone {t : Tap_} {r : Stamped} (now : Nat) (pending : t.pending = []) (type : hdrType r.hdr ≤ 5) :
    ∃ replay, t.stamp now r = { t with
      lsn := r.lsn, pending := [r], replay := replay, missing := if r.valid then t.missing else t.missing ++ [(r.lsn, now)] } := by
  have room : t.holds = true := by rw [Tap_.holds, pending]; exact Bool.or_true _
  rw [Tap_.stamp, if_pos room, pending, List.nil_append]
  cases r.valid with
  | true => exact ⟨_, Tap_.noteRoll_sent type _ _ _⟩
  | false => exact ⟨_, rfl⟩

/-- A tap with its replica stamps what arrives, and settles. -/
theorem arriveRecord_synced {s : State} (onLoop : s.tap.onLoop = true) (synced : s.tap.snapshot = none) (hdr p0 p1 tag : BitVec 64) :
    s.arriveRecord hdr p0 p1 tag = (s.mapTap fun t => ((t.stamp s.clk ⟨s.tap.lsn + 1, hdr, p0, p1, tag,
      decide (s.tap.tagFor (s.tap.lsn + 1) hdr p0 p1 = tag)⟩).noteLag s.clk).startAgain).settleTap := by
  unfold State.arriveRecord
  rw [onLoop, synced]
  rfl

/-- A tap that holds one record of a thread or the host, and does not join, has nothing to settle. -/
theorem settleTap_one {s : State} {r : Stamped} (redo : s.tap.redo = []) (member : s.tap.catchUp = none)
    (pending : s.tap.pending = [r]) (low : 1 ≤ hdrType r.hdr) (high : hdrType r.hdr ≤ 5) : s.settleTap = s := by
  rw [settleTap_plain redo (headPlain_sent pending low high), joined_member member]

/-- R87, R92: a record arrives at a tap that holds none. -/
theorem arriveRecord_alone {s : State} (onLoop : s.tap.onLoop = true) (redo : s.tap.redo = []) (member : s.tap.catchUp = none)
    (synced : s.tap.snapshot = none) (pending : s.tap.pending = []) {hdr : BitVec 64} (low : 1 ≤ hdrType hdr)
    (high : hdrType hdr ≤ 5) (p0 p1 tag : BitVec 64) :
    let good := decide (s.tap.tagFor (s.tap.lsn + 1) hdr p0 p1 = tag)
    ∃ replay since said, s.arriveRecord hdr p0 p1 tag = { s with tap := { s.tap with
      lsn := s.tap.lsn + 1, pending := [⟨s.tap.lsn + 1, hdr, p0, p1, tag, good⟩], replay := replay
      missing := if good then s.tap.missing else s.tap.missing ++ [(s.tap.lsn + 1, s.clk)]
      lagSince := since, lagSaid := said } } := by
  intro good
  let r : Stamped := ⟨s.tap.lsn + 1, hdr, p0, p1, tag, good⟩
  obtain ⟨replay, stamped⟩ := Tap_.stamp_alone (r := r) s.clk pending high
  obtain ⟨since, said, noted⟩ := Tap_.noteLag_eq (s.tap.stamp s.clk r) s.clk
  rw [stamped] at noted
  refine ⟨replay, since, said, ?_⟩
  have again : ((s.tap.stamp s.clk r).noteLag s.clk).startAgain = (s.tap.stamp s.clk r).noteLag s.clk :=
    Tap_.startAgain_synced (by rw [stamped, noted]; exact synced)
  rw [stamped, noted] at again
  rw [arriveRecord_synced onLoop synced]
  unfold State.mapTap
  dsimp only
  rw [stamped, noted, again]
  exact settleTap_one (r := r) redo member rfl low high

/-! ### A record that returns (R90) -/

/-- The threads that sent a record learn its LSN; where no access is in flight nothing else happens. -/
theorem returnRecord_thread {s : State} {lsn : Nat} {r : Rec} (own : s.tap.own lsn = some r) (fresh : lsn ∉ s.tap.returned)
    (thread : r.origin = 0) (idle : s.mem.ops = []) :
    s.returnRecord lsn = (s.mapTap fun t => { t with returned := t.returned ++ [lsn] }).mapThreads fun t =>
      if t.lastSent = some r.ref then { t with lastLsn := some lsn } else t := by
  unfold State.returnRecord
  rw [own]
  dsimp only
  rw [if_neg fresh, if_pos thread, State.recordBack]
  have none_waits : ((s.mapTap fun t => { t with returned := t.returned ++ [lsn] }).mapThreads fun t =>
      if t.lastSent = some r.ref then { t with lastLsn := some lsn } else t).mem.ops = [] := idle
  rw [none_waits]
  rfl

/-- A thread after every thread is changed. -/
theorem thread?_mapThreads (s : State) (f : Thread → Thread) (c n l : Nat) :
    (s.mapThreads f).thread? c n l = (s.thread? c n l).map f := by
  simp only [State.thread?, State.fg?]
  rw [pad?_of_map (t := s.mapThreads f) (fun p => p.mapThreads f) (fun _ => rfl) rfl]
  cases s.pad? c with
  | none => rfl
  | some p =>
    change ((p.fgs.map _)[n]?).bind _ = ((p.fgs[n]?).bind _).map f
    rw [List.getElem?_map]
    cases p.fgs[n]? with
    | none => rfl
    | some g => exact List.getElem?_map

/-! ### A token that is passed on (R85, R101, R348, R354) -/

theorem arriveToken_garbled {s : State} {k : Token} (onLoop : s.tap.onLoop = true) (garbled : k.sealed_.chk ≠ k.chk) (send : Nat) :
    s.arriveToken k send = s.tapRecord 0x0601 k.nextLsn false false := by
  rw [State.arriveToken, onLoop, if_pos garbled]
  rfl

/-- A valid token that misses no record is taken by a tap that does not wait for the first one of its copy. -/
theorem arriveToken_next {s : State} {k : Token} (onLoop : s.tap.onLoop = true) (whole : k.sealed_.chk = k.chk)
    (next : k.nextLsn = s.tap.lsn + 1) (placed : s.tap.snapshot ≠ some (0, none)) (send : Nat) :
    s.arriveToken k send = s.takeToken k send := by
  unfold State.arriveToken
  rw [onLoop, if_neg (not_not.mpr whole)]
  split
  · next h => cases h
  · split
    · next h => exact absurd h placed
    · rw [if_neg (by omega), if_neg (by omega)]

/-- The tap behind a token that leaves it as the second token (R86, R101, R350). -/
def Tap_.forwarded (t : Tap_) (now : Nat) (k : Token) : Tap_ :=
  let u := ({ t with catchUp := none } : Tap_).noteLag now
  let gone := fun (n : Nat) => decide (n ≤ k.hz) && decide (n ∈ u.returned)
  { u with
    sentToken := some k.sealed_, horizon := k.hz, skipHz := if u.isOrigin then false else u.skipHz
    timer := if u.isOrigin then some now else none
    sent := u.sent.filter fun r => !gone r.1
    returned := u.returned.filter fun n => !gone n }

/-- What a token that leaves changes of the tap. -/
theorem Tap_.forwarded_eq (t : Tap_) (now : Nat) (k : Token) : ∃ skipHz timer sent returned since said,
    t.forwarded now k = { t with
      catchUp := none, sentToken := some k.sealed_, horizon := k.hz, skipHz := skipHz, timer := timer, sent := sent
      returned := returned, lagSince := since, lagSaid := said } := by
  obtain ⟨since, said, noted⟩ := Tap_.noteLag_eq { t with catchUp := none } now
  rw [Tap_.forwarded, noted]
  exact ⟨_, _, _, _, _, _, rfl⟩

theorem forwardToken_member (s : State) (k : Token) :
    (s.mapTap fun t => ({ t with catchUp := none } : Tap_).noteLag s.clk).forwardToken k =
      s.mapTap fun t => t.forwarded s.clk k := rfl

/-- The bits that a loop's first token raises are the service's own. -/
theorem loopReady_keeps (s : State) : s.loopReady.tap = s.tap ∧ s.loopReady.pads = s.pads := by
  unfold State.loopReady
  split <;> exact ⟨rfl, rfl⟩

/-- R86, R101: the records that go ahead are sent, and the token leaves behind them. -/
theorem takeToken_member {s : State} {k : Token} (send : Nat) (member : s.tap.catchUp = none) (synced : s.tap.snapshot = none) :
    let count := if s.tap.queue.length = 0 ∨ s.tap.missing ≠ [] then 0 else max 1 (min send (min 16 s.tap.queue.length))
    let u := s.sendRecords count k.nextLsn
    s.takeToken k send =
      (u.mapTap fun t => t.forwarded u.clk (u.tap.passToken { k with nextLsn := k.nextLsn + count })).loopReady.settleTap := by
  have apart : s.tap.joining k = false := by rw [Tap_.joining, synced, member]
  unfold State.takeToken
  dsimp only
  rw [apart]
  simp only [Bool.false_eq_true, or_false, if_false, forwardToken_member]

/-! ### Records that go ahead of the token (R86, R89) -/

/-- Records enter the broadcast queue behind those of it. -/
theorem enqueueRecords_eq (rs : List Rec) : ∀ s : State, ∃ more num, (rs = [] → more = []) ∧
    rs.foldl (fun (s : State) (r : Rec) => s.enqueueRecord r.hdr r.p0 r.p1 r.origin r.ref) s =
      s.mapTap fun t => { t with queue := t.queue ++ more, nextNum := num } := by
  induction rs with
  | nil => exact fun s => ⟨[], s.tap.nextNum, fun _ => rfl, by rw [State.mapTap, List.append_nil]; rfl⟩
  | cons r rest ih =>
    intro s
    obtain ⟨more, num, _, enqueued⟩ := ih (s.enqueueRecord r.hdr r.p0 r.p1 r.origin r.ref)
    refine ⟨{ r with num := s.tap.nextNum } :: more, num, nofun, ?_⟩
    rw [List.foldl_cons, enqueued]
    exact congrArg (fun q => { s with tap := { s.tap with queue := q, nextNum := num } })
      (List.append_assoc s.tap.queue [{ r with num := s.tap.nextNum }] more)

/-- Records that wait outside are admitted behind those of the queue; of the tap nothing but the queue changes. -/
theorem admitOutside_eq (s : State) : ∃ more left num, (s.tap.outside = [] → more = [] ∧ left = []) ∧
    s.admitOutside = s.mapTap fun t => { t with queue := t.queue ++ more, outside := left, nextNum := num } := by
  obtain ⟨more, num, nothing, admitted⟩ := enqueueRecords_eq (s.tap.outside.take (1024 - s.tap.queue.length)) s
  refine ⟨more, s.tap.outside.drop (s.tap.outside.take (1024 - s.tap.queue.length)).length, num, ?_, ?_⟩
  · intro none_outside
    rw [none_outside] at nothing ⊢
    exact ⟨nothing (List.take_nil), List.drop_nil⟩
  · unfold State.admitOutside
    dsimp only
    rw [admitted]
    rfl

/-- What stamping a record that is valid leaves of the tap. -/
theorem Tap_.stamp_keeps (t : Tap_) (now : Nat) (r : Stamped) : ∃ pending replay missing rolled,
    t.stamp now r = { t with lsn := r.lsn, pending := pending, replay := replay, missing := missing, rolled := rolled } := by
  unfold Tap_.stamp
  split
  · dsimp only
    split
    · unfold Tap_.noteRoll
      split <;> exact ⟨_, _, _, _, rfl⟩
    · exact ⟨_, _, _, _, rfl⟩
  · exact ⟨_, _, _, _, rfl⟩

/-- The head record sent (R86): it is stamped, and those outside move up. -/
def State.sendHead (s : State) (n : Nat) (r : Rec) (rest : List Rec) : State :=
  (s.mapTap fun t => (({ t with queue := rest, sent := t.sent ++ [(n, r)] } : Tap_).stamp s.clk
    ⟨n, r.hdr, r.p0, r.p1, s.tap.tagFor n r.hdr r.p0 r.p1, true⟩).startAgain).admitOutside

theorem sendRecords_cons {s : State} {r : Rec} {rest : List Rec} (queue : s.tap.queue = r :: rest) (k n : Nat) :
    s.sendRecords (k + 1) n = (s.sendHead n r rest).sendRecords k (n + 1) := by
  rw [State.sendRecords, queue]
  rfl

theorem sendHead_tap {s : State} (synced : s.tap.snapshot = none) (n : Nat) (r : Rec) (rest : List Rec) :
    (s.sendHead n r rest).tap.lsn = n ∧ (s.sendHead n r rest).tap.snapshot = none ∧
    ∃ more, (s.sendHead n r rest).tap.queue = rest ++ more ∧
      (s.tap.outside = [] → more = [] ∧ (s.sendHead n r rest).tap.outside = []) := by
  let t : Tap_ := { s.tap with queue := rest, sent := s.tap.sent ++ [(n, r)] }
  let st : Stamped := ⟨n, r.hdr, r.p0, r.p1, s.tap.tagFor n r.hdr r.p0 r.p1, true⟩
  obtain ⟨_, _, _, _, stamped⟩ := Tap_.stamp_keeps t s.clk st
  have again : (t.stamp s.clk st).startAgain = t.stamp s.clk st := Tap_.startAgain_synced (by rw [stamped]; exact synced)
  rw [stamped] at again
  have head : s.sendHead n r rest = (s.mapTap fun _ => t.stamp s.clk st).admitOutside := by
    rw [stamped, ← again, ← stamped]
    rfl
  obtain ⟨more, left, num, empty, admitted⟩ := admitOutside_eq (s.mapTap fun _ => t.stamp s.clk st)
  rw [head, admitted]
  simp only [State.mapTap_tap, stamped] at empty ⊢
  exact ⟨rfl, synced, more, rfl, empty⟩

/-- R86: records sent under the LSNs that follow L(m). -/
theorem sendRecords_tap (k : Nat) : ∀ {s : State}, s.tap.snapshot = none → k ≤ s.tap.queue.length →
    (s.sendRecords k (s.tap.lsn + 1)).tap.lsn = s.tap.lsn + k ∧
      (s.tap.outside = [] → (s.sendRecords k (s.tap.lsn + 1)).tap.queue = s.tap.queue.drop k) := by
  induction k with
  | zero => exact fun _ _ => ⟨rfl, fun _ => rfl⟩
  | succ k ih =>
    intro s synced enough
    obtain ⟨r, rest, queue⟩ := List.exists_cons_of_length_pos (l := s.tap.queue) (by omega)
    obtain ⟨lsn, still, more, sent, empty⟩ := sendHead_tap synced (s.tap.lsn + 1) r rest
    have left : k ≤ (s.sendHead (s.tap.lsn + 1) r rest).tap.queue.length := by
      rw [queue, List.length_cons] at enough
      rw [sent, List.length_append]
      omega
    obtain ⟨on, dropped⟩ := ih still left
    rw [lsn] at on dropped
    rw [sendRecords_cons queue]
    refine ⟨by rw [on]; omega, fun none_outside => ?_⟩
    obtain ⟨no_more, outside⟩ := empty none_outside
    rw [dropped outside, sent, no_more, List.append_nil, queue, List.drop_succ_cons]

end Sys2Proof.Machine

/-! O49: records arrive and return, and the token passes (R85-R92, R101, R348, R353, R354). -/

namespace Sys2Proof.Machine

/-- R101: a token that no record waits for leaves with what the tap makes of it. -/
theorem takeToken_nothing {s : State} {k : Token} (send : Nat) (member : s.tap.catchUp = none) (synced : s.tap.snapshot = none)
    (redo : s.tap.redo = []) (pending : s.tap.pending = []) (queue : s.tap.queue = []) :
    (s.takeToken k send).pads = s.pads ∧ ∃ now, (s.takeToken k send).tap = s.tap.forwarded now (s.tap.passToken k) := by
  rw [takeToken_member send member synced, queue, List.length_nil, if_pos (.inl rfl)]
  dsimp only [State.sendRecords, Nat.add_zero]
  generalize left : (s.mapTap fun t => t.forwarded s.clk (s.tap.passToken k)) = u
  obtain ⟨tap, pads⟩ := loopReady_keeps u
  have gone : u.tap = s.tap.forwarded s.clk (s.tap.passToken k) := by rw [← left]; rfl
  obtain ⟨_, _, _, _, _, _, forwarded⟩ := Tap_.forwarded_eq s.tap s.clk (s.tap.passToken k)
  have settled := settleTap_reports (s := u.loopReady) (by rw [tap, gone, forwarded]; exact pending)
    (by rw [tap, gone, forwarded]; exact redo)
  refine ⟨?_, s.clk, ?_⟩
  · rw [settled.pads, pads, ← left]
    rfl
  · rw [settled.tap, tap, gone]

/-- A token that leaves changes neither L(m) nor the broadcast queue. -/
theorem forwarded_keeps (u : State) (k : Token) :
    (u.mapTap fun t => t.forwarded u.clk k).loopReady.settleTap.tap.lsn = u.tap.lsn ∧
      (u.mapTap fun t => t.forwarded u.clk k).loopReady.settleTap.tap.queue = u.tap.queue := by
  obtain ⟨_, _, _, _, _, _, forwarded⟩ := Tap_.forwarded_eq u.tap u.clk k
  have settles := Settles.settleTap (u.mapTap fun t => t.forwarded u.clk k).loopReady
  obtain ⟨tap, _⟩ := loopReady_keeps (u.mapTap fun t => t.forwarded u.clk k)
  rw [settles.lsn, settles.queue, tap, State.mapTap_tap, forwarded]
  exact ⟨rfl, rfl⟩

/-- R86: a token that records wait for goes on behind those that the tap sends. -/
theorem takeToken_sends {s : State} {k : Token} (send : Nat) (member : s.tap.catchUp = none) (synced : s.tap.snapshot = none)
    (missing : s.tap.missing = []) (queue : s.tap.queue ≠ []) (next : k.nextLsn = s.tap.lsn + 1) :
    let count := max 1 (min send (min 16 s.tap.queue.length))
    (s.takeToken k send).tap.lsn = s.tap.lsn + count ∧
      (s.tap.outside = [] → (s.takeToken k send).tap.queue = s.tap.queue.drop count) := by
  intro count
  have waiting : 0 < s.tap.queue.length := List.length_pos_iff.mpr queue
  have enough : count ≤ s.tap.queue.length := by
    change max 1 (min send (min 16 s.tap.queue.length)) ≤ _
    omega
  have busy : ¬ (s.tap.queue.length = 0 ∨ s.tap.missing ≠ []) := by
    rintro (h | h)
    · omega
    · exact h missing
  obtain ⟨lsn, left⟩ := sendRecords_tap count synced enough
  rw [takeToken_member send member synced, if_neg busy, next, (forwarded_keeps _ _).1, (forwarded_keeps _ _).2]
  exact ⟨lsn, left⟩

/-- R353, R354: a tap that waits for its copy relays the token. -/
theorem takeToken_waits {s : State} {k : Token} {j : Nat} (send : Nat) (waits : s.tap.snapshot = some (j, none)) :
    s.takeToken k send = s.mapTap fun t => t.relayToken s.clk k := by
  have apart : s.tap.joining k = true := by rw [Tap_.joining, waits]
  unfold State.takeToken
  dsimp only
  have no_send : s.tap.queue.length = 0 ∨ s.tap.missing ≠ [] ∨ true = true := .inr (.inr rfl)
  rw [apart, if_pos no_send, if_pos rfl]
  rfl

/-- The token as the tap leaves it, written out (R101). -/
theorem passToken_eq (t : Tap_) (n hz hacc rot origin chk : Nat) : t.passToken ⟨n, hz, hacc, rot, origin, chk⟩ =
    if t.isOrigin then ⟨n, if t.skipHz then hz else hacc, t.applied, (rot + 1) % 2 ^ 32, t.position, chk⟩
    else ⟨n, hz, min hacc t.applied, rot, origin, chk⟩ := rfl

/-- Settles O49, clause by clause. -/
theorem tokenPassRows : Obligations.TokenPassRows := by
  intro s onLoop redo member
  refine ⟨fun hdr p0 p1 tag synced pending low high => ?_, fun lsn r own fresh thread idle => ?_,
    fun n hz hacc rot origin chk send => ?_⟩
  · obtain ⟨_, _, _, arrived⟩ := arriveRecord_alone onLoop redo member synced pending low high p0 p1 tag
    exact ⟨_, congrArg Host.Outcome.next arrived, rfl, rfl, rfl, rfl, rfl, rfl⟩
  · refine ⟨_, congrArg Host.Outcome.next (returnRecord_thread own fresh thread idle), rfl, rfl, fun c f l old there => ?_⟩
    rw [thread?_mapThreads]
    exact congrArg (Option.map _) there
  · intro k
    refine ⟨fun garbled => ?_, fun whole synced next missing pending queue => ?_, fun whole synced next missing queue => ?_,
      fun j whole waits placed next => ?_⟩
    · refine ⟨s.arriveToken k send, rfl, ?_⟩
      rw [arriveToken_garbled onLoop garbled]
      exact ⟨tapRecord_tap _ _ _ _ _, tapRecord_reports _ _ _ _ _, tapRecord_pads _ _ _ _ _⟩
    · refine ⟨s.arriveToken k send, rfl, ?_⟩
      rw [arriveToken_next onLoop whole next (by rw [synced]; nofun)]
      obtain ⟨pads, now, tap⟩ := takeToken_nothing (k := k) send member synced redo pending queue
      obtain ⟨_, _, _, _, _, _, forwarded⟩ := Tap_.forwarded_eq s.tap now (s.tap.passToken k)
      rw [tap, forwarded, ← passToken_eq]
      exact ⟨sameRegs_of_pads pads, rfl, rfl, rfl, rfl⟩
    · refine ⟨s.arriveToken k send, rfl, ?_⟩
      rw [arriveToken_next onLoop whole next (by rw [synced]; nofun)]
      exact takeToken_sends send member synced missing queue next
    · refine ⟨s.arriveToken k send, rfl, ?_⟩
      have other : s.tap.snapshot ≠ some (0, none) := by
        rw [waits]
        intro same
        cases same
        exact placed rfl
      rw [arriveToken_next onLoop whole next other, takeToken_waits send waits]
      exact ⟨sameRegs_of_pads rfl, rfl, rfl, rfl, rfl, rfl⟩

end Sys2Proof.Machine

/-! O50: repair, bypass, join and resynchronization of the loop (R84, R349-R355). -/

namespace Sys2Proof.Machine

/-! ### The loss of the token (R349) -/

theorem loseToken_after {s : State} {since : Nat} (timer : s.tap.timer = some since) (onLoop : s.tap.onLoop = true)
    (origin : s.tap.isOrigin = true) : s.loseToken = if since + 20000 ≤ s.clk
      then { s with tap := { s.tap with timer := none, probing := true, probe := some s.tap.lsn } } else s := by
  have due : (s.tap.onLoop && s.tap.isOrigin && decide (since + 20000 ≤ s.clk)) = true ↔ since + 20000 ≤ s.clk := by
    rw [onLoop, origin]
    exact decide_eq_true_iff
  unfold State.loseToken
  rw [timer]
  exact if_congr due rfl rfl

theorem arriveProbe_passes {s : State} (maxl : Nat) (onLoop : s.tap.onLoop = true) (other : s.tap.isOrigin = false) :
    s.arriveProbe maxl = { s with tap := { s.tap with probe := some (max maxl s.tap.lsn) } } := by
  unfold State.arriveProbe
  rw [onLoop, other]
  rfl

/-- The probe is back at the origin: the token is made anew, with a record of the tap. -/
theorem arriveProbe_returns {s : State} {k0 : Token} (maxl : Nat) (onLoop : s.tap.onLoop = true) (origin : s.tap.isOrigin = true)
    (probing : s.tap.probing = true) (sent : s.tap.sentToken = some k0) :
    s.arriveProbe maxl = (s.mapTap fun t => { t with
      probing := false, timer := some s.clk
      sentToken := some (Token.sealed_ ⟨max maxl s.tap.lsn + 1, s.tap.horizon, s.tap.applied, (k0.rot + 1) % 2 ^ 32,
        s.tap.position, 0⟩) }).tapRecord 0x0600 (max maxl s.tap.lsn + 1) false true := by
  unfold State.arriveProbe
  rw [onLoop, origin, probing, sent]
  rfl

/-! ### Repair (R350) -/

theorem repairRecord_refused {s : State} {lsn : Nat} {hdr p0 p1 tag : BitVec 64} (wrong : s.tap.tagFor lsn hdr p0 p1 ≠ tag) :
    s.repairRecord lsn hdr p0 p1 tag = s := by
  rw [State.repairRecord, decide_eq_false wrong, Bool.and_false]
  rfl

/-- A record that the tap has missed, and that is the only one held then, is taken with its tag. -/
theorem repairRecord_taken {s : State} {lsn since : Nat} {hdr p0 p1 tag : BitVec 64} (missing : s.tap.missing = [(lsn, since)])
    (pending : s.tap.pending = []) (redo : s.tap.redo = []) (low : 1 ≤ hdrType hdr) (high : hdrType hdr ≤ 5)
    (right : s.tap.tagFor lsn hdr p0 p1 = tag) :
    (s.repairRecord lsn hdr p0 p1 tag).pads = s.pads ∧ (s.repairRecord lsn hdr p0 p1 tag).tap.missing = [] ∧
      (s.repairRecord lsn hdr p0 p1 tag).tap.pending = [⟨lsn, hdr, p0, p1, tag, true⟩] := by
  let r : Stamped := ⟨lsn, hdr, p0, p1, tag, true⟩
  let u : State := (s.mapTap fun t => ((({ t with pending := insertStamped r t.pending
                                                  missing := t.missing.filter fun m => decide (m.1 ≠ lsn) } : Tap_).keep
    r).noteRoll lsn hdr p0)).tapRecord 0x0602 lsn false true
  have may : ((s.tap.missing.any fun m => decide (m.1 = lsn)) && decide (s.tap.tagFor lsn hdr p0 p1 = tag)) = true := by
    rw [missing, right]
    simp
  have taken : s.repairRecord lsn hdr p0 p1 tag = u.settleTap := if_pos may
  have tap : u.tap = ({ s.tap with pending := [r], missing := [] } : Tap_).keep r := by
    rw [tapRecord_tap, State.mapTap_tap, Tap_.noteRoll_sent high, pending, missing]
    simp [insertStamped]
  have plain : u.tap.headPlain := headPlain_sent (r := r) (by rw [tap]; rfl) low high
  have settled := joined_reports u
  rw [taken, settleTap_plain (by rw [tap]; exact redo) plain, settled.pads, settled.tap, tap]
  exact ⟨tapRecord_pads _ _ _ _ _, rfl, rfl⟩

/-! ### A record that is void (R351, R352) -/

/-- What a tap holds for a record that is void: a record of the reserved type 0. -/
def voidStamped (lsn : Nat) : Stamped := { lsn := lsn, hdr := 0, p0 := 0, p1 := 0, tag := 0, valid := true }

theorem voidStamped_reserved (lsn : Nat) :
    reservedType (hdrType (voidStamped lsn).hdr) (hdrOwner (voidStamped lsn).hdr) = true := by
  have header : (voidStamped lsn).hdr = 0 := rfl
  rw [header]
  decide

/-- Where no access is in flight, a partition that is fenced concerns the tap alone. -/
theorem fenceOwners_idle {s : State} (idle : s.mem.ops = []) (owners : List Nat) : s.fenceOwners owners =
    s.mapTap fun t => { t with fenced := t.fenced ++ owners.filter fun o => decide (o ∉ t.fenced) } := by
  unfold State.fenceOwners
  dsimp only
  rw [State.mapTap_mem, idle]
  rfl

/-- The head record of a reserved type that the tap holds alone is passed over (R96). -/
theorem settleTap_passes {s : State} {r : Stamped} (only : s.HoldsOnly r) (next : s.tap.next? = some r)
    (reserved : reservedType (hdrType r.hdr) (hdrOwner r.hdr) = true) : s.settleTap.tap.applied = r.lsn := by
  have moved := advanceTap_movedPast only
  have done : (s.advanceTap r).tap.next? = none := by
    rw [Tap_.next?, moved.redo, only.whole, moved.applied.2]
  have passed : State.passReserved 2 s = s.advanceTap r := by
    rw [State.passReserved, next]
    dsimp only
    rw [if_pos reserved, deliver_foreign only.foreign, State.passReserved, done]
  rw [State.settleTap, only.only, only.whole]
  change (State.passReserved 2 s).joined.tap.applied = _
  rw [passed, (joined_reports _).tap]
  exact moved.applied.1

theorem voidRecord_early {s : State} {lsn : Nat} {m : Nat × Nat} (missed : (s.tap.missing.find? fun x => decide (x.1 = lsn)) = some m)
    (early : s.clk < m.2 + 100000) : s.voidRecord lsn = s := by
  rw [State.voidRecord, missed]
  exact if_pos early

/-- The tap with a void record in place of one that it misses. -/
def Tap_.blanked (t : Tap_) (lsn : Nat) : Tap_ :=
  { t with pending := insertStamped (voidStamped lsn) t.pending, missing := t.missing.filter fun m => decide (m.1 ≠ lsn) }

/-- The tap with an owner's partition fenced. -/
def Tap_.fencing (t : Tap_) (owner : Nat) : Tap_ :=
  { t with fenced := t.fenced ++ [owner].filter fun o => decide (o ∉ t.fenced) }

theorem voidRecord_late {s : State} {m : Nat × Nat} {old : Stamped}
    (missed : (s.tap.missing.find? fun x => decide (x.1 = old.lsn)) = some m) (late : m.2 + 100000 ≤ s.clk)
    (pending : s.tap.pending = [old]) (owned : hdrOwner old.hdr ∈ s.partOwners) : ∃ r : FaultRec,
    s.voidRecord old.lsn = (State.fenceOwners ((State.tellManager (s.mapTap fun t => t.blanked old.lsn)
      0x0603 old.lsn).report r true true) [hdrOwner old.hdr]).settleTap := by
  have found : (s.tap.pending.find? fun r => decide (r.lsn = old.lsn)) = some old := by rw [pending]; simp
  unfold State.voidRecord
  rw [missed]
  dsimp only
  rw [if_neg (by omega), found]
  dsimp only
  rw [if_pos owned]
  exact ⟨_, rfl⟩

/-- After 100 µs the tap holds the void record, its owner's partition is fenced, and the tap goes on. -/
theorem voidRecord_settles {s : State} {m : Nat × Nat} {old : Stamped}
    (missed : (s.tap.missing.find? fun x => decide (x.1 = old.lsn)) = some m) (late : m.2 + 100000 ≤ s.clk)
    (pending : s.tap.pending = [old]) (owned : hdrOwner old.hdr ∈ s.partOwners) (idle : s.mem.ops = []) :
    ∃ u : State, s.voidRecord old.lsn = u.settleTap ∧ u.mem.ops = [] ∧ u.pads = s.pads ∧
      u.tap = (s.tap.blanked old.lsn).fencing (hdrOwner old.hdr) := by
  obtain ⟨r, voided⟩ := voidRecord_late missed late pending owned
  have reported := Served.report (State.tellManager (s.mapTap fun t => t.blanked old.lsn) 0x0603 old.lsn) r true true
  have quiet := reported.ops idle
  rw [fenceOwners_idle quiet] at voided
  have told : ∀ u : State, (u.tellManager 0x0603 old.lsn).pads = u.pads ∧ (u.tellManager 0x0603 old.lsn).tap = u.tap :=
    fun _ => ⟨rfl, rfl⟩
  have pads := reported.pads
  have tap := reported.tap
  rw [(told _).1, State.mapTap_pads] at pads
  rw [(told _).2, State.mapTap_tap] at tap
  refine ⟨_, voided, quiet, (State.mapTap_pads _ _).trans pads, ?_⟩
  rw [State.mapTap_tap, tap]
  rfl

/-- The clauses of a void record. -/
theorem recordVoid_result {s : State} {m : Nat × Nat} {old : Stamped}
    (missed : (s.tap.missing.find? fun x => decide (x.1 = old.lsn)) = some m) (late : m.2 + 100000 ≤ s.clk)
    (pending : s.tap.pending = [old]) (owned : hdrOwner old.hdr ∈ s.partOwners) (idle : s.mem.ops = []) :
    let t := s.voidRecord old.lsn
    hdrOwner old.hdr ∈ t.tap.fenced ∧ t.tap.cmem = s.tap.cmem ∧ SameRegs s t ∧ (∀ x ∈ t.tap.missing, x.1 ≠ old.lsn) ∧
      (s.tap.onLoop = true → s.tap.redo = [] → s.tap.snapshot = none → s.tap.applied + 1 = old.lsn → s.tap.own old.lsn = none →
        t.tap.applied = old.lsn) := by
  obtain ⟨u, voided, quiet, pads, tap⟩ := voidRecord_settles missed late pending owned idle
  have settles := Settles.settleTap u
  obtain ⟨_, kept⟩ := settles.quiet quiet
  dsimp only
  rw [voided, settles.fenced, settles.cmem, settles.missing, tap]
  refine ⟨?_, rfl, sameRegs_of_pads (kept.trans pads), fun x hx => ?_, fun onLoop redo synced next foreign => ?_⟩
  · by_cases before : hdrOwner old.hdr ∈ s.tap.fenced <;> simp [Tap_.fencing, Tap_.blanked, before]
  · exact of_decide_eq_true (List.mem_filter.mp hx).2
  · have held : u.tap.pending = [voidStamped old.lsn] := by
      rw [tap, Tap_.fencing, Tap_.blanked, pending]
      exact if_pos rfl
    have only : u.HoldsOnly (voidStamped old.lsn) :=
      ⟨held, by rw [tap]; exact redo, by rw [tap]; exact foreign, quiet⟩
    have head : u.tap.next? = some (voidStamped old.lsn) := by
      have on : u.tap.onLoop = true := by rw [tap]; exact onLoop
      rw [Tap_.next?, only.whole, only.only]
      dsimp only
      rw [on, tap]
      simp [Tap_.fencing, Tap_.blanked, synced, voidStamped, next]
    exact settleTap_passes (r := voidStamped old.lsn) only head (voidStamped_reserved _)

theorem stallApply_late {s : State} {since : Nat} (lag : s.tap.lagSince = some since) (late : since + 1000000 < s.clk)
    (unsaid : s.tap.lagSaid = false) :
    s.stallApply = (s.mapTap fun t => { t with lagSaid := true }).tapRecord 0x0605 s.tap.applied true true := by
  rw [State.stallApply, lag]
  exact if_pos ⟨late, unsaid⟩

theorem stallApply_early {s : State} {since : Nat} (lag : s.tap.lagSince = some since) (early : s.clk ≤ since + 1000000) :
    s.stallApply = s := by
  rw [State.stallApply, lag]
  exact if_neg fun h => by omega

/-! ### Copies of control memory (R354) -/

theorem sendCopy_all {s : State} (onLoop : s.tap.onLoop = true) (still : s.tap.ptePending = none) (redo : s.tap.redo = [])
    (synced : s.tap.snapshot = none) (first : Nat) : s.sendCopy first none = if first ≤ s.tap.applied + 1
      then { s with tap := { s.tap with copies := s.tap.copies ++ [(s.tap.applied, none, s.tap.cmem)] } } else s := by
  have may : (s.tap.onLoop && s.tap.ptePending.isNone && s.tap.redo.isEmpty && s.tap.snapshot.isNone &&
      decide (first ≤ s.tap.applied + 1)) = true ↔ first ≤ s.tap.applied + 1 := by
    rw [onLoop, still, redo, synced]
    exact decide_eq_true_iff
  exact if_congr may rfl rfl

theorem sendCopy_partition {s : State} {o base len : Nat} (onLoop : s.tap.onLoop = true) (still : s.tap.ptePending = none)
    (redo : s.tap.redo = []) (synced : s.tap.snapshot = none) {first : Nat} (passed : first ≤ s.tap.applied + 1)
    (partition : s.partition o = some (base, len)) :
    s.sendCopy first (some o) = { s with tap := { s.tap with copies := s.tap.copies ++
      [(s.tap.applied, some o, s.tap.cmem.filter fun c => decide (base ≤ c.1 ∧ c.1 < base + len))] } } := by
  have may : (s.tap.onLoop && s.tap.ptePending.isNone && s.tap.redo.isEmpty && s.tap.snapshot.isNone &&
      decide (first ≤ s.tap.applied + 1)) = true := by
    rw [onLoop, still, redo, synced]
    exact decide_eq_true passed
  unfold State.sendCopy
  dsimp only
  rw [partition]
  exact if_pos may

/-- The tap with a copy of control memory installed (R354). -/
def Tap_.installed (t : Tap_) (n : Nat) (data : List Nat) : Tap_ :=
  { t with
    cmem := tabSetMany 0 [] 0 ((data.map fun x => (BitVec.ofNat 8 x : Byte)).take (2 ^ 22)), applied := n
    pending := t.pending.filter fun r => decide (n < r.lsn), missing := t.missing.filter fun m => decide (n < m.1)
    snapshot := none, fenced := [], ptePending := none
    catchUp := some (greatest n ((t.pending.map (·.lsn)) ++ t.missing.map (·.1)))
    isOrigin := decide (lowestTap t.present = t.position), skipHz := true }

theorem installCopy_early {s : State} {j n : Nat} (waits : s.tap.snapshot = some (j, none)) (early : j = 0 ∨ n + 1 < j)
    (data : List Nat) : s.installCopy n data = s := by
  unfold State.installCopy
  rw [waits]
  exact if_pos early

theorem installCopy_reaches {s : State} {j n : Nat} (waits : s.tap.snapshot = some (j, none)) (placed : j ≠ 0)
    (reaches : j ≤ n + 1) (data : List Nat) :
    s.installCopy n data = (s.mapTap fun t => (t.installed n data).noteLag s.clk).settleTap := by
  unfold State.installCopy
  rw [waits]
  exact if_neg (by omega)

/-- A byte of the copy is the byte of the replica. -/
theorem installed_byte (t : Tap_) (n : Nat) {data : List Nat} {i v : Nat} (there : data[i]? = some v) (inside : i < 2 ^ 22) :
    tabGet 0 (t.installed n data).cmem i = BitVec.ofNat 8 v := by
  have byte : ((data.map fun x => (BitVec.ofNat 8 x : Byte)).take (2 ^ 22))[i]? = some (BitVec.ofNat 8 v) := by
    rw [List.getElem?_take_of_lt inside, List.getElem?_map, there]
    rfl
  have short := (List.getElem?_eq_some_iff.mp byte).1
  refine (tabGet_tabSetMany 0 [] 0 i _ rfl).trans ?_
  rw [if_pos ⟨Nat.zero_le _, by omega⟩, Nat.sub_zero, byte]
  rfl

theorem installCopy_result {s : State} {j n : Nat} (waits : s.tap.snapshot = some (j, none)) (placed : j ≠ 0)
    (reaches : j ≤ n + 1) (pending : s.tap.pending = []) (redo : s.tap.redo = []) (data : List Nat) :
    (s.installCopy n data).pads = s.pads ∧ ∃ since said, (s.installCopy n data).tap =
      { s.tap.installed n data with lagSince := since, lagSaid := said } := by
  obtain ⟨since, said, noted⟩ := Tap_.noteLag_eq (s.tap.installed n data) s.clk
  have settled := settleTap_reports (s := s.mapTap fun t => (t.installed n data).noteLag s.clk)
    (by rw [State.mapTap_tap, noted, Tap_.installed, pending]; rfl) (by rw [State.mapTap_tap, noted]; exact redo)
  rw [installCopy_reaches waits placed reaches, settled.pads, settled.tap]
  exact ⟨rfl, since, said, noted⟩

/-! ### Taps that leave and join (R84, R353, R354) -/

/-- The clauses of a bypass. -/
theorem bypassTap_own {s : State} {tap : Nat} (own : tap = s.tap.position) : let t := s.bypassTap tap
    t.pads = s.pads ∧ t.tap.bypassed = true ∧ t.tap.isOrigin = false ∧ t.readyBit 82 = false ∧ t.readyBit 83 = false ∧
      t.tap.cmem = s.tap.cmem ∧ t.tap.ptePending = none := by
  unfold State.bypassTap
  dsimp only
  rw [if_pos own, tapRecord_pads, tapRecord_tap, tapRecord_readyBit, tapRecord_readyBit]
  refine ⟨rfl, rfl, rfl, ?_, readyBit_setReady _ 83 false 83, rfl, rfl⟩
  exact (readyBit_setReady _ 83 false 82).trans (readyBit_setReady _ 82 false 82)

theorem bypassTap_other {s : State} {tap : Nat} (other : tap ≠ s.tap.position) : let t := s.bypassTap tap
    t.pads = s.pads ∧ t.mem = s.mem ∧ t.tap.present.testBit tap = false ∧
      (∀ k, k ≠ tap → t.tap.present.testBit k = s.tap.present.testBit k) ∧
      t.tap.isOrigin = (s.tap.onLoop && decide (lowestTap t.tap.present = s.tap.position)) ∧ t.tap.cmem = s.tap.cmem := by
  unfold State.bypassTap
  dsimp only
  rw [if_neg other]
  have cleared := testBit_cleared s.tap.present tap
  refine ⟨rfl, rfl, (cleared tap).trans (by simp), fun k hk => (cleared k).trans (by simp [hk]), rfl, rfl⟩

/-- The clauses of a join. -/
theorem joinTap_result (s : State) (tap : Nat) : let t := s.joinTap tap
    t.pads = s.pads ∧ t.mem = s.mem ∧ t.tap.present = s.tap.present ||| 2 ^ tap ∧
      (tap = s.tap.position → t.tap.running = true ∧ t.tap.bypassed = false ∧ t.tap.snapshot = some (0, none) ∧
        t.tap.pending = [] ∧ t.tap.ptePending = none ∧ t.readyBit 82 = true ∧
        t.tap.isOrigin = decide (lowestTap t.tap.present = s.tap.position)) ∧
      (tap ≠ s.tap.position → t.tap.isOrigin = (s.tap.isOrigin && decide (lowestTap t.tap.present = s.tap.position))) := by
  unfold State.joinTap
  dsimp only
  split
  · next own =>
    exact ⟨rfl, rfl, rfl, fun _ => ⟨rfl, rfl, rfl, rfl, rfl, readyBit_setReady _ 82 true 82, rfl⟩, absurd own⟩
  · next other => exact ⟨rfl, rfl, rfl, fun own => absurd own other, fun _ => rfl⟩

/-- Settles O50, clause by clause. -/
theorem repairAndJoinRows : Obligations.RepairAndJoinRows := by
  refine ⟨fun s => ⟨?_, ?_, ?_, ?_, ?_, ?_, ?_, ?_, ?_⟩, fun s tap => ⟨?_, ?_, ?_, ?_⟩⟩
  · exact fun since timer onLoop origin => congrArg Host.Outcome.next (loseToken_after timer onLoop origin)
  · exact fun maxl onLoop other => congrArg Host.Outcome.next (arriveProbe_passes maxl.toNat onLoop other)
  · intro maxl k0 onLoop origin probing sent
    refine ⟨_, congrArg Host.Outcome.next (arriveProbe_returns maxl.toNat onLoop origin probing sent), ?_⟩
    exact ⟨tapRecord_pads _ _ _ _ _, tapRecord_tap _ _ _ _ _⟩
  · intro lsn since hdr p0 p1 tag missing pending redo low high
    exact ⟨fun wrong => congrArg Host.Outcome.next (repairRecord_refused wrong),
      fun right => ⟨_, rfl, repairRecord_taken missing pending redo low high right⟩⟩
  · exact fun lsn hdr p0 p1 tag onLoop => congrArg Host.Outcome.next (if_pos onLoop)
  · exact fun first data onLoop still redo synced => congrArg Host.Outcome.next (sendCopy_all onLoop still redo synced first)
  · exact fun first o base len data onLoop still redo synced passed partition =>
      congrArg Host.Outcome.next (sendCopy_partition onLoop still redo synced passed partition)
  · intro lsn m missed
    refine ⟨fun early => congrArg Host.Outcome.next (voidRecord_early missed early), ?_⟩
    rintro old late pending rfl owned idle
    exact ⟨_, rfl, recordVoid_result missed late pending owned idle⟩
  · intro since lag
    refine ⟨fun early => congrArg Host.Outcome.next (stallApply_early lag early), fun late unsaid => ?_⟩
    refine ⟨_, congrArg Host.Outcome.next (stallApply_late lag late unsaid), ?_⟩
    exact ⟨tapRecord_pads _ _ _ _ _, tapRecord_tap _ _ _ _ _, tapRecord_reports _ _ _ _ _⟩
  · exact fun own => ⟨_, rfl, bypassTap_own own⟩
  · exact fun other => ⟨_, rfl, bypassTap_other other⟩
  · exact ⟨_, rfl, joinTap_result s tap⟩
  · intro j n data waits
    refine ⟨fun early => congrArg Host.Outcome.next (installCopy_early waits early data), ?_⟩
    intro placed reaches pending redo
    obtain ⟨pads, since, said, tap⟩ := installCopy_result waits placed reaches pending redo data
    refine ⟨_, rfl, pads, ?_⟩
    rw [tap]
    exact ⟨rfl, rfl, rfl, rfl, rfl, fun i v there inside => installed_byte s.tap n there inside⟩

end Sys2Proof.Machine

/-! O54: parked work, service registers, invalidations and host broadcast queues (R89, R98, R118, R262, R271-R274, R279, R330). -/

namespace Sys2Proof.Machine

/-! ### Parked work (R330) -/

/-- What waits to be tried again has its case in one condition. -/
theorem again_condition {stalled : Option Nat} {ctx c lo hi va : Nat} :
    (stalled.isSome && decide (c = ctx) && decide (lo ≤ va ∧ va < hi)) = true ↔
      stalled.isSome = true ∧ c = ctx ∧ lo ≤ va ∧ va < hi := by
  simp only [Bool.and_eq_true, decide_eq_true_eq, and_assoc]

/-- The parked work of a context and a range tries again; registers, memory and context records stay. -/
theorem retryParked_result (s : State) (ctx lo hi : Nat) : let t := s.retryParked (fun c => decide (c = ctx)) lo hi
    SameRegs s t ∧ t.mem.bytes = s.mem.bytes ∧ t.ctxs = s.ctxs ∧
      ((t.pads.map fun p => p.fgs.map fun g => g.efts) = (s.pads.map fun p => p.fgs.map fun g => g.efts.map fun e =>
        if p.ctx = ctx ∧ lo ≤ e.va ∧ e.va < hi then { e with retry := true } else e)) ∧
      (t.triggers = s.triggers.map fun e => if e.stalled.isSome = true ∧ e.ctx = ctx ∧ lo ≤ e.stallVa ∧ e.stallVa < hi
        then { e with stalled := none } else e) ∧
      (t.mem.merges = s.mem.merges.map fun m => if m.stalled.isSome = true ∧ m.ctx = ctx ∧ lo ≤ m.stallVa ∧ m.stallVa < hi
        then { m with stalled := none } else m) := by
  refine ⟨sameRegs_retryParked s _ lo hi, rfl, rfl, ?_, ?_, ?_⟩
  · refine (List.map_map (f := Pad.again (fun c => decide (c = ctx)) lo hi)).trans (List.map_congr_left fun p _ => ?_)
    by_cases mine : p.ctx = ctx
    · simp [Pad.again, Eft.again, mine, Function.comp_def]
    · simp [Pad.again, mine]
  · exact List.map_congr_left fun e _ => if_congr again_condition rfl rfl
  · exact List.map_congr_left fun m _ => if_congr again_condition rfl rfl

/-- FRESUME as a retry of one range. -/
theorem resumeParked_eq (s : State) (ctx addr : Nat) : let a := addr % 2 ^ 57
    let n := match s.walk ctx a with
      | some p => p.size
      | none => 2 ^ 16
    s.resumeParked ctx addr = s.retryParked (fun c => decide (c = ctx)) (if a = 0 then 0 else a / n * n)
      (if a = 0 then 2 ^ 64 else a / n * n + n) := by
  intro a n
  unfold State.resumeParked
  dsimp only
  split
  · rfl
  · rfl

/-! ### Invalidations (R271) -/

/-- The range of an LTINVAL word, written out. -/
theorem invalRange_eq (w : Nat) : invalRange w = (if w.testBit 2 then 0 else w % 2 ^ 57 / pageBytes (w % 4) * pageBytes (w % 4),
    if w.testBit 2 then 2 ^ 64 else w % 2 ^ 57 / pageBytes (w % 4) * pageBytes (w % 4) + pageBytes (w % 4)) := by
  unfold invalRange
  split <;> rfl

/-- An invalidation that starts drops the translations of its range; threads and bytes stay. -/
theorem startInval_result (s : State) (ctx w : Nat) : ∃ l, (s.startInval ctx w).pads = s.pads ∧
    (s.startInval ctx w).mem.bytes = s.mem.bytes ∧ (s.startInval ctx w).service.ltInval = some (ctx, w, l) ∧
    (s.startInval ctx w).mem.tlbs = s.mem.tlbs.filter fun x =>
      !(decide (x.ctx = ctx) && meets x.va (x.va + x.size) (invalRange w).1 (invalRange w).2) := by
  obtain ⟨sockets, nextId, sent⟩ := sendInvals_eq
    (s.dropTrans (fun c => decide (c = ctx)) (invalRange w).1 (invalRange w).2) (fun c => decide (c = ctx))
    (invalRange w).1 (invalRange w).2
  unfold State.startInval
  dsimp only
  rw [sent]
  exact ⟨_, rfl, rfl, rfl, rfl⟩

/-- The clauses of an invalidation that may end. -/
theorem endInval_result {s : State} {ctx w : Nat} {invals : List (Nat × Nat)} (running : s.service.ltInval = some (ctx, w, invals)) :
    let gone := s.invalsGone invals && s.transGone (fun c => decide (c = ctx)) (invalRange w).1 (invalRange w).2
    (gone = false → s.endInval = s) ∧
    (gone = true → s.service.ltQueue = [] → s.endInval = (s.mapService fun v => { v with
      ltInval := none, ltCount := (v.ltCount + 1) % 2 ^ 32 }).retryParked (fun c => decide (c = ctx))
        (invalRange w).1 (invalRange w).2) := by
  unfold State.endInval
  rw [running]
  refine ⟨fun held => if_neg (ne_true_of_eq_false held), fun free queue => (if_pos free).trans ?_⟩
  dsimp only
  split
  · rfl
  · next busy => exact absurd (busy.symm.trans queue) (by nofun)

end Sys2Proof.Machine

/-! SUPPORT for O54, and O54: service registers and host broadcast queues (R89, R118, R273, R274, R279, R364-R366). -/

namespace Sys2Proof.Machine

/-! ### Registers (R118, R273, R279, R364) -/

theorem resetSockets_one (s : State) {sock : Nat} (both : sock < 2) : s.resetSockets (2 ^ sock) = s.resetSocket sock := by
  unfold State.resetSockets
  interval_cases sock
  · rw [if_neg (by decide), if_pos (by decide)]
  · rw [if_pos (by decide), if_neg (by decide)]

/-- NENT of a submission queue. -/
theorem writePf_nent (s : State) {q : Nat} (queue : q < 64) (v : Nat) : s.writePf (0x100 + 32 * q + 8) 4 v =
    s.mapSub q fun k => { k with nent := mergeReg k.nent 4 v % 2 ^ 16 } := by
  have place : (0x100 + 32 * q + 8 - 0x100) / 32 = q := by omega
  have which : (0x100 + 32 * q + 8) % 32 = 8 := by omega
  unfold State.writePf
  dsimp only
  rw [if_neg (by omega), if_neg (by omega), if_neg (by omega), if_neg (by omega), if_pos (by omega), place, which]
  rfl

/-- A TDI's registers take writes in RUN alone (R366). -/
theorem writeTdi_outside {s : State} {n : Nat} {x : Tdi} (there : s.service.tdis[n]? = some x) (outside : x.tdiState ≠ 2)
    (off size v : Nat) : s.writeTdi n off size v = s := by
  unfold State.writeTdi
  rw [there]
  exact if_pos outside

/-- The clauses of a TDI's window registers in RUN. -/
theorem writeTdi_inside {s : State} {n : Nat} {x : Tdi} (there : s.service.tdis[n]? = some x) (inside : x.tdiState = 2) :
    s.writeTdi n 0x20 4 1 = s.openWindow n ∧ s.writeTdi n 0x20 4 2 = s.revokeWindow n ∧
      s.writeTdi n 0x00 4 7 = s.mapTdi n fun t => { t with wsel := mergeReg t.wsel 4 7 % 256 } := by
  unfold State.writeTdi
  rw [there]
  dsimp only
  have runs : ¬ x.tdiState ≠ 2 := not_not.mpr inside
  exact ⟨(if_neg runs).trans rfl, (if_neg runs).trans rfl, (if_neg runs).trans rfl⟩

/-! ### Host broadcast queues (R89, R274) -/

/-- The record of a slot of a host broadcast queue, by 8-byte words. -/
def State.hostWord (s : State) (k : Hbq) (i : Nat) : BitVec 64 :=
  BitVec.ofNat 64 (leValue (s.mem.latestBytes (hostKey (k.base + 32 * (k.next % 64)) + 8 * i) 8))

/-- What reads no further: a queue whose records have all been read. -/
theorem readHbq_done {s : State} {q fuel : Nat} (read : (atD Hbq.zero s.service.hbqs q).next = (atD Hbq.zero s.service.hbqs q).tail) :
    State.readHbq fuel s q = s := by
  cases fuel with
  | zero => rfl
  | succ fuel =>
    unfold State.readHbq
    exact if_pos (.inl read)

/-- A record in order of the queue's owner enters the broadcast queue. -/
theorem readHbq_takes {s : State} {q owner fuel : Nat} {k : Hbq} (there : atD Hbq.zero s.service.hbqs q = k)
    (new : k.next ≠ k.tail) (room : s.queueRoom 1 = true) (linkUp : s.service.linkUp = true) (intake : s.intake = true)
    (performed : s.hostPerformed = true) (owned : k.owner = some owner) (ok : s.hostRecordOk owner (s.hostWord k 0) = true) :
    State.readHbq (fuel + 1) s q = State.readHbq fuel ((s.mapHbq q fun k => { k with next := (k.next + 1) % 2 ^ 32 }).enqueueRecord
      (hostHeader owner s.tap.position (s.hostWord k 0)) (payload0 (hdrType (s.hostWord k 0)) (s.hostWord k 1))
      (payload1 (hdrType (s.hostWord k 0)) (hdrSize (s.hostWord k 0)) (s.hostWord k 2)) 2 (64 * q + k.next % 64)) q := by
  subst there
  have goes : ¬ ((atD Hbq.zero s.service.hbqs q).next = (atD Hbq.zero s.service.hbqs q).tail ∨ (!s.queueRoom 1) = true ∨
      (!s.service.linkUp) = true ∨ (!s.intake) = true ∨ (!s.hostPerformed) = true) := by
    rw [room, linkUp, intake, performed]
    simpa using new
  rw [State.readHbq]
  dsimp only
  rw [if_neg goes, owned]
  change s.hostRecordOk owner (BitVec.ofNat 64 (leValue (s.mem.latestBytes (hostKey ((atD Hbq.zero s.service.hbqs q).base +
    32 * ((atD Hbq.zero s.service.hbqs q).next % 64)) + 8 * 0) 8))) = true at ok
  simp only [ok, if_true, Option.isNone_some, Bool.false_and, Bool.false_eq_true, if_false]
  rfl

/-- The header of a host record, written out. -/
theorem hostHeader_eq (owner position : Nat) (h : BitVec 64) : hostHeader owner position h =
    headerWord (hdrType h) owner position true (hdrSize h) (if hdrType h = 4 then hdrCtx h else 0)
      (if hdrType h = 4 then hdrAux h else 0) := by
  unfold hostHeader
  simp only [decide_eq_true_eq]

/-- R89, R274: a doorbell that announces one record in order. -/
theorem hbqDoorbell_takes {s : State} {q tail owner : Nat} {k : Hbq} (there : s.service.hbqs[q]? = some k)
    (linkUp : s.service.linkUp = true) (owned : k.owner = some owner) (live : s.ownerCut owner = false)
    (intake : s.intake = true) (performed : s.hostPerformed = true) (room : s.queueRoom 1 = true)
    (one : tail % 2 ^ 32 = (k.next + 1) % 2 ^ 32) (ok : s.hostRecordOk owner (s.hostWord k 0) = true) :
    ∃ t, s.hbqDoorbell q tail = t ∧ t.pads = s.pads ∧ t.mem = s.mem ∧
      t.service.hbqs[q]? = some { k with tail := tail % 2 ^ 32, next := (k.next + 1) % 2 ^ 32 } ∧
      t.tap.queue = s.tap.queue ++ [Rec.mk (hostHeader owner s.tap.position (s.hostWord k 0))
        (payload0 (hdrType (s.hostWord k 0)) (s.hostWord k 1))
        (payload1 (hdrType (s.hostWord k 0)) (hdrSize (s.hostWord k 0)) (s.hostWord k 2)) 2 (64 * q + k.next % 64)
        s.tap.nextNum] := by
  have found : atD Hbq.zero s.service.hbqs q = k := by rw [atD_eq_getElem?, there]; rfl
  let rung : State := s.mapHbq q fun k => { k with tail := tail % 2 ^ 32 }
  have announced : rung.service.hbqs[q]? = some { k with tail := tail % 2 ^ 32 } := by
    refine (getElem?_modifyAt _ _ _ _).trans ?_
    rw [if_pos rfl, there]
    rfl
  have rings : s.hbqDoorbell q tail = State.readHbq 64 rung q := by
    unfold State.hbqDoorbell
    dsimp only
    rw [found, owned, linkUp]
    exact if_neg (by simp [live])
  have next : k.next ≠ tail % 2 ^ 32 := by omega
  have takes := readHbq_takes (s := rung) (q := q) (fuel := 63) (owner := owner) (k := { k with tail := tail % 2 ^ 32 })
    (by rw [atD_eq_getElem?, announced]; rfl) next room linkUp intake performed owned ok
  generalize stopped : State.enqueueRecord _ _ _ _ _ _ = u at takes
  have read : u.service.hbqs[q]? = some { k with tail := tail % 2 ^ 32, next := (k.next + 1) % 2 ^ 32 } := by
    rw [← stopped]
    refine (getElem?_modifyAt _ _ _ _).trans ?_
    rw [if_pos rfl, announced]
    rfl
  have done : State.readHbq 63 u q = u := by
    refine readHbq_done ?_
    rw [atD_eq_getElem?, read]
    exact one.symm
  refine ⟨u, by rw [rings, takes, done], ?_, ?_, read, ?_⟩ <;> rw [← stopped] <;> rfl

/-- Settles O54, clause by clause. -/
theorem parkedWorkAndRegisters : Obligations.ParkedWorkAndRegisters := by
  refine ⟨fun s ctx => ⟨?_, ?_, ?_, ?_⟩, fun s => ⟨?_, ?_, ?_, ?_, ?_⟩, fun s q tail owner k => ?_⟩
  · intro addr row a n lo hi which
    rcases which with rfl | rfl
    · have named : a = addr % 2 ^ 57 := if_pos rfl
      have parked : s.resumeParked ctx addr = s.retryParked (fun c => decide (c = ctx)) lo hi := by
        simp only [lo, hi, n, named]
        exact resumeParked_eq s ctx addr
      obtain ⟨regs, bytes, ctxs, efts, triggers, merges⟩ := retryParked_result s ctx lo hi
      refine ⟨_, congrArg Host.Outcome.next parked, regs, bytes, efts, triggers, merges, ?_⟩
      rw [if_pos rfl, ctxs]
    · have other : Instr.vpgrow ctx addr ≠ .fresume ctx addr := nofun
      have every : a = 0 := if_neg other
      have parked : s.growPool ctx addr = (s.mapCtx ctx fun c => { c with vpSize := max c.vpSize (addr / 4096 * 4096) }).retryParked
          (fun c => decide (c = ctx)) lo hi := by
        simp only [lo, hi, every, if_true]
        rfl
      obtain ⟨regs, bytes, ctxs, efts, triggers, merges⟩ := retryParked_result
        (s.mapCtx ctx fun c => { c with vpSize := max c.vpSize (addr / 4096 * 4096) }) ctx lo hi
      refine ⟨_, congrArg Host.Outcome.next parked, regs, bytes, efts, triggers, merges, ?_⟩
      rw [if_neg other, ctxs]
      rfl
  · intro w running
    exact congrArg Host.Outcome.next (if_pos (Option.isSome_iff_ne_none.mpr running))
  · intro w free n lo hi
    have starts : s.writeInval ctx w.toNat = s.startInval ctx w.toNat := by
      unfold State.writeInval
      rw [free]
      rfl
    obtain ⟨l, pads, bytes, inval, tlbs⟩ := startInval_result s ctx w.toNat
    rw [invalRange_eq] at tlbs
    exact ⟨_, l, congrArg Host.Outcome.next starts, pads, bytes, inval, tlbs⟩
  · intro w invals running gone
    obtain ⟨held, ends⟩ := endInval_result running
    refine ⟨fun h => congrArg Host.Outcome.next (held h), fun h queue => ⟨_, congrArg Host.Outcome.next (ends h queue), ?_⟩⟩
    obtain ⟨regs, bytes, _⟩ := retryParked_result (s.mapService fun v => { v with
      ltInval := none, ltCount := (v.ltCount + 1) % 2 ^ 32 }) ctx (invalRange w).1 (invalRange w).2
    exact ⟨regs, bytes, rfl, rfl⟩
  · exact fun v => rfl
  · exact fun sock both => ⟨_, congrArg Host.Outcome.next (resetSockets_one s both), rfl, rfl⟩
  · exact fun v => ⟨rfl, rfl, rfl⟩
  · exact fun q v queue => ⟨_, congrArg Host.Outcome.next (writePf_nent s queue v), rfl, rfl⟩
  · intro n x other there
    have tdi : ∀ off size v, exec (.serviceRegisterWrite n off size v) s = .next (s.writeTdi n off size v) :=
      fun off size v => congrArg Host.Outcome.next (if_neg other)
    refine ⟨fun outside off size v => (tdi off size v).trans (congrArg Host.Outcome.next (writeTdi_outside there outside off size v)),
      fun inside => ?_⟩
    obtain ⟨opens, revokes, selects⟩ := writeTdi_inside there inside
    refine ⟨(tdi _ _ _).trans (congrArg Host.Outcome.next opens), (tdi _ _ _).trans (congrArg Host.Outcome.next revokes),
      _, (tdi _ _ _).trans (congrArg Host.Outcome.next selects), rfl, rfl, ?_⟩
    refine (getElem?_modifyAt _ _ _ _).trans ?_
    rw [if_pos rfl, there]
    rfl
  · refine ⟨fun down => ?_, fun there linkUp owned live intake performed room _ one ok => ?_⟩
    · have lost : (!s.service.linkUp) = true := by rw [down]; rfl
      exact congrArg Host.Outcome.next (if_pos (by simp [lost]))
    · obtain ⟨t, rung, pads, mem, read, queue⟩ :=
        hbqDoorbell_takes there linkUp owned live intake performed room one ok
      rw [hostHeader_eq] at queue
      exact ⟨t, congrArg Host.Outcome.next rung, pads, mem, read, queue⟩

end Sys2Proof.Machine

/-! SUPPORT. Words that place operations (R69, R136, R175): what their effect starts from, and operands read through ports (R135). -/

namespace Sys2Proof.Machine

/-! ### Ports popped (R135, R245) -/

/-- The pad group of a core that has been put in place of the one that stood there. -/
theorem pad?_putPad {s : State} {core : Nat} {p q : Pad} (there : s.pad? core = some p) (same : q.core = p.core) (c : Nat) :
    (s.mapPad core fun _ => q).pad? c = if c = core then some q else s.pad? c := by
  have placed : q.core = core := same.trans (pad?_core there)
  have searched : ∀ ps : List Pad, (ps.map fun x => if x.core = core then q else x).find? (fun x => decide (x.core = c)) =
      if c = core then (ps.find? fun x => decide (x.core = core)).map fun _ => q else ps.find? fun x => decide (x.core = c) := by
    intro ps
    induction ps with
    | nil => simp
    | cons x rest ih =>
      rw [List.map_cons, List.find?_cons, ih]
      by_cases mine : x.core = core
      · by_cases asked : c = core
        · simp [mine, asked, placed]
        · simp [mine, asked, placed, Ne.symm asked]
      · by_cases asked : c = core
        · simp [mine, asked]
        · by_cases this : x.core = c <;> simp [mine, asked, this]
  have there' : s.pads.find? (fun x => decide (x.core = core)) = some p := there
  exact (searched s.pads).trans (by rw [there']; rfl)

/-- A pop leaves the pad group's place, context and file groups. -/
theorem pop_keeps (p : Pad) (g : FileGroup) (n lane now : Nat) : (p.pop g n lane now).1.core = p.core ∧
    (p.pop g n lane now).1.ctx = p.ctx ∧ (p.pop g n lane now).1.fgs = p.fgs := by
  cases p
  exact ⟨rfl, rfl, rfl⟩

/-- The two states are the same but for scratchpads, where port rings stand: every thread and every file group is as before. -/
structure SameButPorts (s t : State) : Prop where
  rest : ∃ pads, t = { s with pads := pads }
  files : ∀ c, (t.pad? c).map (fun p => (p.ctx, p.fgs)) = (s.pad? c).map fun p => (p.ctx, p.fgs)

namespace SameButPorts

theorem refl (s : State) : SameButPorts s s := ⟨⟨_, rfl⟩, fun _ => rfl⟩

theorem trans {s t u : State} (h : SameButPorts s t) (k : SameButPorts t u) : SameButPorts s u := by
  obtain ⟨_, rfl⟩ := h.rest
  obtain ⟨_, rfl⟩ := k.rest
  exact ⟨⟨_, rfl⟩, fun c => (k.files c).trans (h.files c)⟩

theorem thread? {s t : State} (h : SameButPorts s t) (c n l : Nat) : t.thread? c n l = s.thread? c n l := by
  have group : ∀ u : State, u.fg? c n = ((u.pad? c).map fun p => (p.ctx, p.fgs)).bind fun x => x.2[n]? := by
    intro u
    rw [State.fg?, Option.bind_map]
    rfl
  rw [State.thread?, group t, h.files, ← group s]
  rfl

theorem sameRegs {s t : State} (h : SameButPorts s t) : SameRegs s t := fun c f l => by rw [h.thread?]

theorem readRegs (core fg lane : Nat) (t : Thread) (rs : List Nat) :
    ∀ s : State, SameButPorts s (s.readRegs core fg lane t rs).1 := by
  induction rs with
  | nil => exact refl
  | cons n rest ih =>
    intro s
    unfold State.readRegs
    split
    · split
      · next p g there _ =>
        refine trans (t := s.mapPad core fun _ => (p.pop g (n - 56) lane (s.coreClk core)).1) ⟨⟨_, rfl⟩, fun c => ?_⟩ (ih _)
        obtain ⟨core_kept, ctx_kept, fgs_kept⟩ := pop_keeps p g (n - 56) lane (s.coreClk core)
        rw [pad?_putPad there core_kept]
        split
        · next same => rw [same, there, Option.map_some, Option.map_some, ctx_kept, fgs_kept]
        · rfl
      · exact refl s
    · exact ih s

theorem laneReads (r : Run) (g : FileGroup) (reads lanes : List Nat) :
    ∀ s : State, SameButPorts s (s.laneReads r g reads lanes).1 := by
  induction lanes with
  | nil => exact refl
  | cons l rest ih => exact fun s => (readRegs r.core r.fg l (g.thread l) reads s).trans (ih _)

end SameButPorts

/-- A file group without its threads. -/
def FileGroup.noThreads (g : FileGroup) : FileGroup := { g with threads := [] }

/-- A pop from a pad group without its threads gives the same, and leaves the same but for them. -/
theorem pop_bare (p : Pad) (g : FileGroup) (n lane now : Nat) :
    p.noThreads.pop g.noThreads n lane now = ((p.pop g n lane now).1.noThreads, (p.pop g n lane now).2) := by
  cases p
  cases g
  rfl

/-- What a pop gives, and what it leaves of the pad group, does not turn on the threads. -/
theorem pop_noThreads {p q : Pad} {g h : FileGroup} (pads : q.noThreads = p.noThreads) (files : h.noThreads = g.noThreads)
    (n lane now : Nat) : (q.pop h n lane now).2 = (p.pop g n lane now).2 ∧
      (q.pop h n lane now).1.noThreads = (p.pop g n lane now).1.noThreads := by
  have both := pop_bare q h n lane now
  rw [pads, files, pop_bare p g n lane now, Prod.mk.injEq] at both
  exact ⟨both.2.symm, both.1.symm⟩

/-- The file groups of pad groups that are the same but for threads. -/
theorem fgs_noThreads {p q : Pad} (h : q.noThreads = p.noThreads) (n : Nat) :
    (q.fgs[n]?).map FileGroup.noThreads = (p.fgs[n]?).map FileGroup.noThreads := by
  have groups : q.noThreads.fgs[n]? = p.noThreads.fgs[n]? := by rw [h]
  exact (List.getElem?_map.symm.trans groups).trans List.getElem?_map

/-- States that are the same but for pad groups are the same with the same pad groups. -/
theorem put_pads {s u : State} (frame : { u with pads := s.pads } = s) (ps qs : List Pad) :
    { ({ u with pads := qs } : State) with pads := ps } = { s with pads := ps } := by
  have put := congrArg (fun x : State => ({ x with pads := ps } : State)) frame
  exact put

/-- Operand values are read from registers and scratchpads alone: other changes of threads do not change them. -/
theorem readRegs_values (core fg lane : Nat) (t : Thread) (rs : List Nat) : ∀ {s u : State}, SameButThreads s u →
    (u.readRegs core fg lane t rs).2 = (s.readRegs core fg lane t rs).2 := by
  induction rs with
  | nil => exact fun _ => rfl
  | cons n rest ih =>
    intro s u same
    obtain ⟨frame, pads⟩ := same
    have clock : u.coreClk core = s.coreClk core := by rw [← frame]; rfl
    unfold State.readRegs
    split
    · have found := pads core
      cases atS : s.pad? core with
      | none =>
        have atU : u.pad? core = none := by rw [atS] at found; exact Option.map_eq_none_iff.mp found
        rw [atU]
      | some p =>
        rw [atS] at found
        obtain ⟨q, atU, padsSame⟩ := Option.map_eq_some_iff.mp found
        have files := fgs_noThreads padsSame fg
        have groupS : s.fg? core fg = p.fgs[fg]? := by rw [State.fg?, atS]; rfl
        have groupU : u.fg? core fg = q.fgs[fg]? := by rw [State.fg?, atU]; rfl
        rw [atU, groupS, groupU]
        cases inS : p.fgs[fg]? with
        | none =>
          have inU : q.fgs[fg]? = none := by rw [inS] at files; exact Option.map_eq_none_iff.mp files
          rw [inU]
        | some g =>
          rw [inS] at files
          obtain ⟨h, inU, filesSame⟩ := Option.map_eq_some_iff.mp files
          rw [inU]
          obtain ⟨value, left⟩ := pop_noThreads padsSame filesSame (n - 56) lane (u.coreClk core)
          rw [clock] at value left
          have popped : SameButThreads (s.mapPad core fun _ => (p.pop g (n - 56) lane (s.coreClk core)).1)
              (u.mapPad core fun _ => (q.pop h (n - 56) lane (s.coreClk core)).1) := by
            refine ⟨put_pads frame _ _, fun c => ?_⟩
            rw [pad?_putPad atS (pop_keeps p g _ _ _).1, pad?_putPad atU (pop_keeps q h _ _ _).1]
            split
            · exact congrArg some left
            · exact pads c
          dsimp only
          rw [clock, value, ih popped]
    · dsimp only
      rw [ih ⟨frame, pads⟩]

end Sys2Proof.Machine

/-! SUPPORT. The state in which a word's effect starts, and `seal` and `unseal` (R74, R136, R185). -/

namespace Sys2Proof.Machine

/-! ### Where a word's effect starts (R69, R136) -/

theorem executing_lanes {r : Run} {g : FileGroup} {i : Instr} {l : Nat} (executes : l ∈ r.executing g i) : l ∈ r.lanes := by
  unfold Run.executing at executes
  split at executes
  · exact executes
  · exact (List.mem_filter.mp executes).1

/-- The other way round: what has changed in threads alone is the first state with other pad groups. -/
theorem SameButThreads.eq_put {s t : State} (h : SameButThreads s t) : t = { s with pads := t.pads } := by
  have put := congrArg (fun x : State => ({ x with pads := t.pads } : State)) h.1
  exact put

/-- The word has issued for every lane of the run, and its token is set for those that execute it. -/
def State.tokened (s : State) (r : Run) (g : FileGroup) (i : Instr) : State :=
  (s.issued r g i).addOuts (r.inWord g) (r.executing g i) i

section
variable {s : State} {i : Instr} {r : Run} {p : Pad} {g : FileGroup} (h : Issues s i r p g)
include h

theorem runWord_executes {l : Nat} {rest : List Nat} (lanes : r.executing g i = l :: rest) (eff : State → Run → List Nat → State) :
    s.runWord i eff = eff (s.tokened r g i) (r.inWord g) (l :: rest) := by
  rw [runWord_issues h, State.tokened, lanes]
  rfl

theorem sameRng_tokened : SameRng g r.core r.fg (s.tokened r g i) := sameRng_atEffect h _

end

theorem sameButThreads_tokened (s : State) (r : Run) (g : FileGroup) (i : Instr) : SameButThreads s (s.tokened r g i) :=
  (sameButThreads_issued s r g i).trans (addOuts_works _ _ _ _).1

/-- A thread of the state in which the effect starts. -/
theorem thread?_tokened (s : State) (r : Run) (g : FileGroup) (i : Instr) (c n l : Nat) : (s.tokened r g i).thread? c n l =
    if c = r.core ∧ n = r.fg ∧ l ∈ r.executing g i then
      ((s.issued r g i).thread? c n l).map fun t => t.withOuts (newOuts (r.inWord g) i t.level)
    else (s.issued r g i).thread? c n l := (addOuts_works _ _ _ _).2 c n l

theorem sameRegs_tokened (s : State) (r : Run) (g : FileGroup) (i : Instr) : SameRegs s (s.tokened r g i) := by
  have issued : SameRegs s (s.issued r g i) := by
    intro c n l
    rw [State.thread?_issued]
    split
    · cases s.thread? c n l <;> rfl
    · rfl
  refine issued.trans fun c n l => ?_
  rw [thread?_tokened]
  split
  · cases (s.issued r g i).thread? c n l <;> rfl
  · rfl

/-- Each executing lane stands behind the word with its token set (R136). -/
theorem behind_tokened {s : State} {i : Instr} {r : Run} {p : Pad} {g : FileGroup} (h : Issues s i r p g) {tok la : Nat}
    (token : i.token = some (tok, la)) {l : Nat} (executes : l ∈ r.executing g i) (there : (g.threads[l]?).isSome) :
    Behind (s.tokened r g i) i r l tok := by
  obtain ⟨old, found⟩ := Option.isSome_iff_exists.mp there
  have before : s.thread? r.core r.fg l = some old := (State.thread?_eq s _ _ l g (running_fg h.running).2.1).trans found
  refine ⟨(old.issued r i (i.endsWindows && decide (l ∈ r.executing g i))).withOuts (newOuts (r.inWord g) i old.level), ?_, rfl, ?_⟩
  · rw [thread?_tokened, if_pos ⟨rfl, rfl, executes⟩, State.thread?_issued, if_pos ⟨rfl, rfl, executing_lanes executes⟩, before]
    rfl
  · rw [Thread.withOuts, newOuts, token]
    exact ⟨_, List.mem_append_right _ (List.mem_singleton.mpr rfl), rfl, rfl⟩

/-- Standing behind a word is a matter of the thread alone. -/
theorem Behind.of_thread? {s t : State} {i : Instr} {r : Run} {l tok : Nat} (h : Behind s i r l tok)
    (same : t.thread? r.core r.fg l = s.thread? r.core r.fg l) : Behind t i r l tok := by
  rw [Behind, same]
  exact h

/-! ### `seal` and `unseal` (R185) -/

/-- The lanes' operands, read in order. -/
theorem sealReads_eq (r : Run) (reads lanes : List Nat) : ∀ (u : State) (acc : List (List Word)),
    lanes.foldl (fun (x : State × List (List Word)) (l : Nat) =>
      let y := x.1.operands r l reads
      (y.1, x.2 ++ [y.2])) (u, acc) = ((u.collect r reads lanes).1, acc ++ (u.collect r reads lanes).2.map (·.2)) := by
  induction lanes with
  | nil => exact fun u acc => by rw [State.collect, List.map_nil, List.append_nil]; rfl
  | cons l rest ih =>
    intro u acc
    rw [List.foldl_cons, ih, State.collect, List.map_cons, List.append_assoc]
    rfl

/-- A `seal` or `unseal` word places one operation of the first lane's operands, behind the pops of all of them. -/
theorem sealWord_eq {s : State} {i : Instr} {r : Run} {p : Pad} {g : FileGroup} (h : Issues s i r p g) {l : Nat} {rest : List Nat}
    (lanes : r.executing g i = l :: rest) (set : Bool) (scope : Nat) :
    s.sealWord i set scope = ((s.tokened r g i).laneReads r g i.reads (l :: rest)).1.addOp
      (newOp (r.inWord g) p.ctx (l :: rest) (va01 (s.vals r g i.reads l)) (.blank 0 1)
        (.seal set (va01 (s.vals r g i.reads l)) (s.vals r g i.reads l 2).toNat scope 0 0) false) := by
  obtain ⟨reads, _⟩ := collect_turns r g i.reads h.own (l :: rest) _ (sameRng_tokened h)
  have ports := SameButPorts.laneReads r g i.reads (l :: rest) (s.tokened r g i)
  have same := sameButThreads_tokened s r g i
  have values : ((s.tokened r g i).readRegs r.core r.fg l (g.thread l) i.reads).2 =
      (s.readRegs r.core r.fg l (g.thread l) i.reads).2 := readRegs_values _ _ _ _ _ same
  obtain ⟨q, found, ctx⟩ : ∃ q, ((s.tokened r g i).laneReads r g i.reads (l :: rest)).1.pad? r.core = some q ∧ q.ctx = p.ctx := by
    have first := ports.files r.core
    have second := congrArg (Option.map Pad.ctx) (same.2 r.core)
    rw [(running_fg h.running).1] at second
    cases effect : (s.tokened r g i).pad? r.core with
    | none =>
      rw [effect] at second
      cases second
    | some q =>
      rw [effect] at first second
      obtain ⟨q', found, both⟩ := Option.map_eq_some_iff.mp first
      exact ⟨q', found, (congrArg Prod.fst both).trans (Option.some.inj second)⟩
  rw [State.sealWord, runWord_executes h lanes]
  dsimp only
  rw [sealReads_eq, reads]
  dsimp only
  rw [show (r.inWord g).core = r.core from rfl, found]
  dsimp only
  rw [ctx]
  change State.addOp _ (newOp _ _ _ (va01 (nth ((s.tokened r g i).readRegs r.core r.fg l (g.thread l) i.reads).2)) _
    (.seal _ (va01 (nth ((s.tokened r g i).readRegs r.core r.fg l (g.thread l) i.reads).2))
      (nth ((s.tokened r g i).readRegs r.core r.fg l (g.thread l) i.reads).2 2).toNat _ _ _) _) = _
  rw [values]
  rfl

/-- What a state keeps when an operation is placed in it. -/
theorem addOp_thread? (s : State) (o : Op) (c n l : Nat) : (s.addOp o).thread? c n l = s.thread? c n l := rfl

/-- The operation that is placed stands in flight, under a new name. -/
theorem addOp_mem (s : State) (o : Op) : { o with id := s.nextId, issued := s.clk } ∈ (s.addOp o).mem.ops :=
  List.mem_append_right _ (List.mem_singleton.mpr rfl)

/-- States that are the same but for threads stay so but for the operation placed in the second. -/
theorem SameButThreads.addOp {s e : State} (h : SameButThreads s e) (o : Op) : SameButOps s (e.addOp o) := by
  refine ⟨?_, h.2⟩
  rw [h.eq_put]
  rfl

/-- The clauses of `seal` and `unseal`. -/
theorem sealWord_result {s : State} {i : Instr} {r : Run} {p : Pad} {g : FileGroup} (h : Issues s i r p g) {tok la : Nat}
    (token : i.token = some (tok, la)) {l : Nat} {rest : List Nat} (lanes : r.executing g i = l :: rest)
    (there : ∀ k ∈ l :: rest, (g.threads[k]?).isSome) (set : Bool) (scope : Nat) :
    let v := s.vals r g i.reads l
    let u := s.sealWord i set scope
    SameRegs s u ∧ (∀ k ∈ l :: rest, Behind u i r k tok) ∧
      (∃ o, Placed s u r p.ctx (l :: rest) (va01 v) (.seal set (va01 v) (v 2).toNat scope 0 0) o) ∧
      (NoPorts i → SameButOps s u) := by
  intro v u
  have ports := SameButPorts.laneReads r g i.reads (l :: rest) (s.tokened r g i)
  have same := sameButThreads_tokened s r g i
  obtain ⟨_, popped⟩ := ports.rest
  have named : ((s.tokened r g i).laneReads r g i.reads (l :: rest)).1.nextId = s.nextId := by
    rw [popped, same.eq_put]
  dsimp only [u]
  rw [sealWord_eq h lanes]
  refine ⟨?_, fun k hk => ?_, ⟨_, addOp_mem _ _, named.ge, rfl, rfl, rfl, rfl, rfl, rfl, rfl⟩, fun np => ?_⟩
  · exact (sameRegs_tokened s r g i).trans (ports.sameRegs.trans fun c n k => by rw [addOp_thread?])
  · refine (behind_tokened h token (by rw [lanes]; exact hk) (there k hk)).of_thread? ?_
    rw [addOp_thread?, ports.thread?]
  · rw [laneReads_eq r g i.reads np.1]
    exact same.addOp _

end Sys2Proof.Machine

/-! SUPPORT. Broadcasting words: the lanes' records as operations in flight (R193, R197), and their way into the broadcast queue
(R89, R91). -/

namespace Sys2Proof.Machine

/-! ### The lanes' records (R193, R197) -/

/-- A lane's record as it stands in flight. -/
def sentOp (r : Run) (ctx : Nat) (rel : Bool) (now n l : Nat) (kind : OpKind) : Op :=
  { newOp r ctx [l] 0 (.blank 0 1) kind rel with id := n, issued := now }

/-- A lane's record placed, and the lane's last broadcast noted. -/
def State.sendLane (s : State) (r : Run) (ctx : Nat) (rel : Bool) (kind : OpKind) (l : Nat) : State :=
  (s.addOp (newOp r ctx [l] 0 (.blank 0 1) kind rel)).mapThread r.core r.fg l fun t =>
    { t with lastSent := some s.nextId, lastLsn := none }

/-- The records of lanes placed one after another. -/
def State.sendLanes (s : State) (r : Run) (ctx : Nat) (rel : Bool) (kinds : Nat → OpKind) (lanes : List Nat) : State :=
  lanes.foldl (fun s l => s.sendLane r ctx rel (kinds l) l) s

/-- What the lanes' records leave: each in flight under a name of its own, each lane's last broadcast, and nothing else. -/
structure Sent (r : Run) (ctx : Nat) (rel : Bool) (kinds : Nat → OpKind) (lanes : List Nat) (u v : State) : Prop where
  rest : ∃ pads nextId, v = { u with pads := pads, nextId := nextId, mem := { u.mem with
    ops := u.mem.ops ++ mapFrom (fun n l => sentOp r ctx rel u.clk n l (kinds l)) u.nextId lanes } }
  regs : SameRegs u v
  noted : ∀ j l, lanes[j]? = some l → v.thread? r.core r.fg l =
    (u.thread? r.core r.fg l).map fun t => { t with lastSent := some (u.nextId + j), lastLsn := none }
  others : ∀ l, l ∉ lanes → v.thread? r.core r.fg l = u.thread? r.core r.fg l

theorem sendLane_thread? (s : State) (r : Run) (ctx : Nat) (rel : Bool) (kind : OpKind) (a c n l : Nat) :
    (s.sendLane r ctx rel kind a).thread? c n l = if c = r.core ∧ n = r.fg ∧ l = a then
      (s.thread? c n l).map fun t => { t with lastSent := some s.nextId, lastLsn := none } else s.thread? c n l :=
  State.thread?_mapThread (s.addOp (newOp r ctx [a] 0 (.blank 0 1) kind rel)) r.core r.fg a c n l _

theorem sendLane_sameRegs (s : State) (r : Run) (ctx : Nat) (rel : Bool) (kind : OpKind) (a : Nat) :
    SameRegs s (s.sendLane r ctx rel kind a) := by
  intro c n l
  rw [sendLane_thread?]
  split
  · cases s.thread? c n l <;> rfl
  · rfl

theorem sendLanes_sent (r : Run) (ctx : Nat) (rel : Bool) (kinds : Nat → OpKind) (lanes : List Nat) (once : lanes.Nodup) :
    ∀ u : State, Sent r ctx rel kinds lanes u (u.sendLanes r ctx rel kinds lanes) := by
  induction lanes with
  | nil =>
    refine fun u => ⟨⟨u.pads, u.nextId, ?_⟩, fun _ _ _ => rfl, nofun, fun _ _ => rfl⟩
    rw [mapFrom, List.append_nil]
    rfl
  | cons a rest ih =>
    intro u
    rw [List.nodup_cons] at once
    obtain ⟨new, once⟩ := once
    obtain ⟨⟨pads, nextId, rest_eq⟩, regs, noted, others⟩ := ih once (u.sendLane r ctx rel (kinds a) a)
    have unfolds : u.sendLanes r ctx rel kinds (a :: rest) = (u.sendLane r ctx rel (kinds a) a).sendLanes r ctx rel kinds rest := rfl
    rw [unfolds]
    refine ⟨⟨pads, nextId, ?_⟩, (sendLane_sameRegs u r ctx rel (kinds a) a).trans regs, fun j l lane => ?_, fun l other => ?_⟩
    · rw [rest_eq, mapFrom, List.append_cons]
      rfl
    · cases j with
      | zero =>
        obtain rfl : a = l := Option.some.inj lane
        rw [others a new, sendLane_thread?, if_pos ⟨rfl, rfl, rfl⟩]
        rfl
      | succ j =>
        have later : rest[j]? = some l := lane
        have differs : l ≠ a := fun same => new (same ▸ List.mem_of_getElem? later)
        rw [noted j l later, sendLane_thread?, if_neg fun h => differs h.2.2, Nat.add_comm j 1, ← Nat.add_assoc]
        rfl
    · rw [List.mem_cons, not_or] at other
      rw [others l other.2, sendLane_thread?, if_neg fun h => other.1 h.2.2]

/-- Lanes that read no port place their records one after another. -/
theorem sendFold_eq {r : Run} {g : FileGroup} (own : r.ops = []) {reads : List Nat} (np : ∀ n ∈ reads, n < 56) (ctx : Nat)
    (rel : Bool) (kind : List Word → OpKind) (lanes : List Nat) : ∀ u : State, SameRng g r.core r.fg u →
    (∃ q, u.pad? r.core = some q ∧ q.ctx = ctx) →
    lanes.foldl (fun (s : State) (l : Nat) =>
      let x := s.operands (r.inWord g) l reads
      let ref := x.1.nextId
      (x.1.laneOp (r.inWord g) l (kind x.2) rel).mapThread (r.inWord g).core (r.inWord g).fg l fun t =>
        { t with lastSent := some ref, lastLsn := none }) u =
      u.sendLanes r ctx rel (fun l => kind (reads.map (g.thread l).reg)) lanes := by
  induction lanes with
  | nil => exact fun _ _ _ => rfl
  | cons a rest ih =>
    rintro u rng ⟨q, found, here⟩
    have step : (let x := u.operands (r.inWord g) a reads
        let ref := x.1.nextId
        (x.1.laneOp (r.inWord g) a (kind x.2) rel).mapThread (r.inWord g).core (r.inWord g).fg a fun t =>
          { t with lastSent := some ref, lastLsn := none }) = u.sendLane r ctx rel (kind (reads.map (g.thread a).reg)) a := by
      have placed : u.laneOp (r.inWord g) a (kind (reads.map (g.thread a).reg)) rel =
          u.addOp (newOp r ctx [a] 0 (.blank 0 1) (kind (reads.map (g.thread a).reg)) rel) := by
        unfold State.laneOp
        rw [show (r.inWord g).core = r.core from rfl, found]
        dsimp only
        rw [here]
        rfl
      dsimp only
      rw [operands_own u r g a reads own, rng.source, readRegs_eq _ _ _ _ _ _ np]
      dsimp only
      rw [placed]
      rfl
    have kept : ∃ q, (u.sendLane r ctx rel (kind (reads.map (g.thread a).reg)) a).pad? r.core = some q ∧ q.ctx = ctx := by
      refine ⟨_, (State.pad?_mapFg _ _ _ _ _).trans ((if_pos rfl).trans (congrArg (Option.map _) found)), here⟩
    have moved : SameRng g r.core r.fg (u.sendLane r ctx rel (kind (reads.map (g.thread a).reg)) a) :=
      SameRng.mapThread (u := u.addOp _) rng a _ fun _ => rfl
    rw [List.foldl_cons, step, ih _ moved kept]
    rfl

/-! ### Records that enter the broadcast queue (R89, R91) -/

/-- The second state is the first after broadcasts have entered the queue: of the tap only the queue has grown, and of what is
in flight only kinds have changed. -/
structure Broadcasts (s t : State) : Prop where
  rest : ∃ more num ops, t = { s with
    tap := { s.tap with queue := s.tap.queue ++ more, nextNum := num }, mem := { s.mem with ops := ops } }
  kept : ∀ x ∈ s.mem.ops, ∃ k, { x with kind := k } ∈ t.mem.ops

namespace Broadcasts

theorem refl (s : State) : Broadcasts s s := by
  refine ⟨⟨[], s.tap.nextNum, s.mem.ops, ?_⟩, fun x hx => ⟨x.kind, hx⟩⟩
  rw [List.append_nil]

theorem trans {s t u : State} (h : Broadcasts s t) (k : Broadcasts t u) : Broadcasts s u := by
  obtain ⟨⟨more, num, ops, rfl⟩, kept⟩ := h
  obtain ⟨⟨more', num', ops', rfl⟩, kept'⟩ := k
  refine ⟨⟨more ++ more', num', ops', ?_⟩, fun x hx => ?_⟩
  · rw [← List.append_assoc]
  · obtain ⟨_, first⟩ := kept x hx
    obtain ⟨_, second⟩ := kept' _ first
    exact ⟨_, second⟩

theorem pads {s t : State} (h : Broadcasts s t) : t.pads = s.pads := by obtain ⟨_, _, _, rfl⟩ := h.rest; rfl
theorem ownerOf {s t : State} (h : Broadcasts s t) (c : Nat) : t.ownerOf c = s.ownerOf c := by
  obtain ⟨_, _, _, rfl⟩ := h.rest; rfl
theorem position {s t : State} (h : Broadcasts s t) : t.tap.position = s.tap.position := by obtain ⟨_, _, _, rfl⟩ := h.rest; rfl
theorem queue {s t : State} (h : Broadcasts s t) {x : Rec} (hx : x ∈ s.tap.queue) : x ∈ t.tap.queue := by
  obtain ⟨_, _, _, rfl⟩ := h.rest
  exact List.mem_append_left _ hx

theorem broadcast (s : State) (o : Op) : Broadcasts s (s.broadcast o) := by
  unfold State.broadcast
  split
  · refine ⟨⟨_, _, _, rfl⟩, fun x hx => ?_⟩
    by_cases same : x.id = o.id
    · exact ⟨_, List.mem_map.mpr ⟨x, hx, if_pos same⟩⟩
    · exact ⟨x.kind, List.mem_map.mpr ⟨x, hx, if_neg same⟩⟩
  · exact refl s

theorem foldl (os : List Op) : ∀ s : State, Broadcasts s (os.foldl (fun s o => s.broadcast o) s) := by
  induction os with
  | nil => exact refl
  | cons o rest ih => exact fun s => (broadcast s o).trans (ih _)

end Broadcasts

/-- Broadcasts of other names leave an operation as it is. -/
theorem broadcasts_untouched (os : List Op) : ∀ {s : State} {x : Op}, x ∈ s.mem.ops → (∀ o ∈ os, o.id ≠ x.id) →
    x ∈ (os.foldl (fun s o => s.broadcast o) s).mem.ops := by
  induction os with
  | nil => exact fun hx _ => hx
  | cons o rest ih =>
    intro s x hx other
    refine ih (s := s.broadcast o) ?_ fun b hb => other b (List.mem_cons_of_mem _ hb)
    unfold State.broadcast
    split
    · exact List.mem_map.mpr ⟨x, hx, if_neg (Ne.symm (other o List.mem_cons_self))⟩
    · exact hx

/-- The record of the queue that a broadcast makes (R91). -/
def recordOf (owner position ctx rtype : Nat) (p0 p1 : BitVec 64) (size aux : Nat) (rel : Bool) (ref num : Nat) : Rec :=
  { hdr := headerWord rtype owner position rel size ctx aux, p0 := payload0 rtype p0, p1 := payload1 rtype size p1
    origin := 0, ref := ref, num := num }

/-- The broadcast of one operation: it is marked as queued, and its record is last in the queue. -/
theorem broadcast_queues {s : State} {o : Op} {rtype size aux dst lsn : Nat} {p0 p1 : BitVec 64} {rel sys : Bool}
    (kind : o.kind = .cmSend rtype p0 p1 size aux rel sys dst false lsn) {k : OpKind} (there : { o with kind := k } ∈ s.mem.ops) :
    { o with kind := .cmSend rtype p0 p1 size aux rel sys dst true lsn } ∈ (s.broadcast o).mem.ops ∧
      recordOf (s.ownerOf o.ctx) s.tap.position o.ctx rtype p0 p1 size aux rel o.id s.tap.nextNum ∈ (s.broadcast o).tap.queue := by
  unfold State.broadcast
  rw [kind]
  exact ⟨List.mem_map.mpr ⟨_, there, if_pos rfl⟩, List.mem_append_right _ (List.mem_singleton.mpr rfl)⟩

/-- Of operations that are broadcast in order, one whose name no later one has ends as queued, its record in the queue. -/
theorem broadcasts_queue {s : State} {o : Op} (before after : List Op) {rtype size aux dst lsn : Nat} {p0 p1 : BitVec 64}
    {rel sys : Bool} (kind : o.kind = .cmSend rtype p0 p1 size aux rel sys dst false lsn) (there : o ∈ s.mem.ops)
    (last : ∀ b ∈ after, b.id ≠ o.id) :
    let t := (before ++ o :: after).foldl (fun s o => s.broadcast o) s
    { o with kind := .cmSend rtype p0 p1 size aux rel sys dst true lsn } ∈ t.mem.ops ∧
      ∃ num, recordOf (s.ownerOf o.ctx) s.tap.position o.ctx rtype p0 p1 size aux rel o.id num ∈ t.tap.queue := by
  intro t
  have first := Broadcasts.foldl before s
  obtain ⟨k, kept⟩ := first.kept o there
  obtain ⟨marked, queued⟩ := broadcast_queues kind kept
  rw [first.ownerOf, first.position] at queued
  have parts : t = after.foldl (fun s o => s.broadcast o) ((before.foldl (fun s o => s.broadcast o) s).broadcast o) := by
    rw [← List.foldl_cons, ← List.foldl_append]
  rw [parts]
  exact ⟨broadcasts_untouched after marked last, _, (Broadcasts.foldl after _).queue queued⟩

end Sys2Proof.Machine

/-! O24: `seal`, `unseal` and the broadcasting words (R89, R91, R185, R193, R195). -/

namespace Sys2Proof.Machine

/-! ### The records of an instruction enter the queue together (R89) -/

/-- The records of an instruction's lanes, as they stand in flight. -/
def sentOps (r : Run) (ctx : Nat) (rel : Bool) (kinds : Nat → OpKind) (now n : Nat) (lanes : List Nat) : List Op :=
  mapFrom (fun n l => sentOp r ctx rel now n l (kinds l)) n lanes

section
variable {r : Run} {ctx now n : Nat} {rel : Bool} {kinds : Nat → OpKind} {lanes : List Nat}

theorem sentOps_get (j : Nat) : (sentOps r ctx rel kinds now n lanes)[j]? =
    (lanes[j]?).map fun l => sentOp r ctx rel now (n + j) l (kinds l) := getElem?_mapFrom _ _ _ _

/-- A record in flight is that of a lane, by its place. -/
theorem mem_sentOps {o : Op} (ho : o ∈ sentOps r ctx rel kinds now n lanes) :
    ∃ j l, lanes[j]? = some l ∧ o = sentOp r ctx rel now (n + j) l (kinds l) := by
  obtain ⟨j, at_⟩ := List.getElem?_of_mem ho
  rw [sentOps_get] at at_
  obtain ⟨l, lane, made⟩ := Option.map_eq_some_iff.mp at_
  exact ⟨j, l, lane, made.symm⟩

/-- The records around that of one lane: those behind it have higher names. -/
theorem sentOps_split {j l : Nat} (lane : lanes[j]? = some l) : ∃ before after,
    sentOps r ctx rel kinds now n lanes = before ++ sentOp r ctx rel now (n + j) l (kinds l) :: after ∧
      ∀ b ∈ after, b.id ≠ n + j := by
  have at_ : (sentOps r ctx rel kinds now n lanes)[j]? = some (sentOp r ctx rel now (n + j) l (kinds l)) := by
    rw [sentOps_get, lane]
    rfl
  obtain ⟨short, here⟩ := List.getElem?_eq_some_iff.mp at_
  refine ⟨(sentOps r ctx rel kinds now n lanes).take j, (sentOps r ctx rel kinds now n lanes).drop (j + 1), ?_, fun b hb => ?_⟩
  · rw [← here, ← List.drop_eq_getElem_cons short, List.take_append_drop]
  · obtain ⟨m, at_⟩ := List.getElem?_of_mem hb
    rw [List.getElem?_drop, sentOps_get] at at_
    obtain ⟨k, _, rfl⟩ := Option.map_eq_some_iff.mp at_
    change n + (j + 1 + m) ≠ n + j
    omega

/-- A record that no release orders may enter the queue, where nothing but the records of its word is in flight. -/
theorem mayBroadcast_alone {s : State} (only : s.mem.ops = sentOps r ctx false kinds now n lanes) (once : lanes.Nodup)
    {o : Op} (ho : o ∈ s.mem.ops) : s.mayBroadcast o = true := by
  obtain ⟨j, l, lane, rfl⟩ := mem_sentOps (only ▸ ho)
  have apart : ∀ e ∈ s.mem.ops, e.id < n + j → e.lanes.any (fun k => decide (k ∈ [l])) = false := by
    intro e he earlier
    obtain ⟨i, k, other, rfl⟩ := mem_sentOps (only ▸ he)
    have before : n + i < n + j := earlier
    have differs : k ≠ l := by
      rintro rfl
      have short := (List.getElem?_eq_some_iff.mp lane).1
      have := (once.getElem_inj_iff (hi := (List.getElem?_eq_some_iff.mp other).1) (hj := short)).mp
        ((List.getElem?_eq_some_iff.mp other).2.trans (List.getElem?_eq_some_iff.mp lane).2.symm)
      omega
    change (decide (k ∈ [l]) || false) = false
    simpa using differs
  have unordered : ∀ f g : Op → Bool, (s.mem.ops.any fun e =>
      decide (e.id < n + j ∧ e.core = r.core ∧ e.fg = r.fg) && (e.lanes.any fun k => decide (k ∈ [l])) && f e && g e) = false := by
    intro f g
    rw [List.any_eq_false]
    intro e he
    by_cases earlier : e.id < n + j
    · simp only [apart e he earlier, Bool.and_false, Bool.false_and, Bool.false_eq_true, not_false_eq_true]
    · simp [earlier]
  have none_sent : s.earlierBroadcast (sentOp r ctx false now (n + j) l (kinds l)) (fun queued => !queued) = false := by
    unfold State.earlierBroadcast
    exact unordered _ _
  have none_read : s.earlierCmRead (sentOp r ctx false now (n + j) l (kinds l)) = false := by
    unfold State.earlierCmRead
    exact unordered _ _
  rw [State.mayBroadcast, none_sent, none_read]
  rfl

end

/-- The operations of a word that have not been broadcast: those of its lanes last. -/
theorem unqueued_sentOps {v : State} {r : Run} {ctx now n : Nat} {rel : Bool} {kinds : Nat → OpKind} {lanes : List Nat}
    {old : List Op} (ops : v.mem.ops = old ++ sentOps r ctx rel kinds now n lanes)
    (kind : ∀ l, ∃ rtype p0 p1 size aux rel sys dst lsn, kinds l = .cmSend rtype p0 p1 size aux rel sys dst false lsn) :
    ∃ older, (old = [] → older = []) ∧ v.unqueued r.core r.fg r.inst = older ++ sentOps r ctx rel kinds now n lanes := by
  unfold State.unqueued
  rw [ops, List.filter_append]
  refine ⟨_, fun none_old => by rw [none_old]; rfl, congrArg _ (List.filter_eq_self.mpr fun o ho => ?_)⟩
  obtain ⟨j, l, _, rfl⟩ := mem_sentOps ho
  obtain ⟨_, _, _, _, _, _, _, _, _, sends⟩ := kind l
  simp [sentOp, newOp, sends]

/-- R89: the records of a word's lanes stay outside the queue, or enter it together; alone in flight, and with room, they enter
it at once. -/
theorem broadcastAll_sent {v : State} {r : Run} {ctx now n rtype size dst : Nat} {rel sys : Bool} {p0 p1 : Nat → BitVec 64}
    {aux : Nat → Nat} {kinds : Nat → OpKind} {lanes : List Nat} {old : List Op}
    (ops : v.mem.ops = old ++ sentOps r ctx rel kinds now n lanes)
    (sends : ∀ l, kinds l = .cmSend rtype (p0 l) (p1 l) size (aux l) rel sys dst false 0) {j l : Nat} (lane : lanes[j]? = some l) :
    let t := v.broadcastAll r.core r.fg r.inst
    let queued := sentOp r ctx rel now (n + j) l (.cmSend rtype (p0 l) (p1 l) size (aux l) rel sys dst true 0) ∈ t.mem.ops ∧
      ∃ num, recordOf (v.ownerOf ctx) v.tap.position ctx rtype (p0 l) (p1 l) size (aux l) rel (n + j) num ∈ t.tap.queue
    t.pads = v.pads ∧ (queued ∨ sentOp r ctx rel now (n + j) l (kinds l) ∈ t.mem.ops ∧
      ¬ (old = [] ∧ rel = false ∧ lanes.Nodup ∧ v.tap.queue.length + lanes.length ≤ 1024)) := by
  obtain ⟨older, none_older, waiting⟩ := unqueued_sentOps ops fun l => ⟨_, _, _, _, _, _, _, _, _, sends l⟩
  obtain ⟨before, after, split, last⟩ := sentOps_split (r := r) (ctx := ctx) (now := now) (n := n) (rel := rel) (kinds := kinds) lane
  have there : sentOp r ctx rel now (n + j) l (kinds l) ∈ v.mem.ops := by
    rw [ops, split]
    exact List.mem_append_right _ (List.mem_append_right _ List.mem_cons_self)
  have enters := broadcasts_queue (older ++ before) after (o := sentOp r ctx rel now (n + j) l (kinds l)) (sends l) there last
  rw [List.append_assoc, ← split, ← waiting] at enters
  unfold State.broadcastAll
  dsimp only
  by_cases may : (v.queueRoom (v.unqueued r.core r.fg r.inst).length &&
      (v.unqueued r.core r.fg r.inst).all v.mayBroadcast) = true
  · rw [if_pos may]
    exact ⟨(Broadcasts.foldl _ v).pads, .inl enters⟩
  · rw [if_neg may]
    refine ⟨rfl, .inr ⟨there, fun all => may ?_⟩⟩
    obtain ⟨idle, rfl, once, room⟩ := all
    have only : v.unqueued r.core r.fg r.inst = sentOps r ctx false kinds now n lanes := by
      rw [waiting, none_older idle, List.nil_append]
    have flight : v.mem.ops = sentOps r ctx false kinds now n lanes := by rw [ops, idle, List.nil_append]
    have count : (sentOps r ctx false kinds now n lanes).length = lanes.length := length_mapFrom _ _ _
    rw [only, State.queueRoom, count, decide_eq_true room, Bool.true_and, List.all_eq_true]
    exact fun o ho => mayBroadcast_alone flight once (flight ▸ ho)

/-! ### Broadcasting words (R193, R195) -/

theorem thread?_of_pads {s t : State} (pads : t.pads = s.pads) (c n l : Nat) : t.thread? c n l = s.thread? c n l := by
  simp only [State.thread?, State.fg?, State.pad?, pads]

/-- A broadcasting word places its lanes' records and broadcasts what it may. -/
theorem sendWord_eq {s : State} {i : Instr} {r : Run} {p : Pad} {g : FileGroup} (h : Issues s i r p g) (np : NoPorts i)
    (some_lane : r.executing g i ≠ []) (rel : Bool) (kind : List Word → OpKind) :
    s.sendWord i rel kind = ((s.tokened r g i).sendLanes r p.ctx rel (fun l => kind (i.reads.map (g.thread l).reg))
      (r.executing g i)).broadcastAll r.core r.fg r.inst := by
  obtain ⟨l, rest, lanes⟩ := List.exists_cons_of_ne_nil some_lane
  have here : ∃ q, (s.tokened r g i).pad? r.core = some q ∧ q.ctx = p.ctx := by
    have same := congrArg (Option.map Pad.ctx) ((sameButThreads_tokened s r g i).2 r.core)
    rw [Option.map_map, Option.map_map, (running_fg h.running).1] at same
    exact Option.map_eq_some_iff.mp same
  rw [State.sendWord, runWord_executes h lanes, ← lanes]
  dsimp only
  rw [sendFold_eq h.own np.1 p.ctx rel kind (r.executing g i) (s.tokened r g i) (sameRng_tokened h) here]
  rfl

/-- A word that broadcasts, from what its record is made of. -/
theorem sendWord_sends {s : State} {i : Instr} {tok la rtype size dst : Nat} {rel sys : Bool} {kind : List Word → OpKind}
    {p0 p1 : (Nat → Word) → BitVec 64} {aux : (Nat → Word) → Nat} (meaning : exec i s = .next (s.sendWord i rel kind))
    (token : i.token = some (tok, la)) (sends : ∀ t : Thread, kind (i.reads.map t.reg) = .cmSend rtype (p0 (t.operands i.reads))
      (p1 (t.operands i.reads)) size (aux (t.operands i.reads)) rel sys dst false 0) :
    SendWord s i i.reads tok rtype size dst rel sys p0 p1 aux := by
  intro r p g h np some_lane there
  have same := sameButThreads_tokened s r g i
  have sent := sendLanes_sent r p.ctx rel (fun l => kind (i.reads.map (g.thread l).reg)) (r.executing g i)
    h.executing_nodup (s.tokened r g i)
  rw [meaning, sendWord_eq h np some_lane]
  generalize (s.tokened r g i).sendLanes r p.ctx rel (fun l => kind (i.reads.map (g.thread l).reg)) (r.executing g i) = v at sent
  obtain ⟨pads, nextId, frame⟩ := sent.rest
  have names : (s.tokened r g i).nextId = s.nextId := by rw [same.eq_put]
  have flight : (s.tokened r g i).mem = s.mem := by rw [same.eq_put]
  have tap : v.tap = s.tap := by rw [frame, same.eq_put]
  have owner : v.ownerOf p.ctx = s.ownerOf p.ctx := by
    rw [frame, same.eq_put]
    rfl
  have ops : v.mem.ops = s.mem.ops ++ sentOps r p.ctx rel (fun l => kind (i.reads.map (g.thread l).reg))
      (s.tokened r g i).clk s.nextId (r.executing g i) := by
    rw [frame, ← names, ← flight]
    rfl
  have record := fun {j l : Nat} (lane : (r.executing g i)[j]? = some l) =>
    broadcastAll_sent ops (fun l => sends (g.thread l)) lane
  obtain ⟨l0, rest0, lanes0⟩ := List.exists_cons_of_ne_nil some_lane
  have same_pads := (record (j := 0) (l := l0) (by rw [lanes0]; rfl)).1
  refine ⟨_, rfl, (sameRegs_tokened s r g i).trans (sent.regs.trans (sameRegs_of_pads same_pads)), fun l executes => ?_⟩
  obtain ⟨j, lane⟩ := List.getElem?_of_mem executes
  obtain ⟨new, found, pc, out⟩ := behind_tokened h token executes (there l executes)
  have noted := sent.noted j l lane
  rw [found, names, ← thread?_of_pads same_pads] at noted
  obtain ⟨_, stands⟩ := record lane
  have values : s.vals r g i.reads l = (g.thread l).operands i.reads := by
    rw [State.vals, readRegs_eq _ _ _ _ _ _ np.1]
    rfl
  rw [values]
  rw [tap, owner] at stands
  refine ⟨⟨_, noted, pc, out⟩, ?_⟩
  rcases stands with ⟨stands, num, waits⟩ | ⟨stands, crowded⟩
  · refine ⟨_, _, stands, rfl, rfl, rfl, rfl, noted, rfl, rfl, .inr ?_, fun _ _ _ => ?_⟩ <;>
      exact ⟨rfl, _, waits, rfl, rfl, rfl, rfl, rfl⟩
  · exact ⟨_, _, stands, rfl, rfl, rfl, rfl, noted, rfl, rfl, .inl (sends (g.thread l)),
      fun idle room free => absurd ⟨idle, free, h.executing_nodup, room⟩ crowded⟩

/-! ### The forms of the words -/

/-- A one-bit field as the words read it. -/
theorem flag_eq (x : BitVec 1) : decide (x.toNat = 1) = (x == 1) := by
  revert x
  decide

/-- A 32-bit offset as a record's payload. -/
theorem offset_payload (x : Word) : BitVec.ofNat 64 x.toNat = x.setWidth 64 := BitVec.ofNat_toNat 64 x

/-- The data of a STORE or ADD record: one word, or the pair where the width is 8 bytes. -/
theorem cmData_eq (z : BitVec 1) (t : Thread) (a d : Nat) :
    cmData z (([a] ++ wideRegs (z == 1) d).map t.reg) 1 =
      t.operands ([a] ++ wideRegs (z == 1) d) 2 ++ t.operands ([a] ++ wideRegs (z == 1) d) 1 := by
  rw [← flag_eq]
  unfold cmData wideRegs
  by_cases wide : z.toNat = 1
  · simp only [wide, if_true, decide_true]
    rfl
  · simp only [wide, if_false, decide_false, Bool.false_eq_true]
    have low : ∀ x : Word, x.setWidth (32 + 32) = 0#32 ++ x := by
      intro x
      apply BitVec.eq_of_toNat_eq
      have := x.isLt
      simp only [BitVec.toNat_setWidth, BitVec.toNat_append, BitVec.toNat_ofNat, Nat.zero_mod, Nat.zero_shiftLeft, Nat.zero_or]
      omega
    exact low _

/-- Settles O24: `seal` and `unseal` place one operation, and each broadcasting word its lanes' records. -/
theorem sealAndBroadcastWords : Obligations.SealAndBroadcastWords := by
  refine ⟨?_, fun s c gd d a z r y t => ⟨?_, ?_, ?_, ?_, ?_⟩⟩
  · intro s c gd d a sf t set r p g i h l rest lanes there
    cases set with
    | true => exact ⟨_, rfl, sealWord_result h rfl lanes there true sf.toNat⟩
    | false => exact ⟨_, rfl, sealWord_result h rfl lanes there false sf.toNat⟩
  · rw [← flag_eq r, ← flag_eq y]
    have reads : (Instr.cmSt c gd d a z r t y).reads = [a.toNat] ++ wideRegs (z == 1) d.toNat := by rw [← flag_eq z]; rfl
    rw [← reads]
    refine sendWord_sends rfl rfl fun x => ?_
    rw [reads, cmData_eq z x, offset_payload]
    rfl
  · rw [← flag_eq r, ← flag_eq y]
    have reads : (Instr.cmAdd c gd d a z r t y).reads = [a.toNat] ++ wideRegs (z == 1) d.toNat := by rw [← flag_eq z]; rfl
    rw [← reads]
    refine sendWord_sends rfl rfl fun x => ?_
    rw [reads, cmData_eq z x, offset_payload]
    rfl
  · rw [← flag_eq r, ← flag_eq y]
    exact sendWord_sends (i := .cmClaim c gd d a r t y) rfl rfl fun x => by
      rw [← offset_payload]
      rfl
  · rw [← flag_eq r, ← flag_eq y]
    exact sendWord_sends (i := .cmLaunch c gd d a r t y) rfl rfl fun _ => rfl
  · rw [← flag_eq r, ← flag_eq y]
    exact sendWord_sends (i := .cmPte c gd d a r t y) rfl rfl fun _ => rfl

end Sys2Proof.Machine
